-- ==== Sys2Proof/Word.lean ====
section
/-! DEFINITION. The word types of the RKW-1100 and their plainest arithmetic (spec 00 R1, 01 R15, 03 R71, 08 R238). -/

namespace Sys2Proof

/-- One byte of a place or of memory. -/
abbrev Byte := BitVec 8
/-- A C-stream register value (R175). -/
abbrev X64 := BitVec 64
/-- A 32-bit instruction word (R148). -/
abbrev IWord := BitVec 32
/-- A virtual or instruction address (R373, R182). -/
abbrev VAddr := BitVec 56
/-- A place address in the layout of Table 3.1. -/
abbrev PlaceAddr := BitVec 32
/-- One accumulator row: 448 bytes (R36). -/
abbrev Row := BitVec 3584
/-- One predicate: one bit for each byte of a row (R238). -/
abbrev PredBits := BitVec 448
/-- A core identifier: y·32 + x (R15). -/
abbrev CoreId := BitVec 10
/-- A context slot (R400). -/
abbrev Slot := BitVec 8
/-- A node identifier of the domain (R418). -/
abbrev Node := BitVec 12

/-- Bits `[hi:lo]` of `v`, as a number (R1). -/
def bitsNat {n : Nat} (v : BitVec n) (hi lo : Nat) : Nat :=
  (v.toNat >>> lo) % 2 ^ (hi + 1 - lo)

/-- Bits `[hi:lo]` of a number (R1). -/
def natBits (v hi lo : Nat) : Nat :=
  (v >>> lo) % 2 ^ (hi + 1 - lo)

/-- The field of width `w` whose lowest bit is bit `lo` of `v` (R1). -/
abbrev fld {n : Nat} (v : BitVec n) (lo w : Nat) : BitVec w :=
  v.extractLsb' lo w

end Sys2Proof
end

