-- ==== Sys2Proof/Machine/Flags.lean ====
section
/-! DEFINITION. Flags and conditions: the sticky flags of VSTAT and when each is set (Table 2.10, R55, R56, R59), the
conditions of cmp and cmpi (Table 5.3) and of vcmp (R252), and the write-one-to-clear rule (R6). -/

namespace Sys2Proof.Machine

/-- Flags of VSTAT (Table 2.10). -/
abbrev Flags := BitVec 5

def fNV : Flags := 1
def fOF : Flags := 2
def fUF : Flags := 4
def fNX : Flags := 8
def fSI : Flags := 16

/-- The flag when the condition holds. -/
def flagIf (c : Bool) (f : Flags) : Flags := if c then f else 0

/-- W1C: a write clears the bits that it writes as 1 (R6, R61). -/
def w1c (f : Flags) (w : X64) : Flags := f &&& ~~~ w.setWidth 5

/-- Sat(v, fmt) for the range from `lo` to `hi` (R56). -/
def clip (lo hi v : Int) : Int := if v < lo then lo else if hi < v then hi else v

/-- SI when the clip changed the value (R56). -/
def clipFlag (lo hi v : Int) : Flags := flagIf (clip lo hi v != v) fSI

/-- RoundShift(v, n) (R57). -/
def roundShift (v : Int) (n : Nat) : Int := if n = 0 then v else (v + 2 ^ (n - 1)) / 2 ^ n

/-- The conditions of Table 5.3, by their codes. -/
def condHolds (cc : BitVec 5) (a b : X64) : Bool :=
  match cc.toNat with
  | 0 => a == b
  | 1 => a != b
  | 2 => a.slt b
  | 3 => a.sle b
  | 4 => b.slt a
  | 5 => b.sle a
  | 6 => a.ult b
  | 7 => a.ule b
  | 8 => b.ult a
  | 9 => b.ule a
  | 10 => a &&& b == 0
  | 11 => a &&& b != 0
  | _ => false

/-- The conditions of vcmp, by their codes (R252). -/
def laneCond (cc : BitVec 3) (a b : Int) : Bool :=
  match cc.toNat with
  | 0 => a == b
  | 1 => a != b
  | 2 => decide (a < b)
  | 3 => decide (a ≤ b)
  | 4 => decide (b < a)
  | 5 => decide (b ≤ a)
  | _ => false

end Sys2Proof.Machine
end

