-- ==== Sys2Proof/Machine/Num.lean ====
section
/-! DEFINITION. Number formats and rounding (R38 to R58): decoding an encoding to its exact value, rounding an exact value
once to a format with its flags, conversions between formats, and the floating-point operations that are formed exactly
and rounded once. A lane or an element is a natural number of its format's width. -/

namespace Sys2Proof.Machine

/-! ### Formats -/

/-- A floating-point format (Table 2.2): exponent bits, bias, fraction bits, and whether it has infinities and NaNs. -/
structure FFmt where
  e : Nat
  bias : Nat
  m : Nat
  inf : Bool
  nan : Bool
  deriving DecidableEq, Repr

/-- The floating-point format of a code (Tables 2.2 and 2.6). -/
def floatFmt : Nat → Option FFmt
  | 0x0A => some ⟨2, 1, 1, false, false⟩
  | 0x0B => some ⟨2, 1, 3, false, false⟩
  | 0x0C => some ⟨3, 3, 2, false, false⟩
  | 0x0D => some ⟨4, 7, 3, false, true⟩
  | 0x0E => some ⟨5, 15, 2, true, true⟩
  | 0x0F => some ⟨8, 127, 7, true, true⟩
  | 0x10 => some ⟨5, 15, 10, true, true⟩
  | 0x11 => some ⟨8, 127, 23, true, true⟩
  | 0x12 => some ⟨9, 255, 46, true, true⟩
  | _ => none

def fmtF32 : FFmt := ⟨8, 127, 23, true, true⟩
def fmtW56 : FFmt := ⟨9, 255, 46, true, true⟩

/-- Bits of a format of the integer types and the floating-point types (Tables 2.1, 2.2 and 2.6). -/
def fmtBits : Nat → Nat
  | 0x00 | 0x01 => 4
  | 0x02 | 0x03 => 8
  | 0x04 | 0x05 => 16
  | 0x06 | 0x07 => 32
  | 0x08 | 0x09 => 64
  | 0x0A => 4
  | 0x0B | 0x0C => 6
  | 0x0D | 0x0E => 8
  | 0x0F | 0x10 => 16
  | 0x11 => 32
  | 0x12 => 56
  | _ => 8

/-- Lane width of an element type: 8 for the 6-bit formats (R235). -/
def laneBits (f : Nat) : Nat := if f = 0x0B ∨ f = 0x0C then 8 else fmtBits f

/-- A code of the integer types. -/
def isInt (f : Nat) : Bool := decide (f ≤ 9)

/-- An integer type is signed (Table 2.6). -/
def isSigned (f : Nat) : Bool := decide (f % 2 = 0)

/-- Range of an integer format (Table 2.1). -/
def intMin (f : Nat) : Int := if isSigned f then -(2 ^ (fmtBits f - 1) : Int) else 0
def intMax (f : Nat) : Int := if isSigned f then (2 ^ (fmtBits f - 1) : Int) - 1 else (2 ^ fmtBits f : Int) - 1

/-- The value of `w` bits read as signed or unsigned. -/
def intOf (signed : Bool) (w v : Nat) : Int :=
  let u := v % 2 ^ w
  if signed && decide (2 ^ (w - 1) ≤ u) then (u : Int) - 2 ^ w else u

/-- An integer modulo 2^w. -/
def wrapTo (w : Nat) (v : Int) : Nat := (v % (2 ^ w : Int)).toNat

/-! ### Values -/

/-- The class and exact value of an encoding (R41): `fin s m e` is (−1)^s · m · 2^e. -/
inductive Val where
  | nan
  | inf (neg : Bool)
  | fin (neg : Bool) (m : Nat) (e : Int)
  deriving DecidableEq, Repr, Inhabited

/-- Decode (R41). -/
def FFmt.decode (f : FFmt) (bits : Nat) : Val :=
  let s := decide (bits / 2 ^ (f.e + f.m) % 2 = 1)
  let ef := bits / 2 ^ f.m % 2 ^ f.e
  let fr := bits % 2 ^ f.m
  if ef = 2 ^ f.e - 1 ∧ f.inf ∧ fr = 0 then .inf s
  else if ef = 2 ^ f.e - 1 ∧ f.inf then .nan
  else if ef = 2 ^ f.e - 1 ∧ f.nan ∧ fr = 2 ^ f.m - 1 then .nan
  else if ef = 0 then .fin s fr (1 - f.bias - f.m)
  else .fin s (2 ^ f.m + fr) (ef - f.bias - f.m)

/-- The canonical NaN (Table 2.3); +0 in a format without NaN (R53). -/
def FFmt.canonNan (f : FFmt) : Nat :=
  if f.inf then (2 ^ f.e - 1) * 2 ^ f.m + 2 ^ (f.m - 1)
  else if f.nan then 2 ^ (f.e + f.m) - 1 else 0

/-- The sign bit at its place. -/
def FFmt.signBit (f : FFmt) (neg : Bool) : Nat := if neg then 2 ^ (f.e + f.m) else 0

/-- The encoding of the largest finite magnitude (Table 2.2). -/
def FFmt.maxBits (f : FFmt) : Nat :=
  if f.inf then (2 ^ f.e - 1) * 2 ^ f.m - 1
  else if f.nan then 2 ^ (f.e + f.m) - 2 else 2 ^ (f.e + f.m) - 1

/-- The encoding of an infinity, or of ±largest where the format has none. -/
def FFmt.infBits (f : FFmt) (neg : Bool) : Nat :=
  f.signBit neg + (if f.inf then (2 ^ f.e - 1) * 2 ^ f.m else f.maxBits)

/-! ### Rounding -/

/-- The integer nearest m · 2^e by a mode (Table 2.7, R54), and whether it differs: modes 0 .rne, 1 .rz, 2 .ru, 3 .rd,
4 .sr with the random value `r` and `k` of its bits. -/
def roundInt (neg : Bool) (m : Nat) (e : Int) (mode r k : Nat) : Nat × Bool :=
  if 0 ≤ e then (m * 2 ^ e.toNat, false)
  else
    let d := (-e).toNat
    let n := m / 2 ^ d
    let rem := m % 2 ^ d
    if rem = 0 then (n, false)
    else
      let up := match mode with
        | 0 => decide (2 ^ d < 2 * rem) || (decide (2 * rem = 2 ^ d) && decide (n % 2 = 1))
        | 1 => false
        | 2 => !neg
        | 3 => neg
        | _ => decide (r % 2 ^ k < rem * 2 ^ k / 2 ^ d)
      (if up then n + 1 else n, true)

/-- The outcome of an overflow (Table 2.8). -/
def FFmt.overflow (f : FFmt) (neg : Bool) (mode : Nat) : Nat :=
  let big := f.signBit neg + f.maxBits
  match mode with
  | 1 => big
  | 2 => if neg then big else f.infBits neg
  | 3 => if neg then f.infBits neg else big
  | _ => f.infBits neg

/-- Exponent of the highest one bit of m · 2^e. -/
def msbExp (m : Nat) (e : Int) : Int := m.log2 + e

/-- RoundTo of a finite value (R52): its encoding and its flags. -/
def FFmt.roundFin (f : FFmt) (neg : Bool) (m : Nat) (e : Int) (mode r k : Nat) : Nat × Flags :=
  if m = 0 then (f.signBit neg, 0)
  else
    let emin : Int := 1 - f.bias
    let q0 := msbExp m e - f.m
    let q := max q0 (emin - f.m)
    let (n, inexact) := roundInt neg m (e - q) mode r k
    -- tiny: below the smallest normal after rounding with an unbounded exponent
    let n0 := (roundInt neg m (e - q0) mode r k).1
    let tiny := decide (q0 < emin - f.m) && decide ((n0 : Int) < 2 ^ (emin - q0).toNat)
    let (n, q) := if n = 2 ^ (f.m + 1) then (2 ^ f.m, q + 1) else (n, q)
    let mag : Nat := if n < 2 ^ f.m then n else ((q + f.m + f.bias).toNat) * 2 ^ f.m + (n - 2 ^ f.m)
    if f.maxBits < mag then (f.overflow neg mode, fOF ||| fNX)
    else (f.signBit neg + mag, flagIf inexact fNX ||| flagIf (tiny && inexact) fUF)

/-- RoundTo (R52, R43, R53). -/
def FFmt.roundTo (f : FFmt) (v : Val) (mode r k : Nat) : Nat × Flags :=
  match v with
  | .nan => (f.canonNan, flagIf (!f.nan) fNV)
  | .inf neg => (f.infBits neg, flagIf (!f.inf) fNV)
  | .fin neg m e => f.roundFin neg m e mode r k

/-- A value converted to an integer format (R55). -/
def toIntFmt (fmt : Nat) (v : Val) (mode r k : Nat) : Int × Flags :=
  match v with
  | .nan => (0, fNV)
  | .inf neg => (if neg then intMin fmt else intMax fmt, fNV)
  | .fin neg m e =>
    let (n, inexact) := roundInt neg m e mode r k
    let i : Int := if neg then -(n : Int) else n
    let c := clip (intMin fmt) (intMax fmt) i
    (c, flagIf inexact fNX ||| flagIf (c != i) fNV)

/-- An integer as a value. -/
def valOfInt (i : Int) : Val := .fin (decide (i < 0)) i.natAbs 0

/-! ### Operations -/

/-- The sign of a zero sum of operands of opposite signs (R58). -/
def zeroSign (mode : Nat) : Bool := mode == 3

/-- The signed integer of a finite value at an exponent not above its own. -/
def scaled (neg : Bool) (m : Nat) (e lo : Int) : Int :=
  let n : Int := m * 2 ^ (e - lo).toNat
  if neg then -n else n

/-- Exact sum of two finite values (R58). -/
def addFin (sa : Bool) (ma : Nat) (ea : Int) (sb : Bool) (mb : Nat) (eb : Int) (mode : Nat) : Val :=
  let lo := min ea eb
  let t := scaled sa ma ea lo + scaled sb mb eb lo
  if t = 0 then .fin (if sa = sb then sa else zeroSign mode) 0 0 else .fin (decide (t < 0)) t.natAbs lo

/-- a + b before rounding (R250, R58), with NV for ∞ − ∞. -/
def addVal (a b : Val) (mode : Nat) : Val × Flags :=
  match a, b with
  | .nan, _ => (.nan, 0)
  | _, .nan => (.nan, 0)
  | .inf s, .inf t => if s = t then (.inf s, 0) else (.nan, fNV)
  | .inf s, _ => (.inf s, 0)
  | _, .inf t => (.inf t, 0)
  | .fin sa ma ea, .fin sb mb eb => (addFin sa ma ea sb mb eb mode, 0)

/-- −v. -/
def negVal : Val → Val
  | .nan => .nan
  | .inf s => .inf (!s)
  | .fin s m e => .fin (!s) m e

/-- a · b before rounding, with NV for 0 × ∞ (R250, R58). -/
def mulVal (a b : Val) : Val × Flags :=
  match a, b with
  | .nan, _ => (.nan, 0)
  | _, .nan => (.nan, 0)
  | .inf s, .inf t => (.inf (s != t), 0)
  | .inf s, .fin t m _ => if m = 0 then (.nan, fNV) else (.inf (s != t), 0)
  | .fin s m _, .inf t => if m = 0 then (.nan, fNV) else (.inf (s != t), 0)
  | .fin s m e, .fin t n g => (.fin (s != t) (m * n) (e + g), 0)

/-- a · b + c before rounding; a NaN input sets no flag (R250). -/
def fmaVal (a b c : Val) (mode : Nat) : Val × Flags :=
  if a = .nan ∨ b = .nan ∨ c = .nan then (.nan, 0)
  else
    let p := mulVal a b
    let r := addVal p.1 c mode
    (r.1, p.2 ||| r.2)

/-- An operation's exact result rounded once, with both its own flags and the rounding's. -/
def FFmt.finish (f : FFmt) (v : Val × Flags) (mode r k : Nat) : Nat × Flags :=
  let x := f.roundTo v.1 mode r k
  (x.1, v.2 ||| x.2)

/-- The order of two finite or infinite values: a < b, with −0 equal to +0. -/
def ltVal (a b : Val) : Bool :=
  match a, b with
  | .nan, _ => false
  | _, .nan => false
  | .inf s, .inf t => s && !t
  | .inf s, _ => s
  | _, .inf t => !t
  | .fin sa ma ea, .fin sb mb eb =>
    let lo := min ea eb
    decide (scaled sa ma ea lo < scaled sb mb eb lo)

/-- Equality of values: −0 equals +0, a NaN equals nothing (R252). -/
def eqVal (a b : Val) : Bool :=
  match a, b with
  | .nan, _ => false
  | _, .nan => false
  | .inf s, .inf t => s == t
  | .inf _, _ => false
  | _, .inf _ => false
  | .fin sa ma ea, .fin sb mb eb =>
    let lo := min ea eb
    decide (scaled sa ma ea lo = scaled sb mb eb lo)

/-- The sign of a value. -/
def Val.neg : Val → Bool
  | .nan => false
  | .inf s => s
  | .fin s _ _ => s

/-- fmin and fmax (R251): −0 lies below +0, and a NaN gives the canonical NaN. -/
def FFmt.minMax (f : FFmt) (isMax : Bool) (a b : Nat) : Nat :=
  let x := f.decode a
  let y := f.decode b
  if x = .nan ∨ y = .nan then f.canonNan
  else
    let below := ltVal x y || (eqVal x y && x.neg && !y.neg)
    if below != isMax then a else b

/-- The conditions of fcmp, by their codes (R252). -/
def fCond (cc : BitVec 3) (a b : Val) : Bool :=
  let un := a == .nan || b == .nan
  match cc.toNat with
  | 0 => eqVal a b
  | 1 => un || !eqVal a b
  | 2 => ltVal a b
  | 3 => ltVal a b || eqVal a b
  | 4 => ltVal b a
  | 5 => ltVal b a || eqVal a b
  | 6 => un
  | _ => false

/-- The value of a lane of any element type. -/
def laneVal (fmt bits : Nat) : Val :=
  match floatFmt fmt with
  | some f => f.decode bits
  | none => valOfInt (intOf (isSigned fmt) (fmtBits fmt) bits)

/-- ConvertLane (R254). -/
def convertLane (x src dst mode r : Nat) (sat : Bool) : Nat × Flags :=
  let k := Nat.min (laneBits dst) 16
  match floatFmt dst with
  | some f => f.roundTo (laneVal src x) mode r k
  | none =>
    if isInt src then
      let v := intOf (isSigned src) (fmtBits src) x
      if sat then
        (wrapTo (fmtBits dst) (clip (intMin dst) (intMax dst) v), clipFlag (intMin dst) (intMax dst) v)
      else (x % 2 ^ fmtBits dst, 0)
    else
      let c := toIntFmt dst (laneVal src x) mode r k
      (wrapTo (fmtBits dst) c.1, c.2)

/-- An atfadd: the sum of two f32 values rounded by .rne; no flag is set (R202). -/
def atfadd32 (m b : Nat) : Nat := (fmtF32.finish (addVal (fmtF32.decode m) (fmtF32.decode b) 0) 0 0 0).1

/-! ### Horizontal sums -/

/-- One level of PairTree (R69). -/
def pairLevel {α : Type} (op : α → α → α) : List α → List α
  | a :: b :: t => op a b :: pairLevel op t
  | l => l

/-- PairTree (R69), with as many levels as `fuel`. -/
def pairTree {α : Type} (op : α → α → α) : Nat → List α → List α
  | 0, l => l
  | n + 1, l => pairTree op n (pairLevel op l)

end Sys2Proof.Machine
end

