-- ==== Sys2Proof/Syntax.lean ====
section
/-! DEFINITION. The instructions and events of the RKW-1100: one constructor for each row of
spec/opcode_table.json. The instructions of the three families C32, D32 and A32 carry the fields of
Tables 5.1, 5.6 and 5.9. A row without an encoding is an EVENT of the hub, of an engine, of the bus or of
the outside world; its constructor carries what the event is about. -/

namespace Sys2Proof

/-- The four streams of a core, in the numbering of TSTREAM: C 0, L 1, A 2, S 3 (R206, Table 10.2). -/
inductive Stream where
  | c | l | a | s
  deriving DecidableEq, Repr, Inhabited

/-- Token fields of a D32 or A32 word: pop in bits [3:2], push in bits [1:0] (R159, R162). -/
structure Tok where
  pop  : BitVec 2
  push : BitVec 2
  deriving DecidableEq, Repr, Inhabited

/-- Subformats V3 (R163): three rows, the governing predicate, the transient bit, tokens. -/
structure V3 where
  vd : BitVec 6
  va : BitVec 6
  vb : BitVec 6
  p  : BitVec 3
  t  : BitVec 1
  tok : Tok
  deriving DecidableEq, Repr, Inhabited

/-- Subformat V2 (R163), less its function field. -/
structure V2 where
  vd : BitVec 6
  va : BitVec 6
  p  : BitVec 3
  t  : BitVec 1
  tok : Tok
  deriving DecidableEq, Repr, Inhabited

/-- Subformat VF (R163): a format and the saturation bit S. -/
structure VF where
  vd : BitVec 6
  va : BitVec 6
  fmt : BitVec 5
  sat : BitVec 1
  p  : BitVec 3
  t  : BitVec 1
  tok : Tok
  deriving DecidableEq, Repr, Inhabited

/-- Subformat VI (R163): a lane immediate. -/
structure VI where
  vd : BitVec 6
  va : BitVec 6
  n  : BitVec 6
  p  : BitVec 3
  t  : BitVec 1
  tok : Tok
  deriving DecidableEq, Repr, Inhabited

/-- Subformat VC (R163): a lane compare into a predicate. -/
structure VC where
  pd : BitVec 3
  cc : BitVec 3
  va : BitVec 6
  vb : BitVec 6
  p  : BitVec 3
  tok : Tok
  deriving DecidableEq, Repr, Inhabited

/-- One instruction or event of the RKW-1100. -/
inductive Instr where
  -- C32: integer (R177, R178), majors 0x01 and 0x02
  | add (d a b : BitVec 5)
  | sub (d a b : BitVec 5)
  | and (d a b : BitVec 5)
  | or (d a b : BitVec 5)
  | xor (d a b : BitVec 5)
  | shl (d a b : BitVec 5)
  | shr (d a b : BitVec 5)
  | sar (d a b : BitVec 5)
  | rotl (d a b : BitVec 5)
  | min (d a b : BitVec 5)
  | max (d a b : BitVec 5)
  | minn (d a b : BitVec 5)
  | maxn (d a b : BitVec 5)
  | clz (d a : BitVec 5)
  | ctz (d a : BitVec 5)
  | popc (d a : BitVec 5)
  | sext8 (d a : BitVec 5)
  | sext16 (d a : BitVec 5)
  | sext32 (d a : BitVec 5)
  | zext8 (d a : BitVec 5)
  | zext16 (d a : BitVec 5)
  | zext32 (d a : BitVec 5)
  | mul (d a b : BitVec 5)
  | mulh (d a b : BitVec 5)
  | mulhn (d a b : BitVec 5)
  | div (d a b : BitVec 5)
  | divn (d a b : BitVec 5)
  | rem (d a b : BitVec 5)
  | remn (d a b : BitVec 5)
  -- C32: addresses, bit fields, immediates (R179 to R181)
  | adda (d a b : BitVec 5)
  | mada (d a b sh : BitVec 5)
  | bfx (d a : BitVec 5) (pos width : BitVec 6)
  | bfxs (d a : BitVec 5) (pos width : BitVec 6)
  | bfi (d a : BitVec 5) (pos width : BitVec 6)
  | shli (d a : BitVec 5) (pos : BitVec 6)
  | shri (d a : BitVec 5) (pos : BitVec 6)
  | sari (d a : BitVec 5) (pos : BitVec 6)
  | addi (d a : BitVec 5) (imm : BitVec 16)
  | andi (d a : BitVec 5) (imm : BitVec 16)
  | ori (d a : BitVec 5) (imm : BitVec 16)
  | xori (d a : BitVec 5) (imm : BitVec 16)
  | lim (d : BitVec 5) (imm : BitVec 21)
  | lih (d : BitVec 5) (q : BitVec 2) (imm : BitVec 16)
  -- C32: steer registers (R184 to R193)
  | cmp (cc a b : BitVec 5) (j : BitVec 4)
  | cmpi (cc a : BitVec 5) (imm : BitVec 12) (j : BitVec 4)
  | jand (j ja jb : BitVec 4)
  | jor (j ja jb : BitVec 4)
  | jmov (j ja : BitVec 4)
  | jclr (j : BitVec 4)
  | prep (j : BitVec 4) (off : BitVec 22)
  | prepx (j : BitVec 4) (a : BitVec 5)
  | xferA (j : BitVec 4)
  | xferT (j : BitVec 4)
  | xferF (j : BitVec 4)
  | xferl (j ja : BitVec 4)
  | jrd (d : BitVec 5) (j : BitVec 4)
  -- C32: loops and tokens (R194 to R198)
  | loop (lp : BitVec 2) (a : BitVec 5) (skip : BitVec 16)
  | loopc (lp : BitVec 2) (j : BitVec 4) (max : BitVec 20)
  | lend (lp : BitVec 2)
  | tksend (a : BitVec 5) (t : BitVec 2)
  | tkrecv (d : BitVec 5) (t : BitVec 2)
  -- C32: scalar accesses and atomics (R199 to R203)
  | ldxPlace (d a : BitVec 5) (ord : BitVec 4) (ty : BitVec 3) (imm : BitVec 4)
  | ldxHandle (d h b : BitVec 5) (ord : BitVec 4) (ty : BitVec 3) (imm : BitVec 4)
  | stxPlace (d a : BitVec 5) (ord : BitVec 4) (ty : BitVec 3) (imm : BitVec 4)
  | stxHandle (d h b : BitVec 5) (ord : BitVec 4) (ty : BitVec 3) (imm : BitVec 4)
  | ldxpPlace (d a : BitVec 5) (ord imm : BitVec 4)
  | ldxpHandle (d h b : BitVec 5) (ord imm : BitVec 4)
  | stxpPlace (d a : BitVec 5) (ord imm : BitVec 4)
  | stxpHandle (d h b : BitVec 5) (ord imm : BitVec 4)
  | ataddPlace (d a b : BitVec 5) (ord : BitVec 4) (sz : BitVec 1)
  | ataddHandle (d h b : BitVec 5) (ord : BitVec 4) (sz : BitVec 1)
  | atswpPlace (d a b : BitVec 5) (ord : BitVec 4) (sz : BitVec 1)
  | atswpHandle (d h b : BitVec 5) (ord : BitVec 4) (sz : BitVec 1)
  | atcasPlace (d a b : BitVec 5) (ord : BitVec 4) (sz : BitVec 1)
  | atcasHandle (d h b : BitVec 5) (ord : BitVec 4) (sz : BitVec 1)
  | atminPlace (d a b : BitVec 5) (ord : BitVec 4) (sz : BitVec 1)
  | atminHandle (d h b : BitVec 5) (ord : BitVec 4) (sz : BitVec 1)
  | atmaxPlace (d a b : BitVec 5) (ord : BitVec 4) (sz : BitVec 1)
  | atmaxHandle (d h b : BitVec 5) (ord : BitVec 4) (sz : BitVec 1)
  | atandPlace (d a b : BitVec 5) (ord : BitVec 4) (sz : BitVec 1)
  | atandHandle (d h b : BitVec 5) (ord : BitVec 4) (sz : BitVec 1)
  | atorPlace (d a b : BitVec 5) (ord : BitVec 4) (sz : BitVec 1)
  | atorHandle (d h b : BitVec 5) (ord : BitVec 4) (sz : BitVec 1)
  | atxorPlace (d a b : BitVec 5) (ord : BitVec 4) (sz : BitVec 1)
  | atxorHandle (d h b : BitVec 5) (ord : BitVec 4) (sz : BitVec 1)
  | atfaddPlace (d a b : BitVec 5) (ord : BitVec 4)
  | atfaddHandle (d h b : BitVec 5) (ord : BitVec 4)
  -- C32: object instructions (Table 5.5)
  | kinv (a : BitVec 5)
  | spawn (d a : BitVec 5)
  | kick (a b : BitVec 5)
  | texit
  | gsync
  | yield
  | bari (a b : BitVec 5)
  | barm (a b : BitVec 5)
  | bara (a b : BitVec 5)
  | bwait (a b : BitVec 5)
  | btest (d a : BitVec 5)
  | sqadd (a b : BitVec 5)
  | sqwait (a b c : BitVec 5)
  | sqrd (d a : BitVec 5)
  | trans (h a : BitVec 5)
  | hinv (h : BitVec 5)
  | hrd (d h : BitVec 5)
  | splnt (a : BitVec 5)
  | hshoot (a b : BitVec 5)
  | poolup (a b : BitVec 5)
  | poolev (a : BitVec 5)
  | poolscan (d a : BitVec 5)
  | ckpt (d : BitVec 5)
  | ckwait (a : BitVec 5)
  | ctxsave (a : BitVec 5)
  | ctxrest (a : BitVec 5)
  | lsopen (d a : BitVec 5)
  | lsclose (a : BitVec 5)
  | lsync (a : BitVec 5)
  | lretire (a : BitVec 5)
  | gang (a b : BitVec 5)
  -- C32: engine commands (Table 9.7)
  | cpyPlace (a : BitVec 5)
  | cpyHandle (h b : BitVec 5)
  | cpyxPlace (a : BitVec 5)
  | cpyxHandle (h b : BitVec 5)
  | cpymPlace (a : BitVec 5)
  | cpymHandle (h b : BitVec 5)
  | strmPlace (a : BitVec 5)
  | strmHandle (h b : BitVec 5)
  | fexPlace (a : BitVec 5)
  | fexHandle (h b : BitVec 5)
  | scrbPlace (a : BitVec 5)
  | scrbHandle (h b : BitVec 5)
  | nvrdPlace (a : BitVec 5)
  | nvrdHandle (h b : BitVec 5)
  | nvwrPlace (a : BitVec 5)
  | nvwrHandle (h b : BitVec 5)
  | credPlace (a : BitVec 5)
  | credHandle (h b : BitVec 5)
  -- C32: fences and system instructions (R204 to R207)
  | fenceAcq (s : BitVec 3)
  | fenceRel (s : BitVec 3)
  | fenceSc (s : BitVec 3)
  | csrr (d : BitVec 5) (csr : BitVec 12)
  | csrw (a : BitVec 5) (csr : BitVec 12)
  | trap (n : BitVec 8)
  | eret
  | iinv (a b : BitVec 5)
  | halt
  | dbgbrk
  | nop
  -- D32 (Table 5.7)
  | ldv (v : BitVec 6) (a : BitVec 4) (imm : BitVec 12) (tok : Tok)
  | ldvd (v : BitVec 6) (a : BitVec 4) (dir : BitVec 1) (imm : BitVec 11) (tok : Tok)
  | ldvg (v : BitVec 6) (a : BitVec 4) (vi : BitVec 6) (tok : Tok)
  | ldsc (a : BitVec 4) (imm : BitVec 12) (tok : Tok)
  | mark (m : BitVec 4) (tok : Tok)
  | fenceD (s : BitVec 3) (tok : Tok)
  | waita (a : BitVec 4) (limit : BitVec 12) (tok : Tok)
  | ainc (a : BitVec 4) (imm : BitVec 12) (tok : Tok)
  | stv (v : BitVec 6) (a : BitVec 4) (imm : BitVec 12) (tok : Tok)
  | stvd (v : BitVec 6) (a : BitVec 4) (dir : BitVec 1) (imm : BitVec 11) (tok : Tok)
  | stvx (v : BitVec 6) (a : BitVec 4) (vi : BitVec 6) (tok : Tok)
  | note (a : BitVec 4) (imm : BitVec 12) (tok : Tok)
  | lfence (tok : Tok)
  -- D32 and A32 control (Table 5.6)
  | loopDA (lp : BitVec 2) (skip : BitVec 8) (count : BitVec 12) (tok : Tok)
  | loopcDA (lp : BitVec 2) (j : BitVec 2) (max : BitVec 18) (tok : Tok)
  | lendDA (lp : BitVec 2) (tok : Tok)
  | lendR (lp : BitVec 2) (tok : Tok)
  | prepDA (j : BitVec 2) (off : BitVec 20) (tok : Tok)
  | xferADA (j : BitVec 2) (tok : Tok)
  | xferTDA (j : BitVec 2) (tok : Tok)
  | xferFDA (j : BitVec 2) (tok : Tok)
  | nopDA (tok : Tok)
  -- A32 vector (Table 5.10)
  | vadd (f : V3)
  | vsub (f : V3)
  | vadds (f : V3)
  | vsubs (f : V3)
  | vavg (f : V3)
  | vmul (f : V3)
  | vmulh (f : V3)
  | vmulq (f : V3)
  | vmac (f : V3)
  | vabd (f : V3)
  | vmin (f : V3)
  | vmax (f : V3)
  | vand (f : V3)
  | vor (f : V3)
  | vxor (f : V3)
  | vshl (f : V3)
  | vshr (f : V3)
  | vsar (f : V3)
  | vshrr (f : V3)
  | vshls (f : V3)
  | vsel (f : V3)
  | vperm (f : V3)
  | vzip (f : V3)
  | vunzip (f : V3)
  | fadd (f : V3)
  | fsub (f : V3)
  | fmul (f : V3)
  | ffma (f : V3)
  | fmin (f : V3)
  | fmax (f : V3)
  | vabs (f : V2)
  | vnot (f : V2)
  | vclz (f : V2)
  | vpopc (f : V2)
  | fabs (f : V2)
  | fneg (f : V2)
  | vrsum (f : V2)
  | vrmax (f : V2)
  | vrmin (f : V2)
  | vcmp (f : VC)
  | fcmp (f : VC)
  | vcvtRne (f : VF)
  | vcvtRz (f : VF)
  | vcvtRu (f : VF)
  | vcvtRd (f : VF)
  | vcvtSr (f : VF)
  | vnarrow (f : VF)
  | vwiden (f : VF)
  | pxunp (f : VF)
  | pxpak (f : VF)
  | vslide (f : VI)
  | vbcast (f : VI)
  | pand (pd pa pb : BitVec 3) (tok : Tok)
  | por (pd pa pb : BitVec 3) (tok : Tok)
  | pxor (pd pa pb : BitVec 3) (tok : Tok)
  | pnot (pd pa : BitVec 3) (tok : Tok)
  | pcnt (vd : BitVec 6) (pa : BitVec 3) (tok : Tok)
  | pfirst (pd pa : BitVec 3) (tok : Tok)
  | pset (pd : BitVec 3) (n : BitVec 6) (tok : Tok)
  | vcmpjAny (j : BitVec 2) (pa : BitVec 3) (tok : Tok)
  | vcmpjAll (j : BitVec 2) (pa : BitVec 3) (tok : Tok)
  | vtype (fmt : BitVec 5) (rm : BitVec 3) (tok : Tok)
  -- A32 matrix and REP
  | mcfg (fa fb : BitVec 5) (tok : Tok)
  | mzero (m : BitVec 1) (tok : Tok)
  | mwl (tok : Tok)
  | mswap (tok : Tok)
  | mma (m : BitVec 1) (tok : Tok)
  | mmas (m : BitVec 1) (tok : Tok)
  | rep (count : BitVec 7) (sd sa sb : BitVec 2)
  -- the events, which have no encoding
  | divideComplete | prefetchComplete | steerDelivery | tokenStall | gsyncWaitLimit | objectWaitLimit
  | hubNotification | walkEnd | faultcmdRetry | faultcmdAbsent | poolFillEnd | poolDrainEnd | poolAgeTick
  | ckwaitWaitLimit | fenceComplete | slotmapTakesEffect | scaleQueueFullLimit | markStallLimit
  | waitaWaitLimit | lfenceComplete | readDataReturn | storeVisible | meshArrival | writeBufferDrain
  | correctedWriteBack | scrub | laneRetirement | bankMarkedFailed | rebuildComplete | recoveryPoint
  | shortScaleQueueLimit | mwlLoaded | mswapEffect | mmaWrite | repRepetition | aStreamWrite
  | transientWindowEnd | engineAccept | engineItemStart | engineItemWaitLimit | copyComplete | cpymFollowOnMwl
  | strmComplete | fireflySweepComplete | scarabDecode | nvmeItemComplete | nvmeCommandTimeout
  | downstreamPortContainment | credComplete | credWaitLimit | tailKick | replayKick | replayAccept
  | cardAccept | queueEnable | queueDrain | queueHalt | queueResume | queueSkip | queueDisable | graphLoad
  | graphUnload | decisionRound | taskAged | stallWireRelease | safePointRendezvous | rendezvousTimeout
  | corecmdReturn | corecmdRemove | scanStart | scanDrainTimeout | scanEnd | trapcmdResume | trapcmdHandler
  | trapcmdKill | trapcmdRollback | ctxcmdCreate | ctxcmdLoad | ctxcmdStart | ctxcmdFreeze | ctxcmdUnfreeze
  | ctxcmdKill | ctxcmdRollback | ctxcmdDestroy | saveDrainLimit | ownerRequest | ownerOpen | ownerClose
  | ownerSessionExpiry | requesterAnswer | retransmitTimeout | busyLimit | heartbeat | sessionSettle
  | packetExpiry | idpop | gangPrepare | gangCommit | gangAbort | gangGo | gangHoldExpiry | gangWatchdogExpiry
  | keyinst | keydel | fwstage | setlim | mboxReset | budgetPeriod | moduleReset | uncontainedError
  | hostMemRead | hostMemWrite | bar0UnsupportedRequest | getVersion | getCapabilities | negotiateAlgorithms
  | getDigests | getCertificate | challenge | getMeasurements | spdmUnsupported | registerWrite | illegalOp
  | serialCapStallLimit | watermarkReceipt | kinvComplete | nvmePortRetrained | dieTemperatureChange
  | gscAdvance
  deriving DecidableEq, Repr, Inhabited

/-- An answer of a remote owner as it reaches the requester (Table 16.6). -/
inductive Answer where
  | ok (data : X64)
  | denied
  | poison
  | sessionLost
  | serialDigest
  | retired
  | busy
  | ack | nak | expired
  | refused | ownerFull
  deriving DecidableEq, Repr, Inhabited

/-- The class of a remote request (Table 16.2, with the OPEN, CLOSE and watermark packets of R426 and R438). -/
inductive RemoteOp where
  | load
  | store
  | atomic (fn : BitVec 4)
  | prepare | commit | abort | go
  | collective
  deriving DecidableEq, Repr, Inhabited

/-- A remote request as it arrives at an owner: the requester identity, nonce, serial, watermark, owner address,
size and operands (R428, R429). -/
structure Request where
  node   : Node := 0
  slot   : Slot := 0
  nonce  : X64 := 0
  serial : BitVec 32 := 0
  w      : BitVec 32 := 0
  op     : RemoteOp := .load
  pa     : BitVec 52 := 0
  /-- n of R429: how many operand bytes the request carries, or how many bytes a load reads. -/
  size   : Nat := 0
  /-- The operand bytes, the lowest first, as one little-endian number; for atcas the compare value, then b. -/
  data   : BitVec 512 := 0
  /-- The operand bytes of a store are poisoned: the line that they reach is poisoned with them (R83, R283). -/
  bad    : Bool := false
  deriving DecidableEq, Repr, Inhabited

/-- A gang message's content, as PREPARE carries it (Tables 16.13, R446). -/
structure GangMsg where
  gang  : BitVec 32 := 0
  node  : Node := 0
  queue : BitVec 18 := 0
  kick  : X64 := 0
  wdog  : BitVec 32 := 0
  deriving DecidableEq, Repr, Inhabited

/-- What one occurrence of an event is about. Each event reads the fields that its docstring in Machine/ names, and
no other.
(DESIGN CHOICE: log entry 4.) -/
structure About where
  core    : CoreId := 0
  stream  : Stream := .c
  /-- A number: of an item, a task, a walk, a delivery, an outstanding read, a store buffer entry, a queue, a page
  fault, a pool slot, a graph slot, an in-doubt count. -/
  k       : Nat := 0
  /-- A steer register, a port, a die, a lane group or a bank. -/
  n       : Nat := 0
  level   : BitVec 3 := 0
  slot    : Slot := 0
  rid     : BitVec 32 := 0
  node    : Node := 0
  nonce   : X64 := 0
  serial  : BitVec 32 := 0
  isLoad  : Bool := false
  /-- A yes or no that the outside decides: a scan passed, an error can be corrected, a transfer is a write. -/
  yes     : Bool := false
  w0      : X64 := 0
  w1      : X64 := 0
  addr    : X64 := 0
  answer  : Answer := .ack
  data    : BitVec 512 := 0
  bytes   : List Byte := []
  nats    : List Nat := []
  nats2   : List Nat := []
  ranks   : List (List (BitVec 32)) := []
  req     : Request := {}
  gang    : GangMsg := {}
  deriving DecidableEq, Repr, Inhabited

end Sys2Proof
end

