-- ==== Sys2Proof/WellFormed.lean ====
section
/-! DEFINITION. Which instructions are instructions of a stream: the field limits of R149 and R153 to R165 that
are checked at decode, and the streams of Tables 5.4, 5.7 and 5.10. The legality that depends on VT, MCFG or the
kernel header is checked at issue (R237, R265, R269, R270) and stands in the meanings. -/

namespace Sys2Proof

/-- A C-stream steer register field names j0 to j11 (R154). -/
def jOk (j : BitVec 4) : Bool := decide (j.toNat ≤ 11)

/-- ORD of a load: relaxed or .acq (Table 5.2, R155). -/
def ordLoadOk (o : BitVec 4) : Bool := decide (o.toNat ≤ 6)

/-- ORD of a store: relaxed or .rel (Table 5.2, R155). -/
def ordStoreOk (o : BitVec 4) : Bool := o == 0#4 || (decide (9 ≤ o.toNat) && decide (o.toNat ≤ 14))

/-- ORD of an atomic: either annotation (R155). -/
def ordAtomicOk (o : BitVec 4) : Bool := ordLoadOk o || ordStoreOk o

/-- The type field of a load: s8, n8, s16, n16, s32, n32 or 64-bit (R158). -/
def tyLoadOk (t : BitVec 3) : Bool := decide (t.toNat ≤ 6)

/-- The type field of a store: 8, 16, 32 or 64 bits (R158). -/
def tyStoreOk (t : BitVec 3) : Bool := decide (t.toNat % 2 = 0)

/-- An even register field (R158, R202, R388). -/
def evenReg (r : BitVec 5) : Bool := decide (r.toNat % 2 = 0)

/-- A condition code of Table 5.3. -/
def ccOk (c : BitVec 5) : Bool := decide (c.toNat ≤ 11)

/-- A scope code of Table 4.2. -/
def scopeOk (s : BitVec 3) : Bool := decide (s.toNat ≤ 5)

/-- A CSR number of Table 6.11 (R205). -/
def csrOk (c : BitVec 12) : Bool :=
  decide (c.toNat ∈ [0x000, 0x001, 0x002, 0x003, 0x004, 0x005, 0x010, 0x011, 0x012, 0x013, 0x014, 0x015, 0x016,
    0x020, 0x021, 0x022, 0x030, 0x031, 0x032, 0x033, 0x034, 0x040])

/-- The element types of vtype, vcvt, vnarrow and vwiden: codes 0x00 to 0x07 and 0x0A to 0x12 (R165). -/
def laneFmtOk (f : BitVec 5) : Bool :=
  decide (f.toNat ≤ 7) || (decide (0x0A ≤ f.toNat) && decide (f.toNat ≤ 0x12))

/-- The packed-pixel codes (Table 2.6, R256). -/
def pxFmtOk (f : BitVec 5) : Bool := decide (0x19 ≤ f.toNat) && decide (f.toNat ≤ 0x1B)

/-- The formats of either matrix operand (R264). -/
def matFmtOk (f : BitVec 5) : Bool :=
  decide (f.toNat ≤ 5) || (decide (0x0A ≤ f.toNat) && decide (f.toNat ≤ 0x11)) ||
    (decide (0x14 ≤ f.toNat) && decide (f.toNat ≤ 0x18))

/-- The pop field names the C-stream: index 1 in each of the L-, A- and S-streams (Table 5.8). -/
def Tok.popsC (k : Tok) : Bool := k.pop == 1#2

/-- A conversion word other than vnarrow: its format, and S = 0 (R165, R255). -/
def VF.wfCvt (f : VF) : Bool := laneFmtOk f.fmt && f.sat == 0#1

/-- The field limits of one word (R149, R153 to R165, R178, R191, R215, R230, R264, R266). An event has no word,
so it is no well-formed instruction.
(DEDUCED: log entry 126.) -/
def Instr.wf : Instr → Bool
  | .add .. | .sub .. | .and .. | .or .. | .xor .. | .shl .. | .shr .. | .sar .. | .rotl .. | .min .. | .max ..
  | .minn .. | .maxn .. | .clz .. | .ctz .. | .popc .. | .sext8 .. | .sext16 .. | .sext32 .. | .zext8 ..
  | .zext16 .. | .zext32 .. | .mul .. | .mulh .. | .mulhn .. | .div .. | .divn .. | .rem .. | .remn ..
  | .adda .. | .mada .. | .bfx .. | .bfxs .. | .bfi .. | .shli .. | .shri .. | .sari .. | .addi .. | .andi ..
  | .ori .. | .xori .. | .lim .. | .lih .. | .lend .. => true
  | .cmp cc _ _ j => ccOk cc && jOk j
  | .cmpi cc _ _ j => ccOk cc && jOk j
  | .jand j ja jb | .jor j ja jb => jOk j && jOk ja && jOk jb
  | .jmov j ja => jOk j && jOk ja
  | .jclr j | .prep j _ | .prepx j _ | .xferA j | .xferT j | .xferF j | .jrd _ j => jOk j
  | .xferl j ja => jOk j && jOk ja && j != ja
  | .loop _ _ skip => decide (2 ≤ skip.toNat)
  | .loopc _ j mx => jOk j && decide (1 ≤ mx.toNat)
  | .tksend _ t | .tkrecv _ t => t != 0#2
  | .ldxPlace _ _ ord ty _ | .ldxHandle _ _ _ ord ty _ => ordLoadOk ord && tyLoadOk ty
  | .stxPlace _ _ ord ty _ | .stxHandle _ _ _ ord ty _ => ordStoreOk ord && tyStoreOk ty
  | .ldxpPlace d _ ord _ | .ldxpHandle d _ _ ord _ => evenReg d && ordLoadOk ord
  | .stxpPlace d _ ord _ | .stxpHandle d _ _ ord _ => evenReg d && ordStoreOk ord
  | .ataddPlace _ _ _ o _ | .atswpPlace _ _ _ o _ | .atcasPlace _ _ _ o _ | .atminPlace _ _ _ o _
  | .atmaxPlace _ _ _ o _ | .atandPlace _ _ _ o _ | .atorPlace _ _ _ o _ | .atxorPlace _ _ _ o _
  | .atfaddPlace _ _ _ o => ordAtomicOk o
  | .ataddHandle _ _ b o _ | .atswpHandle _ _ b o _ | .atcasHandle _ _ b o _ | .atminHandle _ _ b o _
  | .atmaxHandle _ _ b o _ | .atandHandle _ _ b o _ | .atorHandle _ _ b o _ | .atxorHandle _ _ b o _
  | .atfaddHandle _ _ b o => evenReg b && ordAtomicOk o
  | .kinv .. | .spawn .. | .kick .. | .texit | .gsync | .yield | .bari .. | .barm .. | .bara .. | .bwait ..
  | .btest .. | .sqadd .. | .sqwait .. | .sqrd .. | .trans .. | .hinv .. | .hrd .. | .hshoot .. | .poolup ..
  | .poolev .. | .poolscan .. | .ckpt .. | .ckwait .. | .ctxsave .. | .ctxrest .. | .lsopen .. | .lsclose ..
  | .lsync .. | .lretire .. | .gang .. => true
  | .splnt a => evenReg a
  | .cpyPlace .. | .cpyHandle .. | .cpyxPlace .. | .cpyxHandle .. | .cpymPlace .. | .cpymHandle .. | .strmPlace ..
  | .strmHandle .. | .fexPlace .. | .fexHandle .. | .scrbPlace .. | .scrbHandle .. | .nvrdPlace .. | .nvrdHandle ..
  | .nvwrPlace .. | .nvwrHandle .. | .credPlace .. | .credHandle .. => true
  | .fenceAcq s | .fenceRel s | .fenceSc s => scopeOk s
  | .csrr _ c | .csrw _ c => csrOk c
  | .trap .. | .eret | .iinv .. | .halt | .dbgbrk | .nop => true
  | .ldv .. | .ldvd .. | .ldvg .. | .ldsc .. | .mark .. | .ainc .. | .stv .. | .stvd .. | .stvx .. | .note ..
  | .lfence .. => true
  | .fenceD s _ => scopeOk s
  | .waita _ limit _ => decide (1 ≤ limit.toNat)
  | .loopDA _ skip count k => decide (2 ≤ skip.toNat) && (!k.popsC || count == 0#12)
  | .loopcDA _ _ mx _ => decide (1 ≤ mx.toNat)
  | .prepDA _ off k => !k.popsC || off == 0#20
  | .lendDA .. | .lendR .. | .xferADA .. | .xferTDA .. | .xferFDA .. | .nopDA .. => true
  | .vadd .. | .vsub .. | .vadds .. | .vsubs .. | .vavg .. | .vmul .. | .vmulh .. | .vmulq .. | .vmac .. | .vabd ..
  | .vmin .. | .vmax .. | .vand .. | .vor .. | .vxor .. | .vshl .. | .vshr .. | .vsar .. | .vshrr .. | .vshls ..
  | .vsel .. | .vperm .. | .vzip .. | .vunzip .. | .fadd .. | .fsub .. | .fmul .. | .ffma .. | .fmin .. | .fmax ..
  | .vabs .. | .vnot .. | .vclz .. | .vpopc .. | .fabs .. | .fneg .. | .vslide .. | .vbcast .. => true
  | .vrsum f | .vrmax f | .vrmin f => f.t == 0#1
  | .vcmp f => f.pd != 0#3 && decide (f.cc.toNat ≤ 5)
  | .fcmp f => f.pd != 0#3 && decide (f.cc.toNat ≤ 6)
  | .vcvtRne f | .vcvtRz f | .vcvtRu f | .vcvtRd f | .vcvtSr f | .vwiden f => f.wfCvt
  | .vnarrow f => laneFmtOk f.fmt && (f.sat == 0#1 || decide (f.fmt.toNat ≤ 7))
  | .pxunp f | .pxpak f => pxFmtOk f.fmt && f.sat == 0#1
  | .pand pd _ _ _ | .por pd _ _ _ | .pxor pd _ _ _ | .pnot pd _ _ | .pfirst pd _ _ | .pset pd _ _ => pd != 0#3
  | .pcnt .. | .vcmpjAny .. | .vcmpjAll .. => true
  | .vtype fmt rm _ => laneFmtOk fmt && decide (rm.toNat ≤ 4)
  | .mcfg fa fb _ => matFmtOk fa && matFmtOk fb
  | .mzero .. | .mswap .. => true
  | .mwl k | .mma _ k | .mmas _ k => k.popsC
  | .rep count _ _ _ => decide (count.toNat ≤ 64)
  | _ => false

/-- The streams whose family holds the instruction (Tables 5.4, 5.7 and 5.10). -/
def Instr.inStream (st : Stream) : Instr → Bool
  | .ldv .. | .ldvd .. | .ldvg .. | .ldsc .. => st == .l
  | .stv .. | .stvd .. | .stvx .. | .note .. | .lfence .. => st == .s
  | .mark .. | .fenceD .. | .waita .. | .ainc .. => st == .l || st == .s
  | .loopDA .. | .loopcDA .. | .lendDA .. | .prepDA .. | .xferADA .. | .xferTDA .. | .xferFDA .. | .nopDA .. => st != .c
  | .lendR .. => st == .a
  | .vadd .. | .vsub .. | .vadds .. | .vsubs .. | .vavg .. | .vmul .. | .vmulh .. | .vmulq .. | .vmac .. | .vabd ..
  | .vmin .. | .vmax .. | .vand .. | .vor .. | .vxor .. | .vshl .. | .vshr .. | .vsar .. | .vshrr .. | .vshls ..
  | .vsel .. | .vperm .. | .vzip .. | .vunzip .. | .fadd .. | .fsub .. | .fmul .. | .ffma .. | .fmin .. | .fmax ..
  | .vabs .. | .vnot .. | .vclz .. | .vpopc .. | .fabs .. | .fneg .. | .vrsum .. | .vrmax .. | .vrmin ..
  | .vcmp .. | .fcmp .. | .vcvtRne .. | .vcvtRz .. | .vcvtRu .. | .vcvtRd .. | .vcvtSr .. | .vnarrow .. | .vwiden ..
  | .pxunp .. | .pxpak .. | .vslide .. | .vbcast .. | .pand .. | .por .. | .pxor .. | .pnot .. | .pcnt ..
  | .pfirst .. | .pset .. | .vcmpjAny .. | .vcmpjAll .. | .vtype .. | .mcfg .. | .mzero .. | .mwl .. | .mswap ..
  | .mma .. | .mmas .. | .rep .. => st == .a
  | i => st == .c && i.wf

end Sys2Proof
end

