-- ==== Sys2Proof/Decode.lean ====
section
/-! DEFINITION. The decoders of the three families, total on every 32-bit word: a word that is not an instruction
of the stream answers `none` (R149), and the issue takes the ILLEGAL_OP trap for it. After them the encoder, written
from the same tables of chapter 05. -/

namespace Sys2Proof

/-- The `n` bits from bit `lo` of a word are all 0 (R149: a bit that its layout marks 0). -/
def zeroAt (w : IWord) (lo n : Nat) : Bool := fld w lo n == 0#n

/-- `i` when the layout's zero bits are zero. -/
def whenZ (ok : Bool) (i : Instr) : Option Instr := if ok then some i else none

/-- The major opcode (R153, R159). -/
def majorOf (w : IWord) : Nat := (fld w 26 6).toNat

/-- Field xd, cc or lp's place [25:21] (Table 5.1). -/
abbrev fD (w : IWord) : BitVec 5 := fld w 21 5
/-- Field xa or base [20:16]. -/
abbrev fA (w : IWord) : BitVec 5 := fld w 16 5
/-- Field xb [15:11]. -/
abbrev fB (w : IWord) : BitVec 5 := fld w 11 5
/-- Field j [10:7]. -/
abbrev fJ (w : IWord) : BitVec 4 := fld w 7 4
/-- Field ja [24:21] of CJ. -/
abbrev fJa (w : IWord) : BitVec 4 := fld w 21 4
/-- Field jb [14:11] of CJ. -/
abbrev fJb (w : IWord) : BitVec 4 := fld w 11 4
/-- Field fn [6:0] of CR and CJ. -/
def fnCR (w : IWord) : Nat := (fld w 0 7).toNat

/-- Major 0x01 (Table 5.4). -/
def decodeInt (w : IWord) : Option Instr :=
  let d := fD w; let a := fA w; let b := fB w
  let zj := zeroAt w 7 4
  let zjb := zj && zeroAt w 11 5
  match fnCR w with
  | 0x00 => whenZ zj (.add d a b)
  | 0x01 => whenZ zj (.sub d a b)
  | 0x02 => whenZ zj (.and d a b)
  | 0x03 => whenZ zj (.or d a b)
  | 0x04 => whenZ zj (.xor d a b)
  | 0x05 => whenZ zj (.shl d a b)
  | 0x06 => whenZ zj (.shr d a b)
  | 0x07 => whenZ zj (.sar d a b)
  | 0x08 => whenZ zj (.rotl d a b)
  | 0x09 => whenZ zj (.min d a b)
  | 0x0A => whenZ zj (.max d a b)
  | 0x0B => whenZ zj (.minn d a b)
  | 0x0C => whenZ zj (.maxn d a b)
  | 0x0D => whenZ zjb (.clz d a)
  | 0x0E => whenZ zjb (.ctz d a)
  | 0x0F => whenZ zjb (.popc d a)
  | 0x10 => whenZ zjb (.sext8 d a)
  | 0x11 => whenZ zjb (.sext16 d a)
  | 0x12 => whenZ zjb (.sext32 d a)
  | 0x13 => whenZ zjb (.zext8 d a)
  | 0x14 => whenZ zjb (.zext16 d a)
  | 0x15 => whenZ zjb (.zext32 d a)
  | _ => none

/-- Major 0x02 (Table 5.4). -/
def decodeMul (w : IWord) : Option Instr :=
  let d := fD w; let a := fA w; let b := fB w
  let zj := zeroAt w 7 4
  match fnCR w with
  | 0x00 => whenZ zj (.mul d a b)
  | 0x01 => whenZ zj (.mulh d a b)
  | 0x02 => whenZ zj (.mulhn d a b)
  | 0x03 => whenZ zj (.div d a b)
  | 0x04 => whenZ zj (.divn d a b)
  | 0x05 => whenZ zj (.rem d a b)
  | 0x06 => whenZ zj (.remn d a b)
  | _ => none

/-- Major 0x03: adda, and mada with its shift in fn (Table 5.4). -/
def decodeAddr (w : IWord) : Option Instr :=
  let zj := zeroAt w 7 4
  if fnCR w = 0 then whenZ zj (.adda (fD w) (fA w) (fB w))
  else if fld w 5 2 = 1#2 then whenZ zj (.mada (fD w) (fA w) (fB w) (fld w 0 5))
  else none

/-- Majors 0x04 and 0x05: subformat CF. -/
def decodeField (w : IWord) (shift : Bool) : Option Instr :=
  let pos : BitVec 6 := fld w 10 6
  let width : BitVec 6 := fld w 4 6
  match shift, (fld w 0 4).toNat with
  | false, 0 => some (.bfx (fD w) (fA w) pos width)
  | false, 1 => some (.bfxs (fD w) (fA w) pos width)
  | false, 2 => some (.bfi (fD w) (fA w) pos width)
  | true, 0 => whenZ (zeroAt w 4 6) (.shli (fD w) (fA w) pos)
  | true, 1 => whenZ (zeroAt w 4 6) (.shri (fD w) (fA w) pos)
  | true, 2 => whenZ (zeroAt w 4 6) (.sari (fD w) (fA w) pos)
  | _, _ => none

/-- Major 0x12: the steer-register logic of subformat CJ. -/
def decodeSteer (w : IWord) : Option Instr :=
  let z := zeroAt w 25 1 && zeroAt w 15 6
  match fnCR w with
  | 0 => whenZ z (.jand (fJ w) (fJa w) (fJb w))
  | 1 => whenZ z (.jor (fJ w) (fJa w) (fJb w))
  | 2 => whenZ (z && zeroAt w 11 4) (.jmov (fJ w) (fJa w))
  | 3 => whenZ (z && zeroAt w 11 4 && zeroAt w 21 4) (.jclr (fJ w))
  | _ => none

/-- Major 0x15: the transfers. -/
def decodeXfer (w : IWord) : Option Instr :=
  let z := zeroAt w 25 1 && zeroAt w 11 10
  match fnCR w with
  | 0 => whenZ (z && zeroAt w 21 4) (.xferA (fJ w))
  | 1 => whenZ (z && zeroAt w 21 4) (.xferT (fJ w))
  | 2 => whenZ (z && zeroAt w 21 4) (.xferF (fJ w))
  | 3 => whenZ z (.xferl (fJ w) (fJa w))
  | _ => none

/-- The 22-bit offset of CP: [25:11] above [6:0]. -/
def off22 (w : IWord) : BitVec 22 := fld w 11 15 ++ fld w 0 7

/-- The 12-bit immediate of CCI: [15:11] above [6:0]. -/
def immCCI (w : IWord) : BitVec 12 := fld w 11 5 ++ fld w 0 7

/-- The 20-bit max of the C-stream's loopc: [23:11] above [6:0]. -/
def maxCLP (w : IWord) : BitVec 20 := fld w 11 13 ++ fld w 0 7

/-- Majors 0x20 to 0x27: subformat CM. -/
def decodeMem (w : IWord) (m : Nat) : Option Instr :=
  let d := fD w; let base := fA w; let b := fB w
  let ord : BitVec 4 := fld w 7 4
  let ty : BitVec 3 := fld w 4 3
  let imm : BitVec 4 := fld w 0 4
  let zb := zeroAt w 11 5
  match m with
  | 0x20 => whenZ zb (.ldxPlace d base ord ty imm)
  | 0x21 => some (.ldxHandle d base b ord ty imm)
  | 0x22 => whenZ zb (.stxPlace d base ord ty imm)
  | 0x23 => some (.stxHandle d base b ord ty imm)
  | 0x24 => whenZ (zb && ty == 6#3) (.ldxpPlace d base ord imm)
  | 0x25 => whenZ (ty == 6#3) (.ldxpHandle d base b ord imm)
  | 0x26 => whenZ (zb && ty == 6#3) (.stxpPlace d base ord imm)
  | 0x27 => whenZ (ty == 6#3) (.stxpHandle d base b ord imm)
  | _ => none

/-- Major 0x28: the atomics, place form. -/
def decodeAtomP (w : IWord) : Option Instr :=
  let d := fD w; let base := fA w; let b := fB w
  let ord : BitVec 4 := fld w 7 4
  let sz : BitVec 1 := fld w 2 1
  let z := zeroAt w 0 2
  match (fld w 3 4).toNat with
  | 0 => whenZ z (.ataddPlace d base b ord sz)
  | 1 => whenZ z (.atswpPlace d base b ord sz)
  | 2 => whenZ z (.atcasPlace d base b ord sz)
  | 3 => whenZ z (.atminPlace d base b ord sz)
  | 4 => whenZ z (.atmaxPlace d base b ord sz)
  | 5 => whenZ z (.atandPlace d base b ord sz)
  | 6 => whenZ z (.atorPlace d base b ord sz)
  | 7 => whenZ z (.atxorPlace d base b ord sz)
  | 8 => whenZ (z && sz == 0#1) (.atfaddPlace d base b ord)
  | _ => none

/-- Major 0x29: the atomics, handle form. -/
def decodeAtomH (w : IWord) : Option Instr :=
  let d := fD w; let base := fA w; let b := fB w
  let ord : BitVec 4 := fld w 7 4
  let sz : BitVec 1 := fld w 2 1
  let z := zeroAt w 0 2
  match (fld w 3 4).toNat with
  | 0 => whenZ z (.ataddHandle d base b ord sz)
  | 1 => whenZ z (.atswpHandle d base b ord sz)
  | 2 => whenZ z (.atcasHandle d base b ord sz)
  | 3 => whenZ z (.atminHandle d base b ord sz)
  | 4 => whenZ z (.atmaxHandle d base b ord sz)
  | 5 => whenZ z (.atandHandle d base b ord sz)
  | 6 => whenZ z (.atorHandle d base b ord sz)
  | 7 => whenZ z (.atxorHandle d base b ord sz)
  | 8 => whenZ (z && sz == 0#1) (.atfaddHandle d base b ord)
  | _ => none

/-- Majors 0x30 to 0x35: the object instructions of Table 5.5. -/
def decodeObj (w : IWord) (m : Nat) : Option Instr :=
  let d := fD w; let a := fA w; let b := fB w
  let zd := zeroAt w 21 5; let za := zeroAt w 16 5; let zb := zeroAt w 11 5
  let r : Option Instr := match m, fnCR w with
    | 0x30, 0 => whenZ (zd && zb) (.kinv a)
    | 0x30, 1 => whenZ zb (.spawn d a)
    | 0x30, 2 => whenZ zd (.kick a b)
    | 0x30, 3 => whenZ (zd && za && zb) .texit
    | 0x31, 0 => whenZ (zd && za && zb) .gsync
    | 0x31, 1 => whenZ (zd && za && zb) .yield
    | 0x32, 0 => whenZ zd (.bari a b)
    | 0x32, 1 => whenZ zd (.barm a b)
    | 0x32, 2 => whenZ zd (.bara a b)
    | 0x32, 3 => whenZ zd (.bwait a b)
    | 0x32, 4 => whenZ zb (.btest d a)
    | 0x32, 5 => whenZ zd (.sqadd a b)
    | 0x32, 6 => some (.sqwait a b d)
    | 0x32, 7 => whenZ zb (.sqrd d a)
    | 0x33, 0 => whenZ zb (.trans d a)
    | 0x33, 1 => whenZ (zd && zb) (.hinv a)
    | 0x33, 2 => whenZ zb (.hrd d a)
    | 0x33, 3 => whenZ (zd && zb) (.splnt a)
    | 0x33, 4 => whenZ zd (.hshoot a b)
    | 0x33, 5 => whenZ zd (.poolup a b)
    | 0x33, 6 => whenZ (zd && zb) (.poolev a)
    | 0x33, 7 => whenZ zb (.poolscan d a)
    | 0x34, 0 => whenZ (za && zb) (.ckpt d)
    | 0x34, 1 => whenZ (zd && zb) (.ckwait a)
    | 0x34, 2 => whenZ (zd && zb) (.ctxsave a)
    | 0x34, 3 => whenZ (zd && zb) (.ctxrest a)
    | 0x35, 0 => whenZ zb (.lsopen d a)
    | 0x35, 1 => whenZ (zd && zb) (.lsclose a)
    | 0x35, 2 => whenZ (zd && zb) (.lsync a)
    | 0x35, 3 => whenZ (zd && zb) (.lretire a)
    | 0x35, 4 => whenZ zd (.gang a b)
    | _, _ => none
  if zeroAt w 7 4 then r else none

/-- Major 0x38: the engine commands, subformat CE. -/
def decodeEngine (w : IWord) : Option Instr :=
  let base := fA w; let b := fB w
  let z := zeroAt w 21 5 && zeroAt w 7 4 && zeroAt w 0 2
  if fld w 2 1 = 1#1 then
    let z := z && zeroAt w 11 5
    match (fld w 3 4).toNat with
    | 0 => whenZ z (.cpyPlace base)
    | 1 => whenZ z (.cpyxPlace base)
    | 2 => whenZ z (.cpymPlace base)
    | 3 => whenZ z (.strmPlace base)
    | 4 => whenZ z (.fexPlace base)
    | 5 => whenZ z (.scrbPlace base)
    | 6 => whenZ z (.nvrdPlace base)
    | 7 => whenZ z (.nvwrPlace base)
    | 8 => whenZ z (.credPlace base)
    | _ => none
  else
    match (fld w 3 4).toNat with
    | 0 => whenZ z (.cpyHandle base b)
    | 1 => whenZ z (.cpyxHandle base b)
    | 2 => whenZ z (.cpymHandle base b)
    | 3 => whenZ z (.strmHandle base b)
    | 4 => whenZ z (.fexHandle base b)
    | 5 => whenZ z (.scrbHandle base b)
    | 6 => whenZ z (.nvrdHandle base b)
    | 7 => whenZ z (.nvwrHandle base b)
    | 8 => whenZ z (.credHandle base b)
    | _ => none

/-- Major 0x3C: the C-stream fences. -/
def decodeFence (w : IWord) : Option Instr :=
  let z := zeroAt w 10 16 && zeroAt w 2 5
  let scope : BitVec 3 := fld w 7 3
  match (fld w 0 2).toNat with
  | 0 => whenZ z (.fenceAcq scope)
  | 1 => whenZ z (.fenceRel scope)
  | 2 => whenZ z (.fenceSc scope)
  | _ => none

/-- Major 0x3D: csrr and csrw. -/
def decodeCsr (w : IWord) : Option Instr :=
  match (fld w 0 4).toNat with
  | 0 => whenZ (zeroAt w 16 5) (.csrr (fD w) (fld w 4 12))
  | 1 => whenZ (zeroAt w 21 5) (.csrw (fA w) (fld w 4 12))
  | _ => none

/-- Major 0x3E: the system instructions. -/
def decodeSys (w : IWord) : Option Instr :=
  match fnCR w with
  | 1 => whenZ (zeroAt w 15 11) (.trap (fld w 7 8))
  | 2 => whenZ (zeroAt w 7 19) .eret
  | 3 => whenZ (zeroAt w 21 5 && zeroAt w 7 4) (.iinv (fA w) (fB w))
  | 4 => whenZ (zeroAt w 7 19) .halt
  | 5 => whenZ (zeroAt w 7 19) .dbgbrk
  | _ => none

/-- The layouts of C32 (Tables 5.1 and 5.4), before the field limits. -/
def layoutC (w : IWord) : Option Instr :=
  match majorOf w with
  | 0x01 => decodeInt w
  | 0x02 => decodeMul w
  | 0x03 => decodeAddr w
  | 0x04 => decodeField w false
  | 0x05 => decodeField w true
  | 0x06 => some (.addi (fD w) (fA w) (fld w 0 16))
  | 0x07 => some (.andi (fD w) (fA w) (fld w 0 16))
  | 0x08 => some (.ori (fD w) (fA w) (fld w 0 16))
  | 0x09 => some (.xori (fD w) (fA w) (fld w 0 16))
  | 0x0A => some (.lim (fD w) (fld w 0 21))
  | 0x0B => whenZ (zeroAt w 16 3) (.lih (fD w) (fld w 19 2) (fld w 0 16))
  | 0x10 => whenZ (zeroAt w 0 7) (.cmp (fD w) (fA w) (fB w) (fJ w))
  | 0x11 => some (.cmpi (fD w) (fA w) (immCCI w) (fJ w))
  | 0x12 => decodeSteer w
  | 0x13 => some (.prep (fJ w) (off22 w))
  | 0x14 => whenZ (zeroAt w 21 5 && zeroAt w 11 5 && zeroAt w 0 7) (.prepx (fJ w) (fA w))
  | 0x15 => decodeXfer w
  | 0x16 => whenZ (zeroAt w 11 10 && zeroAt w 0 7) (.jrd (fD w) (fJ w))
  | 0x18 => whenZ (zeroAt w 21 3) (.loop (fld w 24 2) (fA w) (fld w 0 16))
  | 0x19 => some (.loopc (fld w 24 2) (fJ w) (maxCLP w))
  | 0x1A => whenZ (zeroAt w 0 24) (.lend (fld w 24 2))
  | 0x1C => whenZ (zeroAt w 21 5 && zeroAt w 7 9 && zeroAt w 0 5) (.tksend (fA w) (fld w 5 2))
  | 0x1D => whenZ (zeroAt w 7 14 && zeroAt w 0 5) (.tkrecv (fD w) (fld w 5 2))
  | 0x20 => decodeMem w 0x20
  | 0x21 => decodeMem w 0x21
  | 0x22 => decodeMem w 0x22
  | 0x23 => decodeMem w 0x23
  | 0x24 => decodeMem w 0x24
  | 0x25 => decodeMem w 0x25
  | 0x26 => decodeMem w 0x26
  | 0x27 => decodeMem w 0x27
  | 0x28 => decodeAtomP w
  | 0x29 => decodeAtomH w
  | 0x30 => decodeObj w 0x30
  | 0x31 => decodeObj w 0x31
  | 0x32 => decodeObj w 0x32
  | 0x33 => decodeObj w 0x33
  | 0x34 => decodeObj w 0x34
  | 0x35 => decodeObj w 0x35
  | 0x38 => decodeEngine w
  | 0x3C => decodeFence w
  | 0x3D => decodeCsr w
  | 0x3E => decodeSys w
  | 0x3F => whenZ (zeroAt w 0 26) .nop
  | _ => none

/-- Token fields of a D32 or A32 word (R159, R162). -/
def tokOf (w : IWord) : Tok := ⟨fld w 2 2, fld w 0 2⟩

/-- Majors 0x38 to 0x3C and 0x3F, which D32 and A32 share (Table 5.6, R150). -/
def layoutShared (w : IWord) : Option Instr :=
  let k := tokOf w
  match majorOf w with
  | 0x38 => some (.loopDA (fld w 24 2) (fld w 16 8) (fld w 4 12) k)
  | 0x39 => some (.loopcDA (fld w 24 2) (fld w 22 2) (fld w 4 18) k)
  | 0x3A => whenZ (zeroAt w 4 19) (if fld w 23 1 = 1#1 then .lendR (fld w 24 2) k else .lendDA (fld w 24 2) k)
  | 0x3B => some (.prepDA (fld w 24 2) (fld w 4 20) k)
  | 0x3C =>
    match (fld w 22 2).toNat with
    | 0 => whenZ (zeroAt w 4 18) (.xferADA (fld w 24 2) k)
    | 1 => whenZ (zeroAt w 4 18) (.xferTDA (fld w 24 2) k)
    | 2 => whenZ (zeroAt w 4 18) (.xferFDA (fld w 24 2) k)
    | _ => none
  | 0x3F => whenZ (zeroAt w 4 22) (.nopDA k)
  | _ => none

/-- The layouts of D32 (Tables 5.6 and 5.7), before the field and stream limits. -/
def layoutD (w : IWord) : Option Instr :=
  let k := tokOf w
  let v : BitVec 6 := fld w 20 6
  let a : BitVec 4 := fld w 16 4
  let imm : BitVec 12 := fld w 4 12
  match majorOf w with
  | 0x01 => some (.ldv v a imm k)
  | 0x02 => some (.ldvd v a (fld w 15 1) (fld w 4 11) k)
  | 0x03 => whenZ (zeroAt w 4 6) (.ldvg v a (fld w 10 6) k)
  | 0x04 => whenZ (zeroAt w 20 6) (.ldsc a imm k)
  | 0x08 => whenZ (zeroAt w 8 18) (.mark (fld w 4 4) k)
  | 0x09 => whenZ (zeroAt w 7 19) (.fenceD (fld w 4 3) k)
  | 0x0A => whenZ (zeroAt w 20 6) (.waita a imm k)
  | 0x0B => whenZ (zeroAt w 20 6) (.ainc a imm k)
  | 0x10 => some (.stv v a imm k)
  | 0x11 => some (.stvd v a (fld w 15 1) (fld w 4 11) k)
  | 0x12 => whenZ (zeroAt w 4 6) (.stvx v a (fld w 10 6) k)
  | 0x13 => whenZ (zeroAt w 20 6) (.note a imm k)
  | 0x14 => whenZ (zeroAt w 4 22) (.lfence k)
  | _ => layoutShared w

/-- The fields of subformat V3 (Table 5.9). -/
def v3Of (w : IWord) : V3 := ⟨fld w 20 6, fld w 14 6, fld w 8 6, fld w 5 3, fld w 4 1, tokOf w⟩
/-- The fields of subformat V2, less fn. -/
def v2Of (w : IWord) : V2 := ⟨fld w 20 6, fld w 14 6, fld w 5 3, fld w 4 1, tokOf w⟩
/-- The fields of subformat VF. -/
def vfOf (w : IWord) : VF := ⟨fld w 20 6, fld w 14 6, fld w 9 5, fld w 8 1, fld w 5 3, fld w 4 1, tokOf w⟩
/-- The fields of subformat VI. -/
def viOf (w : IWord) : VI := ⟨fld w 20 6, fld w 14 6, fld w 8 6, fld w 5 3, fld w 4 1, tokOf w⟩
/-- The fields of subformat VC. -/
def vcOf (w : IWord) : VC := ⟨fld w 23 3, fld w 20 3, fld w 14 6, fld w 8 6, fld w 5 3, tokOf w⟩

/-- Major 0x1F: subformat V2. -/
def decodeV2 (w : IWord) : Option Instr :=
  let f := v2Of w
  match (fld w 8 6).toNat with
  | 0 => some (.vabs f)
  | 1 => some (.vnot f)
  | 2 => some (.vclz f)
  | 3 => some (.vpopc f)
  | 4 => some (.fabs f)
  | 5 => some (.fneg f)
  | 6 => some (.vrsum f)
  | 7 => some (.vrmax f)
  | 8 => some (.vrmin f)
  | _ => none

/-- Major 0x2D: subformat PR. -/
def decodePR (w : IWord) : Option Instr :=
  let k := tokOf w
  let pd : BitVec 3 := fld w 23 3
  let pa : BitVec 3 := fld w 17 3
  let pb : BitVec 3 := fld w 11 3
  let zd := zeroAt w 20 3; let zab := zeroAt w 14 3; let zbl := zeroAt w 8 3; let z4 := zeroAt w 4 1
  match (fld w 5 3).toNat with
  | 0 => whenZ (zd && zab && zbl && z4) (.pand pd pa pb k)
  | 1 => whenZ (zd && zab && zbl && z4) (.por pd pa pb k)
  | 2 => whenZ (zd && zab && zbl && z4) (.pxor pd pa pb k)
  | 3 => whenZ (zd && zab && zeroAt w 8 6 && z4) (.pnot pd pa k)
  | 4 => whenZ (zab && zeroAt w 8 6 && z4) (.pcnt (fld w 20 6) pa k)
  | 5 => whenZ (zd && zab && zeroAt w 8 6 && z4) (.pfirst pd pa k)
  | 6 => whenZ (zd && zeroAt w 14 6 && z4) (.pset pd (fld w 8 6) k)
  | _ => none

/-- Major 0x30: subformat MX. -/
def decodeMX (w : IWord) : Option Instr :=
  let k := tokOf w
  let z := zeroAt w 4 4
  let zm := z && zeroAt w 21 5 && zeroAt w 14 6
  match (fld w 8 6).toNat with
  | 0 => whenZ (z && zeroAt w 25 1 && zeroAt w 19 1) (.mcfg (fld w 20 5) (fld w 14 5) k)
  | 1 => whenZ zm (.mzero (fld w 20 1) k)
  | 2 => whenZ (zm && zeroAt w 20 1) (.mwl k)
  | 3 => whenZ (zm && zeroAt w 20 1) (.mswap k)
  | 4 => whenZ zm (.mma (fld w 20 1) k)
  | 5 => whenZ zm (.mmas (fld w 20 1) k)
  | _ => none

/-- The layouts of A32 (Tables 5.9 and 5.10), before the field limits. -/
def layoutA (w : IWord) : Option Instr :=
  let k := tokOf w
  match majorOf w with
  | 0x01 => some (.vadd (v3Of w))
  | 0x02 => some (.vsub (v3Of w))
  | 0x03 => some (.vadds (v3Of w))
  | 0x04 => some (.vsubs (v3Of w))
  | 0x05 => some (.vavg (v3Of w))
  | 0x06 => some (.vmul (v3Of w))
  | 0x07 => some (.vmulh (v3Of w))
  | 0x08 => some (.vmulq (v3Of w))
  | 0x09 => some (.vmac (v3Of w))
  | 0x0A => some (.vabd (v3Of w))
  | 0x0B => some (.vmin (v3Of w))
  | 0x0C => some (.vmax (v3Of w))
  | 0x0D => some (.vand (v3Of w))
  | 0x0E => some (.vor (v3Of w))
  | 0x0F => some (.vxor (v3Of w))
  | 0x10 => some (.vshl (v3Of w))
  | 0x11 => some (.vshr (v3Of w))
  | 0x12 => some (.vsar (v3Of w))
  | 0x13 => some (.vshrr (v3Of w))
  | 0x14 => some (.vshls (v3Of w))
  | 0x15 => some (.vsel (v3Of w))
  | 0x16 => some (.vperm (v3Of w))
  | 0x17 => some (.vzip (v3Of w))
  | 0x18 => some (.vunzip (v3Of w))
  | 0x19 => some (.fadd (v3Of w))
  | 0x1A => some (.fsub (v3Of w))
  | 0x1B => some (.fmul (v3Of w))
  | 0x1C => some (.ffma (v3Of w))
  | 0x1D => some (.fmin (v3Of w))
  | 0x1E => some (.fmax (v3Of w))
  | 0x1F => decodeV2 w
  | 0x20 => whenZ (zeroAt w 4 1) (.vcmp (vcOf w))
  | 0x21 => whenZ (zeroAt w 4 1) (.fcmp (vcOf w))
  | 0x22 => some (.vcvtRne (vfOf w))
  | 0x23 => some (.vcvtRz (vfOf w))
  | 0x24 => some (.vcvtRu (vfOf w))
  | 0x25 => some (.vcvtRd (vfOf w))
  | 0x26 => some (.vcvtSr (vfOf w))
  | 0x27 => some (.vnarrow (vfOf w))
  | 0x28 => some (.vwiden (vfOf w))
  | 0x29 => some (.pxunp (vfOf w))
  | 0x2A => some (.pxpak (vfOf w))
  | 0x2B => some (.vslide (viOf w))
  | 0x2C => some (.vbcast (viOf w))
  | 0x2D => decodePR w
  | 0x2E =>
    whenZ (zeroAt w 20 3 && zeroAt w 4 13)
      (if fld w 23 1 = 1#1 then .vcmpjAll (fld w 24 2) (fld w 17 3) k else .vcmpjAny (fld w 24 2) (fld w 17 3) k)
  | 0x2F => whenZ (zeroAt w 4 14) (.vtype (fld w 21 5) (fld w 18 3) k)
  | 0x30 => decodeMX w
  | 0x31 => whenZ (zeroAt w 0 13) (.rep (fld w 19 7) (fld w 17 2) (fld w 15 2) (fld w 13 2))
  | _ => layoutShared w

/-- The layout of a stream's own family (R148). -/
def layoutOf (st : Stream) (w : IWord) : Option Instr :=
  match st with
  | .c => layoutC w
  | .l => layoutD w
  | .s => layoutD w
  | .a => layoutA w

/-- The field limits of R149 and the stream's family: anything else is refused. -/
def legalIn (st : Stream) (i : Instr) : Option Instr :=
  if i.wf && i.inStream st then some i else none

/-- The instruction a word is in a stream; `none` for every word that is not one (R148, R149). -/
def decode (st : Stream) (w : IWord) : Option Instr :=
  (layoutOf st w).bind (legalIn st)

/-- The little-endian word of four bytes (R148). -/
def wordOfBytes (b0 b1 b2 b3 : Byte) : IWord := b3 ++ b2 ++ b1 ++ b0

/-- The first stream, in the order C, L, S, A, for which a word is an instruction. The opcode table lists the words
of the three families together; one number may be a word of several. -/
def tableStream (w : IWord) : Stream :=
  if (decode .c w).isSome then .c
  else if (decode .l w).isSome then .l
  else if (decode .s w).isSome then .s
  else .a

/-- The instruction the decoder reads from a table word, by the stream `tableStream` chooses. The word is laid out
as the machine stores it, four bytes, and read back. -/
def decodeTableWord (nbits w : Nat) : Option Instr :=
  if nbits = 32 then
    let v : IWord := BitVec.ofNat 32 w
    let v := wordOfBytes (fld v 0 8) (fld v 8 8) (fld v 16 8) (fld v 24 8)
    decode (tableStream v) v
  else none

/-! The encoder. -/

/-- Subformat CR. -/
def encCR (major : BitVec 6) (d a b : BitVec 5) (j : BitVec 4) (fn : BitVec 7) : IWord := major ++ d ++ a ++ b ++ j ++ fn
/-- Subformat CI. -/
def encCI (major : BitVec 6) (d a : BitVec 5) (imm : BitVec 16) : IWord := major ++ d ++ a ++ imm
/-- Subformat CF. -/
def encCF (major : BitVec 6) (d a : BitVec 5) (pos width : BitVec 6) (fn : BitVec 4) : IWord :=
  major ++ d ++ a ++ pos ++ width ++ fn
/-- Subformat CJ. -/
def encCJ (major : BitVec 6) (ja : BitVec 4) (a : BitVec 5) (jb j : BitVec 4) (fn : BitVec 7) : IWord :=
  major ++ 0#1 ++ ja ++ a ++ 0#1 ++ jb ++ j ++ fn
/-- Subformat CM. -/
def encCM (major : BitVec 6) (d base b : BitVec 5) (ord : BitVec 4) (ty : BitVec 3) (imm : BitVec 4) : IWord :=
  major ++ d ++ base ++ b ++ ord ++ ty ++ imm
/-- Subformat CA. -/
def encCA (major : BitVec 6) (d base b : BitVec 5) (ord fn : BitVec 4) (sz : BitVec 1) : IWord :=
  major ++ d ++ base ++ b ++ ord ++ fn ++ sz ++ 0#2
/-- Subformat CE. -/
def encCE (base b : BitVec 5) (fn : BitVec 4) (p : BitVec 1) : IWord :=
  0x38#6 ++ 0#5 ++ base ++ b ++ 0#4 ++ fn ++ p ++ 0#2
/-- Subformat DP, and the D32 words whose fields lie as DP's. -/
def encDP (major : BitVec 6) (v : BitVec 6) (a : BitVec 4) (imm : BitVec 12) (k : Tok) : IWord :=
  major ++ v ++ a ++ imm ++ k.pop ++ k.push
/-- Subformat DD. -/
def encDD (major : BitVec 6) (v : BitVec 6) (a : BitVec 4) (dir : BitVec 1) (imm : BitVec 11) (k : Tok) : IWord :=
  major ++ v ++ a ++ dir ++ imm ++ k.pop ++ k.push
/-- Subformat DG. -/
def encDG (major : BitVec 6) (v : BitVec 6) (a : BitVec 4) (vi : BitVec 6) (k : Tok) : IWord :=
  major ++ v ++ a ++ vi ++ 0#6 ++ k.pop ++ k.push
/-- Subformat PX, with its kind. -/
def encPX (j kind : BitVec 2) (k : Tok) : IWord := 0x3C#6 ++ j ++ kind ++ 0#18 ++ k.pop ++ k.push
/-- Subformat LE. -/
def encLE (lp : BitVec 2) (rot : BitVec 1) (k : Tok) : IWord := 0x3A#6 ++ lp ++ rot ++ 0#19 ++ k.pop ++ k.push
/-- Subformat V3. -/
def encV3 (major : BitVec 6) (f : V3) : IWord :=
  major ++ f.vd ++ f.va ++ f.vb ++ f.p ++ f.t ++ f.tok.pop ++ f.tok.push
/-- Subformat V2. -/
def encV2 (fn : BitVec 6) (f : V2) : IWord :=
  0x1F#6 ++ f.vd ++ f.va ++ fn ++ f.p ++ f.t ++ f.tok.pop ++ f.tok.push
/-- Subformat VF. -/
def encVF (major : BitVec 6) (f : VF) : IWord :=
  major ++ f.vd ++ f.va ++ f.fmt ++ f.sat ++ f.p ++ f.t ++ f.tok.pop ++ f.tok.push
/-- Subformat VI. -/
def encVI (major : BitVec 6) (f : VI) : IWord :=
  major ++ f.vd ++ f.va ++ f.n ++ f.p ++ f.t ++ f.tok.pop ++ f.tok.push
/-- Subformat VC. -/
def encVC (major : BitVec 6) (f : VC) : IWord :=
  major ++ f.pd ++ f.cc ++ f.va ++ f.vb ++ f.p ++ 0#1 ++ f.tok.pop ++ f.tok.push
/-- Subformat PR with a predicate destination. -/
def encPR (pd pa pb : BitVec 3) (fn : BitVec 3) (k : Tok) : IWord :=
  0x2D#6 ++ pd ++ 0#3 ++ pa ++ 0#3 ++ pb ++ 0#3 ++ fn ++ 0#1 ++ k.pop ++ k.push
/-- Subformat VJ. -/
def encVJ (j : BitVec 2) (all : BitVec 1) (pa : BitVec 3) (k : Tok) : IWord :=
  0x2E#6 ++ j ++ all ++ 0#3 ++ pa ++ 0#13 ++ k.pop ++ k.push
/-- Subformat MX. -/
def encMX (f1 f2 fn : BitVec 6) (k : Tok) : IWord :=
  0x30#6 ++ f1 ++ f2 ++ fn ++ 0#4 ++ k.pop ++ k.push

/-- The word of an instruction (chapter 05); an event has none, and answers the word 0 that no stream decodes
(R150).
(DESIGN CHOICE: log entry 117.) -/
def encode : Instr → IWord
  | .add d a b => encCR 0x01#6 d a b 0#4 0x00#7
  | .sub d a b => encCR 0x01#6 d a b 0#4 0x01#7
  | .and d a b => encCR 0x01#6 d a b 0#4 0x02#7
  | .or d a b => encCR 0x01#6 d a b 0#4 0x03#7
  | .xor d a b => encCR 0x01#6 d a b 0#4 0x04#7
  | .shl d a b => encCR 0x01#6 d a b 0#4 0x05#7
  | .shr d a b => encCR 0x01#6 d a b 0#4 0x06#7
  | .sar d a b => encCR 0x01#6 d a b 0#4 0x07#7
  | .rotl d a b => encCR 0x01#6 d a b 0#4 0x08#7
  | .min d a b => encCR 0x01#6 d a b 0#4 0x09#7
  | .max d a b => encCR 0x01#6 d a b 0#4 0x0a#7
  | .minn d a b => encCR 0x01#6 d a b 0#4 0x0b#7
  | .maxn d a b => encCR 0x01#6 d a b 0#4 0x0c#7
  | .clz d a => encCR 0x01#6 d a 0#5 0#4 0x0d#7
  | .ctz d a => encCR 0x01#6 d a 0#5 0#4 0x0e#7
  | .popc d a => encCR 0x01#6 d a 0#5 0#4 0x0f#7
  | .sext8 d a => encCR 0x01#6 d a 0#5 0#4 0x10#7
  | .sext16 d a => encCR 0x01#6 d a 0#5 0#4 0x11#7
  | .sext32 d a => encCR 0x01#6 d a 0#5 0#4 0x12#7
  | .zext8 d a => encCR 0x01#6 d a 0#5 0#4 0x13#7
  | .zext16 d a => encCR 0x01#6 d a 0#5 0#4 0x14#7
  | .zext32 d a => encCR 0x01#6 d a 0#5 0#4 0x15#7
  | .mul d a b => encCR 0x02#6 d a b 0#4 0x00#7
  | .mulh d a b => encCR 0x02#6 d a b 0#4 0x01#7
  | .mulhn d a b => encCR 0x02#6 d a b 0#4 0x02#7
  | .div d a b => encCR 0x02#6 d a b 0#4 0x03#7
  | .divn d a b => encCR 0x02#6 d a b 0#4 0x04#7
  | .rem d a b => encCR 0x02#6 d a b 0#4 0x05#7
  | .remn d a b => encCR 0x02#6 d a b 0#4 0x06#7
  | .adda d a b => encCR 0x03#6 d a b 0#4 0x00#7
  | .mada d a b sh => encCR 0x03#6 d a b 0#4 (1#2 ++ sh)
  | .bfx d a pos width => encCF 0x04#6 d a pos width 0#4
  | .bfxs d a pos width => encCF 0x04#6 d a pos width 1#4
  | .bfi d a pos width => encCF 0x04#6 d a pos width 2#4
  | .shli d a pos => encCF 0x05#6 d a pos 0#6 0#4
  | .shri d a pos => encCF 0x05#6 d a pos 0#6 1#4
  | .sari d a pos => encCF 0x05#6 d a pos 0#6 2#4
  | .addi d a imm => encCI 0x06#6 d a imm
  | .andi d a imm => encCI 0x07#6 d a imm
  | .ori d a imm => encCI 0x08#6 d a imm
  | .xori d a imm => encCI 0x09#6 d a imm
  | .lim d imm => 0x0A#6 ++ d ++ imm
  | .lih d q imm => 0x0B#6 ++ d ++ q ++ 0#3 ++ imm
  | .cmp cc a b j => encCR 0x10#6 cc a b j 0#7
  | .cmpi cc a imm j => encCR 0x11#6 cc a (fld imm 7 5) j (fld imm 0 7)
  | .jand j ja jb => encCJ 0x12#6 ja 0#5 jb j 0x00#7
  | .jor j ja jb => encCJ 0x12#6 ja 0#5 jb j 0x01#7
  | .jmov j ja => encCJ 0x12#6 ja 0#5 0#4 j 0x02#7
  | .jclr j => encCJ 0x12#6 0#4 0#5 0#4 j 0x03#7
  | .prep j off => 0x13#6 ++ fld off 7 15 ++ j ++ fld off 0 7
  | .prepx j a => encCJ 0x14#6 0#4 a 0#4 j 0x00#7
  | .xferA j => encCJ 0x15#6 0#4 0#5 0#4 j 0x00#7
  | .xferT j => encCJ 0x15#6 0#4 0#5 0#4 j 0x01#7
  | .xferF j => encCJ 0x15#6 0#4 0#5 0#4 j 0x02#7
  | .xferl j ja => encCJ 0x15#6 ja 0#5 0#4 j 0x03#7
  | .jrd d j => encCR 0x16#6 d 0#5 0#5 j 0#7
  | .loop lp a skip => 0x18#6 ++ lp ++ 0#3 ++ a ++ skip
  | .loopc lp j mx => 0x19#6 ++ lp ++ fld mx 7 13 ++ j ++ fld mx 0 7
  | .lend lp => 0x1A#6 ++ lp ++ 0#24
  | .tksend a t => 0x1C#6 ++ 0#5 ++ a ++ 0#9 ++ t ++ 0#5
  | .tkrecv d t => 0x1D#6 ++ d ++ 0#14 ++ t ++ 0#5
  | .ldxPlace d a ord ty imm => encCM 0x20#6 d a 0#5 ord ty imm
  | .ldxHandle d h b ord ty imm => encCM 0x21#6 d h b ord ty imm
  | .stxPlace d a ord ty imm => encCM 0x22#6 d a 0#5 ord ty imm
  | .stxHandle d h b ord ty imm => encCM 0x23#6 d h b ord ty imm
  | .ldxpPlace d a ord imm => encCM 0x24#6 d a 0#5 ord 6#3 imm
  | .ldxpHandle d h b ord imm => encCM 0x25#6 d h b ord 6#3 imm
  | .stxpPlace d a ord imm => encCM 0x26#6 d a 0#5 ord 6#3 imm
  | .stxpHandle d h b ord imm => encCM 0x27#6 d h b ord 6#3 imm
  | .ataddPlace d a b ord sz => encCA 0x28#6 d a b ord 0#4 sz
  | .atswpPlace d a b ord sz => encCA 0x28#6 d a b ord 1#4 sz
  | .atcasPlace d a b ord sz => encCA 0x28#6 d a b ord 2#4 sz
  | .atminPlace d a b ord sz => encCA 0x28#6 d a b ord 3#4 sz
  | .atmaxPlace d a b ord sz => encCA 0x28#6 d a b ord 4#4 sz
  | .atandPlace d a b ord sz => encCA 0x28#6 d a b ord 5#4 sz
  | .atorPlace d a b ord sz => encCA 0x28#6 d a b ord 6#4 sz
  | .atxorPlace d a b ord sz => encCA 0x28#6 d a b ord 7#4 sz
  | .atfaddPlace d a b ord => encCA 0x28#6 d a b ord 8#4 0#1
  | .ataddHandle d h b ord sz => encCA 0x29#6 d h b ord 0#4 sz
  | .atswpHandle d h b ord sz => encCA 0x29#6 d h b ord 1#4 sz
  | .atcasHandle d h b ord sz => encCA 0x29#6 d h b ord 2#4 sz
  | .atminHandle d h b ord sz => encCA 0x29#6 d h b ord 3#4 sz
  | .atmaxHandle d h b ord sz => encCA 0x29#6 d h b ord 4#4 sz
  | .atandHandle d h b ord sz => encCA 0x29#6 d h b ord 5#4 sz
  | .atorHandle d h b ord sz => encCA 0x29#6 d h b ord 6#4 sz
  | .atxorHandle d h b ord sz => encCA 0x29#6 d h b ord 7#4 sz
  | .atfaddHandle d h b ord => encCA 0x29#6 d h b ord 8#4 0#1
  | .kinv a => encCR 0x30#6 0#5 a 0#5 0#4 0#7
  | .spawn d a => encCR 0x30#6 d a 0#5 0#4 1#7
  | .kick a b => encCR 0x30#6 0#5 a b 0#4 2#7
  | .texit => encCR 0x30#6 0#5 0#5 0#5 0#4 3#7
  | .gsync => encCR 0x31#6 0#5 0#5 0#5 0#4 0#7
  | .yield => encCR 0x31#6 0#5 0#5 0#5 0#4 1#7
  | .bari a b => encCR 0x32#6 0#5 a b 0#4 0#7
  | .barm a b => encCR 0x32#6 0#5 a b 0#4 1#7
  | .bara a b => encCR 0x32#6 0#5 a b 0#4 2#7
  | .bwait a b => encCR 0x32#6 0#5 a b 0#4 3#7
  | .btest d a => encCR 0x32#6 d a 0#5 0#4 4#7
  | .sqadd a b => encCR 0x32#6 0#5 a b 0#4 5#7
  | .sqwait a b c => encCR 0x32#6 c a b 0#4 6#7
  | .sqrd d a => encCR 0x32#6 d a 0#5 0#4 7#7
  | .trans h a => encCR 0x33#6 h a 0#5 0#4 0#7
  | .hinv h => encCR 0x33#6 0#5 h 0#5 0#4 1#7
  | .hrd d h => encCR 0x33#6 d h 0#5 0#4 2#7
  | .splnt a => encCR 0x33#6 0#5 a 0#5 0#4 3#7
  | .hshoot a b => encCR 0x33#6 0#5 a b 0#4 4#7
  | .poolup a b => encCR 0x33#6 0#5 a b 0#4 5#7
  | .poolev a => encCR 0x33#6 0#5 a 0#5 0#4 6#7
  | .poolscan d a => encCR 0x33#6 d a 0#5 0#4 7#7
  | .ckpt d => encCR 0x34#6 d 0#5 0#5 0#4 0#7
  | .ckwait a => encCR 0x34#6 0#5 a 0#5 0#4 1#7
  | .ctxsave a => encCR 0x34#6 0#5 a 0#5 0#4 2#7
  | .ctxrest a => encCR 0x34#6 0#5 a 0#5 0#4 3#7
  | .lsopen d a => encCR 0x35#6 d a 0#5 0#4 0#7
  | .lsclose a => encCR 0x35#6 0#5 a 0#5 0#4 1#7
  | .lsync a => encCR 0x35#6 0#5 a 0#5 0#4 2#7
  | .lretire a => encCR 0x35#6 0#5 a 0#5 0#4 3#7
  | .gang a b => encCR 0x35#6 0#5 a b 0#4 4#7
  | .cpyPlace a => encCE a 0#5 0#4 1#1
  | .cpyHandle h b => encCE h b 0#4 0#1
  | .cpyxPlace a => encCE a 0#5 1#4 1#1
  | .cpyxHandle h b => encCE h b 1#4 0#1
  | .cpymPlace a => encCE a 0#5 2#4 1#1
  | .cpymHandle h b => encCE h b 2#4 0#1
  | .strmPlace a => encCE a 0#5 3#4 1#1
  | .strmHandle h b => encCE h b 3#4 0#1
  | .fexPlace a => encCE a 0#5 4#4 1#1
  | .fexHandle h b => encCE h b 4#4 0#1
  | .scrbPlace a => encCE a 0#5 5#4 1#1
  | .scrbHandle h b => encCE h b 5#4 0#1
  | .nvrdPlace a => encCE a 0#5 6#4 1#1
  | .nvrdHandle h b => encCE h b 6#4 0#1
  | .nvwrPlace a => encCE a 0#5 7#4 1#1
  | .nvwrHandle h b => encCE h b 7#4 0#1
  | .credPlace a => encCE a 0#5 8#4 1#1
  | .credHandle h b => encCE h b 8#4 0#1
  | .fenceAcq s => 0x3C#6 ++ 0#16 ++ s ++ 0#5 ++ 0#2
  | .fenceRel s => 0x3C#6 ++ 0#16 ++ s ++ 0#5 ++ 1#2
  | .fenceSc s => 0x3C#6 ++ 0#16 ++ s ++ 0#5 ++ 2#2
  | .csrr d c => 0x3D#6 ++ d ++ 0#5 ++ c ++ 0#4
  | .csrw a c => 0x3D#6 ++ 0#5 ++ a ++ c ++ 1#4
  | .trap n => 0x3E#6 ++ 0#11 ++ n ++ 1#7
  | .eret => 0x3E#6 ++ 0#19 ++ 2#7
  | .iinv a b => encCR 0x3E#6 0#5 a b 0#4 3#7
  | .halt => 0x3E#6 ++ 0#19 ++ 4#7
  | .dbgbrk => 0x3E#6 ++ 0#19 ++ 5#7
  | .nop => 0xFC000000#32
  | .ldv v a imm k => encDP 0x01#6 v a imm k
  | .ldvd v a dir imm k => encDD 0x02#6 v a dir imm k
  | .ldvg v a vi k => encDG 0x03#6 v a vi k
  | .ldsc a imm k => encDP 0x04#6 0#6 a imm k
  | .mark m k => 0x08#6 ++ 0#18 ++ m ++ k.pop ++ k.push
  | .fenceD s k => 0x09#6 ++ 0#19 ++ s ++ k.pop ++ k.push
  | .waita a limit k => encDP 0x0A#6 0#6 a limit k
  | .ainc a imm k => encDP 0x0B#6 0#6 a imm k
  | .stv v a imm k => encDP 0x10#6 v a imm k
  | .stvd v a dir imm k => encDD 0x11#6 v a dir imm k
  | .stvx v a vi k => encDG 0x12#6 v a vi k
  | .note a imm k => encDP 0x13#6 0#6 a imm k
  | .lfence k => 0x14#6 ++ 0#22 ++ k.pop ++ k.push
  | .loopDA lp skip count k => 0x38#6 ++ lp ++ skip ++ count ++ k.pop ++ k.push
  | .loopcDA lp j mx k => 0x39#6 ++ lp ++ j ++ mx ++ k.pop ++ k.push
  | .lendDA lp k => encLE lp 0#1 k
  | .lendR lp k => encLE lp 1#1 k
  | .prepDA j off k => 0x3B#6 ++ j ++ off ++ k.pop ++ k.push
  | .xferADA j k => encPX j 0#2 k
  | .xferTDA j k => encPX j 1#2 k
  | .xferFDA j k => encPX j 2#2 k
  | .nopDA k => 0x3F#6 ++ 0#22 ++ k.pop ++ k.push
  | .vadd f => encV3 0x01#6 f
  | .vsub f => encV3 0x02#6 f
  | .vadds f => encV3 0x03#6 f
  | .vsubs f => encV3 0x04#6 f
  | .vavg f => encV3 0x05#6 f
  | .vmul f => encV3 0x06#6 f
  | .vmulh f => encV3 0x07#6 f
  | .vmulq f => encV3 0x08#6 f
  | .vmac f => encV3 0x09#6 f
  | .vabd f => encV3 0x0a#6 f
  | .vmin f => encV3 0x0b#6 f
  | .vmax f => encV3 0x0c#6 f
  | .vand f => encV3 0x0d#6 f
  | .vor f => encV3 0x0e#6 f
  | .vxor f => encV3 0x0f#6 f
  | .vshl f => encV3 0x10#6 f
  | .vshr f => encV3 0x11#6 f
  | .vsar f => encV3 0x12#6 f
  | .vshrr f => encV3 0x13#6 f
  | .vshls f => encV3 0x14#6 f
  | .vsel f => encV3 0x15#6 f
  | .vperm f => encV3 0x16#6 f
  | .vzip f => encV3 0x17#6 f
  | .vunzip f => encV3 0x18#6 f
  | .fadd f => encV3 0x19#6 f
  | .fsub f => encV3 0x1a#6 f
  | .fmul f => encV3 0x1b#6 f
  | .ffma f => encV3 0x1c#6 f
  | .fmin f => encV3 0x1d#6 f
  | .fmax f => encV3 0x1e#6 f
  | .vabs f => encV2 0#6 f
  | .vnot f => encV2 1#6 f
  | .vclz f => encV2 2#6 f
  | .vpopc f => encV2 3#6 f
  | .fabs f => encV2 4#6 f
  | .fneg f => encV2 5#6 f
  | .vrsum f => encV2 6#6 f
  | .vrmax f => encV2 7#6 f
  | .vrmin f => encV2 8#6 f
  | .vcmp f => encVC 0x20#6 f
  | .fcmp f => encVC 0x21#6 f
  | .vcvtRne f => encVF 0x22#6 f
  | .vcvtRz f => encVF 0x23#6 f
  | .vcvtRu f => encVF 0x24#6 f
  | .vcvtRd f => encVF 0x25#6 f
  | .vcvtSr f => encVF 0x26#6 f
  | .vnarrow f => encVF 0x27#6 f
  | .vwiden f => encVF 0x28#6 f
  | .pxunp f => encVF 0x29#6 f
  | .pxpak f => encVF 0x2a#6 f
  | .vslide f => encVI 0x2B#6 f
  | .vbcast f => encVI 0x2C#6 f
  | .pand pd pa pb k => encPR pd pa pb 0#3 k
  | .por pd pa pb k => encPR pd pa pb 1#3 k
  | .pxor pd pa pb k => encPR pd pa pb 2#3 k
  | .pnot pd pa k => encPR pd pa 0#3 3#3 k
  | .pcnt vd pa k => 0x2D#6 ++ vd ++ pa ++ 0#9 ++ 4#3 ++ 0#1 ++ k.pop ++ k.push
  | .pfirst pd pa k => encPR pd pa 0#3 5#3 k
  | .pset pd n k => 0x2D#6 ++ pd ++ 0#9 ++ n ++ 6#3 ++ 0#1 ++ k.pop ++ k.push
  | .vcmpjAny j pa k => encVJ j 0#1 pa k
  | .vcmpjAll j pa k => encVJ j 1#1 pa k
  | .vtype fmt rm k => 0x2F#6 ++ fmt ++ rm ++ 0#14 ++ k.pop ++ k.push
  | .mcfg fa fb k => encMX (0#1 ++ fa) (0#1 ++ fb) 0#6 k
  | .mzero m k => encMX (0#5 ++ m) 0#6 1#6 k
  | .mwl k => encMX 0#6 0#6 2#6 k
  | .mswap k => encMX 0#6 0#6 3#6 k
  | .mma m k => encMX (0#5 ++ m) 0#6 4#6 k
  | .mmas m k => encMX (0#5 ++ m) 0#6 5#6 k
  | .rep count sd sa sb => 0x31#6 ++ count ++ sd ++ sa ++ sb ++ 0#13
  | _ => 0#32

end Sys2Proof
end

