-- ==== Sys2Proof/Machine/State.lean ====
section
/-! DEFINITION. The state of the RKW-1100 package, as plain data: every piece of state that spec/ gives the machine,
the faults and refusals, and the state after module reset. Each field names the rule that gives it. A list of
(number, value) pairs is a table in ascending order of its number; an entry that is not listed holds the table's
default, which the field's docstring gives. -/

namespace Sys2Proof.Machine

/-- No meaning of this model ends in a fault: every trap of the spec is taken (R405), and every event whose
condition does not hold leaves the state as it is. The type has the one constructor that a later repair would use. -/
inductive Fault where
  /-- Raised by nothing in this model; safe. -/
  | noEffect (what : String)
  deriving DecidableEq, Repr, Inhabited

/-- Why an instruction has no meaning. -/
inductive Refusal where
  /-- Raised by an arm of Dispatch.lean whose instruction has no meaning yet; safe. -/
  | notModelled (mnemonic : String)
  deriving DecidableEq, Repr, Inhabited

/-! ### The state of one core -/

/-- A translation of a page (Table 14.2, R379). -/
structure Trans where
  /-- 0 for 64 KiB, 1 for 4 MiB, 2 for 256 MiB (Table 14.5). -/
  size : Nat := 0
  /-- Physical base of the page. -/
  base : Nat := 0
  r : Bool := false
  w : Bool := false
  x : Bool := false
  prv : Bool := false
  rem : Bool := false
  node : Node := 0
  sh : Bool := false
  log : Bool := false
  deriving DecidableEq, Repr, Inhabited

/-- The translation grants an access; the empty one, which stands for a place, grants none. -/
def Trans.grants (t : Trans) : Bool := t.r || t.w || t.x

/-- The states of a handle (R379). -/
inductive HState where
  | none | pending | valid | stale
  deriving DecidableEq, Repr, Inhabited

/-- One handle register (R379): its state, recorded address, the walk it waits on, and its last translation. -/
structure Handle where
  st : HState := .none
  va : VAddr := 0
  walk : Nat := 0
  tr : Option Trans := .none
  deriving DecidableEq, Repr, Inhabited

/-- The target half's states (R182). -/
inductive TState where
  | empty | fetching | ready | stale
  deriving DecidableEq, Repr, Inhabited

/-- The condition half (R182). -/
inductive Cond where
  | unset | true | false
  deriving DecidableEq, Repr, Inhabited

/-- One fetched word, or why it could not be fetched (R183). -/
inductive Fetched where
  | word (w : IWord)
  /-- the page is absent or the walk met an error. -/
  | absent
  /-- the permission X fails, or the page is remote. -/
  | perm
  deriving DecidableEq, Repr, Inhabited

/-- A run of fetched words from a base address: a target buffer's four lines (R182). -/
structure FBuf where
  base : VAddr := 0
  words : List Fetched := []
  deriving DecidableEq, Repr, Inhabited

/-- One steer register (R182). -/
structure Steer where
  target : VAddr := 0
  st : TState := .empty
  cond : Cond := .unset
  buf : FBuf := {}
  deriving DecidableEq, Repr, Inhabited

/-- One active loop level (R194): counted with `left` rounds, or conditional on a steer register. -/
inductive Level where
  | count (start stop : VAddr) (left : X64)
  | cond (start : VAddr) (stop : Option VAddr) (trip : Nat) (j : Nat) (max : Nat)
  deriving DecidableEq, Repr, Inhabited

/-- What a stalled instruction waits for (R24, R134, R176, R224, R226, R270, R343, R368, R413, R437). -/
inductive Why where
  /-- a token queue, by its source and destination streams (0 to 3). -/
  | token (src dst : Nat)
  | mark (m : Nat)
  | scaleFull
  | scaleShort
  /-- WAITA, BWAIT, SQWAIT or CKWAIT: the limit in cycles, the address and the detail of its record. -/
  | wait (limit : Nat) (addr detail : X64)
  | gsync
  | serialCap (node : Node) (va : X64)
  | fence
  /-- fence.rel of a scope (R129). -/
  | rel (scope : BitVec 3)
  | other
  deriving DecidableEq, Repr, Inhabited

/-- A stall in progress: its reason and the unfrozen cycles it has lasted (R25). -/
structure Stall where
  why : Why
  cycles : Nat := 0
  deriving DecidableEq, Repr, Inhabited

/-- A token push of an issued instruction that has found its queue full: the instruction, the destination stream, and the unfrozen
cycles of the stall (R24, R25). -/
structure Due where
  pc : VAddr
  dst : Nat
  cycles : Nat := 0
  deriving DecidableEq, Repr, Inhabited

/-- One sequencer: the state that each of the four streams holds (Tables 6.1 and 7.1, R214). -/
structure Seq where
  present : Bool := false
  pc : VAddr := 0
  /-- The Pending transfer (R187), with the target buffer it was taken from. -/
  pending : Option (VAddr × FBuf) := none
  /-- The lines that the stream executes from after a taken transfer (R192). -/
  buf : FBuf := {}
  /-- The lines that it has fetched in sequence since then, by line number (R192, R305). -/
  lines : List (Nat × List Fetched) := []
  /-- The next instruction stands in a delay slot (R188). -/
  slot : Bool := false
  lp : Vector (Option Level) 4 := Vector.replicate 4 none
  /-- j0 to j11 in the C-stream, j0 to j3 in the others. -/
  j : Vector Steer 12 := Vector.replicate 12 {}
  stall : Option Stall := none
  /-- It has completed the last word of its section, or has been stopped by TEXIT (R214, R322). -/
  stopped : Bool := false
  /-- A poisoned or failed read has arrived: nothing more issues (R232, R434). -/
  halted : Bool := false
  /-- It waits at the position of this safe point (R408). -/
  atSafe : Option Nat := none
  /-- It was released from a rendezvous that did not complete, and has not issued since (R408). -/
  released : Bool := false
  /-- The cycle in which it last completed an issue: at most one in each cycle (R176, R213, R240). -/
  last : Option Nat := none
  /-- Pushes of instructions about to complete that find their queue full: the stream issues nothing meanwhile (R24). -/
  due : List Due := []
  /-- The token that a stalled FENCE.D has popped, with its source (R23, R130, R231). -/
  popped : Option (Nat × X64) := none
  /-- A stalled WAITA or FENCE.D has done all but its push (R23, R24). -/
  met : Bool := false
  deriving DecidableEq, Repr, Inhabited

/-- Where the data of a read goes. -/
inductive ReadDst where
  /-- xd, with the size in bytes and whether it is sign-extended (R200). -/
  | x (d : BitVec 5) (size : Nat) (sext : Bool)
  /-- xd and xd + 1 (R200). -/
  | xPair (d : BitVec 5)
  /-- a row of the row file (R218). -/
  | row (v : BitVec 6)
  /-- 64 words into the w56 lanes of a row (R219). -/
  | rowWords (v : BitVec 6)
  /-- the scale queue (R224). -/
  | scale
  deriving DecidableEq, Repr, Inhabited

/-- An atomic: fn of R158, the operand b, and the compare value (R202). -/
structure Atom where
  fn : BitVec 4
  b : Nat
  cmp : Nat
  deriving DecidableEq, Repr, Inhabited

/-- One outstanding read (R176, R213). -/
structure Read where
  no : Nat := 0
  dst : ReadDst := .scale
  /-- The pieces read: key of the first byte and byte count. -/
  pieces : List (Nat × Nat) := []
  /-- The value, once performed (R117), the lowest byte first in a little-endian number. -/
  value : Option Nat := none
  /-- The performed value met a poisoned line, with its address for the record (R232). -/
  poison : Option X64 := none
  /-- It names a place, not a page (R488). -/
  place : Bool := true
  /-- Bytes that forwarding served: (offset in the value, byte) (R121). -/
  fwd : List (Nat × Byte) := []
  pc : VAddr := 0
  push : BitVec 2 := 0
  /-- A remote load's session tag (R432). -/
  remote : Bool := false
  node : Node := 0
  va : X64 := 0
  acq : Bool := false
  /-- An atomic (R202): it writes its bytes as it is performed. -/
  atom : Option Atom := none
  /-- .rel of an atomic, with its scope code (R127). -/
  rel : Option (BitVec 3) := none
  /-- An atomic's write is logged for undo (R414). -/
  log : Bool := false
  /-- Its transfer is retried and late: it holds the group's stall wire (R99). -/
  late : Bool := false
  /-- The cycle in which it was performed: its pieces are separate events of that cycle (R118, Table 7.3). -/
  at_ : Nat := 0
  /-- Bytes of the page of the handle that it went through; 0 for a place (R387). -/
  span : Nat := 0
  deriving DecidableEq, Repr, Inhabited

/-- One store in a store buffer (R176, R213). -/
structure Store where
  no : Nat := 0
  /-- Key of the first byte of each piece and the byte values. -/
  pieces : List (Nat × List Byte) := []
  /-- A NOTE that adds 1 in place of storing (R225). -/
  addOne : Bool := false
  /-- A NOTE: visible only after every earlier store of the stream, at any location (R225). -/
  note : Bool := false
  /-- .rel, with its scope code (R127). -/
  rel : Option (BitVec 3) := none
  /-- It has crossed the mesh to its column (R103). -/
  arrived : Bool := false
  /-- A remote store (R200): its node, its owner address, and whether it has been sent. -/
  remote : Bool := false
  node : Node := 0
  pa : Nat := 0
  va : X64 := 0
  sent : Bool := false
  /-- It is logged for undo (R414). -/
  log : Bool := false
  /-- Its transfer is retried and late: it holds the group's stall wire (R99). -/
  late : Bool := false
  /-- Lines that it covers in full, by key / 64: they are clean once all of the line is written (R83). -/
  full : List Nat := []
  pc : VAddr := 0
  /-- Bytes of the page of the handle that it went through; 0 for a place (R387). -/
  span : Nat := 0
  deriving DecidableEq, Repr, Inhabited

/-- What an A-stream write writes (R240). -/
inductive AWrite where
  | row (v : Nat) (value : Row)
  | transient (v : Nat) (value : Row)
  deriving DecidableEq, Repr, Inhabited

/-- An A-stream instruction that has issued and not yet written (R240). -/
structure APend where
  wr : AWrite
  flags : BitVec 5 := 0
  push : BitVec 2 := 0
  pc : VAddr := 0
  /-- Its latency (Table 8.4), and the cycle of its issue. -/
  lat : Nat := 2
  at_ : Nat := 0
  /-- The number of matrix words that the stream had issued before it (R132). -/
  mark : Nat := 0
  /-- Executions left of the transient window, the one that opened it included until it has issued (R241). -/
  left : Nat := 0
  deriving DecidableEq, Repr, Inhabited

/-- One entry of the bypass network (R241). -/
structure Bypass where
  row : Nat
  value : Row
  left : Nat
  deriving DecidableEq, Repr, Inhabited

/-- Four planar tiles with their format, and the descriptor of the MWL that loaded them, or none for zeros
(Table 9.1, R274). -/
structure Weights where
  fmt : BitVec 5 := 0x0F
  tiles : Vector (BitVec 139264) 4 := Vector.replicate 4 0
  desc : Option X64 := none
  deriving DecidableEq, Repr, Inhabited

/-- An MMA or MMAS that streams: what it latched at issue (R271). -/
structure Mma where
  tile : BitVec 1
  half : BitVec 1
  klen : Nat
  fa : BitVec 5
  fb : BitVec 5
  a : Vector (BitVec 139264) 4
  w : Vector (BitVec 139264) 4
  sa : Option (BitVec 2048)
  sb : Option (BitVec 4096)
  push : BitVec 2
  pc : VAddr := 0
  /-- Its descriptor, the GSC of its issue, and the 16-byte pieces of A that it has read since (R271, R272). -/
  desc : X64 := 0
  at_ : Nat := 0
  took : List Nat := []
  /-- Its number among the matrix words of its core (R132). -/
  no : Nat := 0
  deriving DecidableEq, Repr, Inhabited

/-- An MWL that loads, or that waits to load for a CPYM item (R267, R282). -/
structure Mwl where
  desc : X64
  fmt : BitVec 5
  push : BitVec 2 := 0
  pc : VAddr := 0
  /-- The CPYM item it follows. -/
  item : Option Nat := none
  /-- The 16-byte pieces that it has read since its load began, and the GSC of that cycle (R267, R272). -/
  took : List Nat := []
  at_ : Nat := 0
  /-- Its number among the matrix words of its core (R132). -/
  no : Nat := 0
  deriving DecidableEq, Repr, Inhabited

/-- REPS, by its fields (Table 8.5). -/
structure Reps where
  active : Bool := false
  popped : Bool := false
  sd : BitVec 2 := 0
  sa : BitVec 2 := 0
  sb : BitVec 2 := 0
  count : BitVec 7 := 0
  done : BitVec 7 := 0
  deriving DecidableEq, Repr, Inhabited

/-- How far a C-stream command of several stages has come (R302, R425, R427, R438, R445, R411). -/
inductive CCmd where
  | kinv | lsopen (node : Node) | lsclose (node : Node) | lsync (nodes : List Node)
  | gang (id : Nat) | ckpt | ctxsave (slot : Slot) | texit | halt
  /-- HSHOOT after its drop: the items, the submitted items whose blocks are yet to be read, and the accesses of cores below a number, that
  it waits for (R387). -/
  | hshoot (items blocks : List Nat) (marks : List (Nat × Nat))
  deriving DecidableEq, Repr, Inhabited

/-- The state of one core.
(DESIGN CHOICE: log entry 6.) -/
structure Core where
  /-- The running task and this core's member index in it (R335). -/
  task : Option Nat := none
  member : Nat := 0
  /-- The member has ended (R322). -/
  ended : Bool := false
  /-- x0 to x31 (R175). -/
  x : Vector X64 32 := Vector.replicate 32 0
  /-- h0 to h31 (R379). -/
  h : Vector Handle 32 := Vector.replicate 32 {}
  /-- The C-, L-, A- and S-stream (R21). -/
  seqs : Vector Seq 4 := Vector.replicate 4 {}
  /-- a0 to a15 of the L-stream and of the S-stream (R211). -/
  aL : Vector PlaceAddr 16 := Vector.replicate 16 0
  aS : Vector PlaceAddr 16 := Vector.replicate 16 0
  /-- The row file v0 to v63 (R36, R212). -/
  rows : Vector Row 64 := Vector.replicate 64 0
  /-- The rows written in this cycle, with their values from before it (R212), and those of them that the A-stream has written (R240). -/
  rowsThen : List (Nat × Row) := []
  rowsNow : List Nat := []
  /-- p0 to p7; p0 is all ones (R238). -/
  preds : Vector PredBits 8 := Vector.ofFn fun i => if i.val = 0 then BitVec.allOnes 448 else 0
  /-- The token queues: entry 4s + d from stream s to stream d, the oldest first (R22). -/
  toks : Vector (List X64) 16 := Vector.replicate 16 []
  /-- For each token queue, the tokens pushed in this cycle, which nothing pops before the next one (R24). -/
  tokNew : Vector Nat 16 := Vector.replicate 16 0
  /-- The scale queue (R224). -/
  scales : List (BitVec 512) := []
  /-- Unpaired MARK counts (R134). -/
  marks : Vector Int 16 := Vector.replicate 16 0
  /-- For each marker number, the store number at each unpaired S-side MARK, oldest first (R134). -/
  markS : Vector (List Nat) 16 := Vector.replicate 16 []
  /-- Paired marks: L-side loads wait until every core-scope S-stream store below the number is visible (R134). -/
  markWait : List (Nat × Nat) := []
  /-- L-side MARKs not yet paired, by number: loads wait for their pairing (R134). -/
  markOpen : List Nat := []
  /-- VT (Table 8.1). -/
  vt : BitVec 32 := 0x11
  /-- VROT (Table 8.2). -/
  vrot : BitVec 4 := 0
  /-- PROT (Table 8.3). -/
  prot : BitVec 2 := 0
  /-- REPS (Table 8.5). -/
  reps : Reps := {}
  /-- VSTAT (Table 2.10), and the flags that A-stream instructions have set in this cycle (R61). -/
  vstat : BitVec 5 := 0
  vstatNow : BitVec 5 := 0
  /-- MCFG.FMTA and MCFG.FMTB (Table 9.2). -/
  fmtA : BitVec 5 := 0x0F
  fmtB : BitVec 5 := 0x0F
  /-- MCFG.SHST (Table 9.2). -/
  shst : BitVec 2 := 0
  /-- MCFG.SWPEND (Table 9.2), with the token push and the address of the MSWAP. -/
  swpend : Option (BitVec 2 × VAddr) := none
  /-- MCFG.BSCV (Table 9.2). -/
  bscv : Bool := false
  /-- Active weights W and shadow weights (Table 9.1); their formats are MCFG.ACTB and MCFG.SHB. -/
  wAct : Weights := {}
  wSh : Weights := {}
  /-- Held B scales SB (Table 9.1). -/
  sb : BitVec 4096 := BitVec.allOnes 4096
  /-- The bypass network (R241). -/
  bypass : List Bypass := []
  /-- A-stream writes outstanding, oldest first (R240). -/
  aPend : List APend := []
  /-- Array free cycle (Table 9.1), as a value of GSC: frozen cycles do not count (R274). -/
  arrayFree : Nat := 0
  /-- MMAs streaming, oldest first (R271). -/
  mmas : List Mma := []
  /-- MWLs: the head is loading when SHST is LOADING, the others wait (R267, R282). -/
  mwls : List Mwl := []
  /-- MODEL'S OWN: counts the MMAs, MMASs and MWLs that the A-stream has issued (R132). -/
  matNo : Nat := 0
  /-- The division in progress: xd and its value (R176). -/
  div : Option (BitVec 5 × X64) := none
  /-- Outstanding reads of the C-stream and of the L-stream, oldest first (R176, R213). -/
  cReads : List Read := []
  lReads : List Read := []
  /-- Store buffers of the C-stream and of the S-stream, oldest first (R176, R213). -/
  cStores : List Store := []
  sStores : List Store := []
  /-- The fence.rels that later loads have passed: scope, and the number of the first access after it (R129). -/
  rels : List (BitVec 3 × Nat) := []
  /-- LFENCEs that have not completed: the store number each waits for, its push and its address (R131). -/
  lfences : List (Nat × BitVec 2 × VAddr) := []
  /-- Number of the next access of the core, in issue order (R120). -/
  accNo : Nat := 0
  /-- Stores of the S-stream, by number, of which a piece has become visible in this cycle (R79). -/
  shown : List Nat := []
  /-- The cycle in which a load of another column was last performed for the L-stream (R79, R222). -/
  lAt : Option Nat := none
  /-- The C-stream command in progress. -/
  cmd : Option CCmd := none
  /-- TCAUSE, TPC and TSTREAM (R206). -/
  tcause : BitVec 8 := 0
  tpc : VAddr := 0
  tstream : BitVec 2 := 0
  /-- GRPSHAPE (Table 12.1). -/
  grpshape : BitVec 32 := 0
  /-- SLOTMAP of the column, a value that waits for the next frame boundary, and the cycle in which it was written (Table 3.4,
  R339). -/
  slotmap : X64 := 0x3721862195218421
  slotmapNext : Option X64 := none
  slotmapAt : Nat := 0
  /-- The member has arrived at a GSYNC and waits (R343). -/
  gsyncIn : Bool := false
  deriving DecidableEq, Repr, Inhabited

/-! ### Engines -/

/-- How far an engine item has come. -/
inductive ItemSt where
  /-- queued at its engine, its block not yet read (R139). -/
  | queued
  /-- accepted; waits for WT (R278). -/
  | accepted
  | running
  /-- its bytes are written and it waits for its follow-on MWL (R282). -/
  | mwl
  /-- an access reached an absent page; waits for the answer (R383). -/
  | faulted (fid : Nat)
  deriving DecidableEq, Repr, Inhabited

/-- An engine item (R276). -/
structure Item where
  id : Nat := 0
  /-- fn of Table 9.7. -/
  fn : Nat := 0
  /-- The engine: 0 to 4 for CE0 to CE4 of the column, 8 for the stack's stream engine, 9 Firefly, 10 Scarab,
  11 NVMe host, 12 collective unit. -/
  engine : Nat := 0
  core : CoreId := 0
  ctx : Slot := 0
  task : Nat := 0
  pc : VAddr := 0
  st : ItemSt := .queued
  /-- The block's first byte: a memory key. -/
  blockKey : Nat := 0
  /-- The block's address for a record (Table 15.7). -/
  blockAddr : X64 := 0
  /-- The block as read at acceptance (R139). -/
  block : BitVec 1024 := 0
  /-- Unfrozen cycles since its wait began (R278). -/
  waited : Nat := 0
  /-- Pages whose translations it holds: base virtual address and bytes (R383, R387). -/
  pages : List (Nat × Nat) := []
  /-- The word of its command, for a record's DETAIL (Table 15.7). -/
  word : IWord := 0
  /-- Remote accesses: 0 none sent, 1 the source loads, 2 the destination stores (R420). -/
  phase : Nat := 0
  /-- Answers to source loads, by their number among the item's remote pieces. -/
  got : List (Nat × BitVec 512) := []
  /-- Remote stores, or a CRED's messages, that are not yet sent: owner node, owner address, bytes, virtual address, and whether the bytes
  are poisoned (R283, R437). -/
  todo : List (Node × Nat × List Byte × X64 × Bool) := []
  /-- The cycle in which its command issued: submissions of one cycle enter an engine in ascending core identifier (R28). -/
  at_ : Nat := 0
  /-- The 16-byte pieces of its source that it has read already: key, bytes and poison (R118, R136). -/
  took : List (Nat × List (Byte × Bool)) := []
  /-- The 16-byte pieces of its destination that it has written already: offset in the destination, line, and whether as poisoned
  (R83, R118, R136). -/
  wrote : List (Nat × Nat × Bool) := []
  /-- All of its bytes are moved, this many in its destination, and its completion actions are left (R278). -/
  moved : Option Nat := none
  /-- Its port was contained while commands of it were outstanding: they are aborted (R333, R460). -/
  aborted : Bool := false
  /-- The parts of BUF that a storage item has resolved at its acceptance: key, bytes, and whether they are logged (R332). -/
  parts : List (Nat × Nat × Bool) := []
  /-- A CRED's contribution as it was read, with its poison (R448). -/
  kept : List (Byte × Bool) := []
  /-- The contributions of the other ranks, once they have reached a CRED, with the elements to which one of them contributed from a
poisoned line (R448, R449). -/
  heard : Option (List (List (BitVec 32)) × List Nat) := none
  /-- Rank 0's reference has reached a CRED, and its block agrees (R448). -/
  refOk : Bool := false
  deriving DecidableEq, Repr, Inhabited

/-- A steer delivery that has not landed (R193). -/
structure Delivery where
  core : CoreId
  stream : Stream
  j : Nat
  target : VAddr
  deriving DecidableEq, Repr, Inhabited

/-! ### Tasks, queues, kernels -/

/-- A task card, by its fields (Table 11.6). -/
structure Card where
  kernel : BitVec 16 := 0
  shape : BitVec 8 := 0
  prio : BitVec 8 := 0
  wkind : BitVec 8 := 0
  frame : X64 := 0
  affinity : X64 := 0
  arg0 : X64 := 0
  arg1 : X64 := 0
  exitctr : X64 := 0
  waddr : Vector X64 4 := Vector.replicate 4 0
  wvalue : Vector X64 4 := Vector.replicate 4 0
  deriving DecidableEq, Repr, Inhabited

/-- A registered wait condition: the key of its object, its kind (1 barrier, 2 counter), its value, and whether it
holds by the last notification (R319, R320, R371). -/
structure WaitOn where
  key : Nat
  kind : Nat
  value : X64
  holds : Bool
  /-- Outstanding notifications of the object that were sent before the registration (R371). -/
  skip : Nat := 0
  deriving DecidableEq, Repr, Inhabited

/-- A saved member: the state that R296 saves. Each list pairs a register number with its saved value. -/
structure SavedMember where
  pcs : Vector VAddr 4 := Vector.replicate 4 0
  x : List (Nat × X64) := []
  /-- Its live handles: the address, or none for one that is NONE. -/
  h : List (Nat × Option VAddr) := []
  aL : List (Nat × PlaceAddr) := []
  aS : List (Nat × PlaceAddr) := []
  rows : List (Nat × Row) := []
  preds : List (Nat × PredBits) := []
  toks : List (Nat × List X64) := []
  js : Vector (Vector Steer 12) 4 := Vector.replicate 4 (Vector.replicate 12 {})
  lps : Vector (Vector (Option Level) 4) 4 := Vector.replicate 4 (Vector.replicate 4 none)
  scales : List (BitVec 512) := []
  marks : Vector Int 16 := Vector.replicate 16 0
  vt : BitVec 32 := 0x11
  vrot : BitVec 4 := 0
  prot : BitVec 2 := 0
  vstat : BitVec 5 := 0
  fmtA : BitVec 5 := 0x0F
  fmtB : BitVec 5 := 0x0F
  shst : BitVec 2 := 0
  bscv : Bool := false
  act : BitVec 5 × Option X64 := (0x0F, none)
  sh : BitVec 5 × Option X64 := (0x0F, none)
  sb : BitVec 4096 := BitVec.allOnes 4096
  /-- Live L0 extents: offset and bytes (R296). -/
  l0 : List (Nat × List Byte) := []
  ended : Bool := false
  /-- Streams that have stopped (R214). -/
  stopped : Vector Bool 4 := Vector.replicate 4 false
  /-- Lines of the live L0 extents that were poisoned, by their number in L0. -/
  l0bad : List Nat := []
  /-- Remote loads, atomics and stores that the save records as outstanding (R440). -/
  cReads : List Read := []
  cStores : List Store := []
  rels : List (BitVec 3 × Nat) := []
  deriving DecidableEq, Repr, Inhabited

/-- A saved task (R408, Table 15.8). -/
structure Saved where
  safe : Nat := 0
  members : List SavedMember := []
  /-- Physical address of its record, when it has one in the save area (R409). -/
  recPa : Option Nat := none
  /-- The origin it was saved from. -/
  origin : CoreId := 0
  /-- The task's cancelled copies, to be replayed in full from their commands (R146), and its items whose remote
  operations the save records as outstanding (R440). -/
  copies : List Item := []
  /-- L0 outside the saved extents keeps its values at the restore: the issuer of a checkpoint that a rollback restores (R416). -/
  keepL0 : Bool := false
  deriving DecidableEq, Repr, Inhabited

/-- Where an accepted task stands. -/
inductive TaskSt where
  | waiting
  | ready
  | running
  | saving
  | saved
  deriving DecidableEq, Repr, Inhabited

/-- A cause that holds the group's stall wire (Table 12.3). -/
inductive Freeze where
  | walk (id : Nat)
  | pageFault (fid : Nat)
  | retry (core : CoreId)
  | trap (n : Nat)
  | context
  deriving DecidableEq, Repr, Inhabited

/-- Why a save of the task is asked for (R408). -/
inductive SaveFor where
  | ctxsave | scan (core : CoreId) | yield | ckpt (core : CoreId)
  /-- a YIELD for which the check has found a task that needs the cores (R344). -/
  | yielded
  deriving DecidableEq, Repr, Inhabited

/-- An accepted task (R317, R320). -/
structure Task where
  card : Card := {}
  ctx : Slot := 0
  queue : Nat := 0
  /-- Ring index, or replay count and node (Table 15.6). -/
  cardNo : BitVec 32 := 0
  /-- Replay count for x7 (R321). -/
  replay : BitVec 32 := 0
  /-- Acceptance instant (R317); tasks of one instant are ordered by their numbers (R346). -/
  age : Nat := 0
  waits : List WaitOn := []
  st : TaskSt := .waiting
  /-- The instant at which it became ready (R351). -/
  readyAt : Nat := 0
  aged : Bool := false
  /-- Home stack and, when it has one, home column (R345). -/
  home : Nat := 0
  homeCol : Option CoreId := none
  /-- Origin of the group, or of the saved group it is bound to (R335, R348). -/
  origin : CoreId := 0
  bound : Bool := false
  /-- The code-store copy it runs (R307). -/
  copy : Nat := 0
  /-- The cycle of its first instruction (R336). -/
  start : Nat := 0
  /-- GSC (Table 12.2). -/
  gsc : X64 := 0
  /-- Causes that hold the stall wire, and the cycle in which the freeze began (R340). -/
  frozen : List Freeze := []
  freezeAt : Nat := 0
  /-- The cycle in which its last cause ended (R340). -/
  thawAt : Nat := 0
  /-- The group is frozen until the wire is released (R340). -/
  wire : Bool := false
  saves : List SaveFor := []
  /-- The safe point of the rendezvous in progress, and its unfrozen cycles (R408). -/
  rendezvous : Option (Nat × Nat) := none
  /-- Package time at which the drain of its save began (R440). -/
  drainAt : Nat := 0
  saved : Option Saved := none
  /-- A handler task: the slot and record it answers (R207, R406). -/
  handler : Option (Slot × Nat) := none
  deriving DecidableEq, Repr, Inhabited

/-- The states of a queue (Table 11.1). -/
inductive QState where
  | disabled | enabled | draining | halted | faulted
  deriving DecidableEq, Repr, Inhabited

/-- A replay kick that a queue holds (R328). -/
structure Replay where
  /-- Order in which its kick reached the hub (R329). -/
  no : Nat := 0
  slot : BitVec 13 := 0
  ptab : Nat := 0
  /-- Tail kicks recorded while it waits come after it (R329). -/
  tailAfter : Option (BitVec 32) := none
  deriving DecidableEq, Repr, Inhabited

/-- A work queue in the hub's state cache (Table 11.1). -/
structure Queue where
  st : QState := .disabled
  fault : BitVec 8 := 0
  fidx : BitVec 32 := 0
  ring : VAddr := 0
  order : Nat := 4
  ctx : Slot := 0
  head : BitVec 32 := 0
  tail : BitVec 32 := 0
  /-- Held replay kicks, oldest first (R313, R328). -/
  replays : List Replay := []
  /-- DRAINING by DISABLE: no further card is accepted (R313). -/
  closed : Bool := false
  /-- The fault leaves a card or a replay still to be read (R313). -/
  rereads : Bool := false
  deriving DecidableEq, Repr, Inhabited

/-- A section of a kernel: its offset in the image and its words (R294). -/
structure Section where
  off : Nat := 0
  words : List IWord := []
  deriving DecidableEq, Repr, Inhabited

/-- A safe-point entry: its 128 bytes as a number (Table 10.2). -/
abbrev SafeEntry := BitVec 1024

/-- A copy of a kernel in the code store (R304). -/
structure Copy where
  kernel : BitVec 16 := 0
  image : VAddr := 0
  owner : Slot := 0
  flags : BitVec 16 := 0
  /-- C, L, A, S; no word for an absent stream. -/
  secs : Vector Section 4 := Vector.replicate 4 {}
  safe : List SafeEntry := []
  /-- Patch points: stream, word, position, width (R298). -/
  patches : List (Nat × Nat × Nat × Nat) := []
  /-- Freed when evicted and no task runs it (R306). -/
  evicted : Bool := false
  /-- Words that a stack still holds during a REFRESH: stack, stream, index and old word (R305). -/
  held : List ((Nat × Nat × Nat) × IWord) := []
  deriving DecidableEq, Repr, Inhabited

/-- A kernel as the hub knows it (Table 10.3): STATE, STATUS, SEQ, OWNER at its load, and its copy. -/
structure Kernel where
  st : BitVec 8 := 0
  status : BitVec 8 := 0
  seq : BitVec 32 := 0
  owner : Slot := 0
  copy : Nat := 0
  deriving DecidableEq, Repr, Inhabited

/-- A KINV that the hub has accepted: the issuer and the descriptor's snapshot (R302, R307). -/
structure KinvReq where
  core : CoreId
  id : BitVec 16
  desc : BitVec 512
  /-- The task that issued it, while it is there, and the cycle in which it was accepted (R302, R307). -/
  task : Option Nat := none
  at_ : Nat := 0
  /-- Its REFRESH has read the patch fields and writes them stack by stack (R305). -/
  begun : Bool := false
  deriving DecidableEq, Repr, Inhabited

/-- A loaded graph slot (R327). -/
structure Graph where
  loaded : Bool := false
  owner : Slot := 0
  status : BitVec 8 := 0
  replays : BitVec 32 := 0
  nodes : List (BitVec 1024) := []
  /-- Counter address, step and base (R328). -/
  ctrs : List (X64 × X64 × X64) := []
  /-- Patch points: node, offset, width (Table 10.7). -/
  patches : List (Nat × Nat × Nat) := []
  /-- UNLOAD waits for the slot's held replays (R327). -/
  unloading : Bool := false
  deriving DecidableEq, Repr, Inhabited

/-! ### Pages -/

/-- A cached translation of one stack (R376). -/
structure Cached where
  stack : Nat
  slot : Slot
  /-- First byte of the page. -/
  page : Nat
  tr : Trans
  deriving DecidableEq, Repr, Inhabited

/-- A walk in flight for a handle (R379 to R381). -/
structure Walk where
  id : Nat
  core : CoreId
  slot : Slot
  va : VAddr
  handle : BitVec 5
  overlapped : Bool := false
  /-- The use of a STALE handle that it retranslates: the KIND and the address of a fault (R381, R384). -/
  use : Option (BitVec 8 × X64) := none
  deriving DecidableEq, Repr, Inhabited

/-- What met an absent page (R384). -/
inductive Faulter where
  | handle (h : BitVec 5)
  | object
  | fetch (st : Stream)
  | item (id : Nat)
  deriving DecidableEq, Repr, Inhabited

/-- An unanswered page fault (Table 14.6). -/
structure PFault where
  fid : Nat
  rid : Nat := 0
  va : X64
  /-- The address of the access, for the record of PAGE_ABSENT (R381, R385). -/
  acc : X64
  ctx : Slot
  kind : BitVec 8
  core : CoreId
  task : Nat
  who : Faulter
  deriving DecidableEq, Repr, Inhabited

/-- The states of a pool slot (Table 14.8). -/
inductive PState where
  | empty | filling | resident | draining | poisoned
  deriving DecidableEq, Repr, Inhabited

/-- A pool slot (Tables 14.8 and 14.9). -/
structure PoolSlot where
  st : PState := .empty
  dirty : Bool := false
  age : BitVec 8 := 0
  pinned : Bool := false
  pa : Nat := 0
  back : Nat := 0
  repl : Nat := 0
  /-- A deferred eviction (R392). -/
  evict : Bool := false
  /-- The first move-up that waits for the drain: its context, core and address (R392, R397). -/
  moveup : Option (Slot × CoreId × VAddr) := none
  /-- A replica refetch of a POISONED slot is in progress (R393). -/
  refetch : Bool := false
  /-- Counters to add to when the fill ends: key, object address, context, core, pc (R397). -/
  ctrs : List (Nat × X64 × Slot × CoreId × VAddr) := []
  deriving DecidableEq, Repr, Inhabited

/-! ### Contexts -/

/-- The states of a context (Table 15.3). -/
inductive CState where
  | destroyed | created | loaded | running | saving | saved | frozen | rollingBack | dead
  deriving DecidableEq, Repr, Inhabited

/-- The descriptor as the hub last read it (Table 15.1). -/
structure Desc where
  colmask : BitVec 1024 := 0
  layers : BitVec 8 := 0
  plog : BitVec 8 := 0
  priv : BitVec 8 := 0
  sigpol : BitVec 8 := 0
  stalllim : BitVec 32 := 0
  ext : Vector (BitVec 64) 5 := Vector.replicate 5 0
  slotmap : X64 := 0x3721862195218421
  root : X64 := 0
  tqbase : X64 := 0
  tqorder : BitVec 8 := 0
  drainlim : BitVec 32 := 0
  tqctr : X64 := 0
  savebase : X64 := 0
  savesize : X64 := 0
  ckbase : X64 := 0
  cksize : X64 := 0
  logbase : X64 := 0
  logsize : X64 := 0
  hcard : X64 := 0
  hrec : X64 := 0
  node : BitVec 32 := 0
  win : Vector (BitVec 256) 4 := Vector.replicate 4 0
  deriving DecidableEq, Repr, Inhabited

/-- A trap record (Table 15.6), less its RID. -/
structure TrapRec where
  cause : BitVec 8 := 0
  stream : BitVec 2 := 0
  nr : Bool := false
  async : Bool := false
  pending : Option VAddr := none
  core : CoreId := 0
  nocore : Bool := false
  tpc : VAddr := 0
  addr : X64 := 0
  detail : X64 := 0
  queue : BitVec 18 := 0
  card : BitVec 32 := 0
  deriving DecidableEq, Repr, Inhabited

/-- A record in the trap queue or held before it (R405): a trap record, or the number of a page fault. -/
inductive TqItem where
  | trap (r : TrapRec)
  | fault (fid : Nat)
  deriving DecidableEq, Repr, Inhabited

/-- An event that waits to be posted: its record and the core and stream that must drain first (R210, R231, R405). -/
structure Held where
  item : TqItem
  /-- The frozen task and the number of its freeze cause. -/
  task : Option (Nat × Nat) := none
  wait : Option (CoreId × Stream) := none
  deriving DecidableEq, Repr, Inhabited

/-- A posted record that is not answered (R405). -/
structure Posted where
  rid : Nat
  item : TqItem
  task : Option (Nat × Nat) := none
  deriving DecidableEq, Repr, Inhabited

/-- The states of a session (Table 16.4). -/
inductive SState where
  | closed | opening | opened | closing | lost
  deriving DecidableEq, Repr, Inhabited

/-- Who waits for the answer of a remote operation. -/
inductive RemWho where
  /-- an outstanding read or atomic of the C-stream, by its number. -/
  | read (core : CoreId) (no : Nat)
  /-- a store of the C-stream's store buffer, by its number. -/
  | store (core : CoreId) (no : Nat)
  /-- an engine item's load or store, with its number among the item's remote pieces. -/
  | item (id part : Nat)
  | gang (id : Nat) (rank : Nat)
  /-- nobody: its issuer has been stopped by a rollback (R442). -/
  | gone
  deriving DecidableEq, Repr, Inhabited

/-- A remote operation that is outstanding (Table 16.4, R432). -/
structure Outs where
  isLoad : Bool := false
  /-- Serial of a mutating operation, or tag of a load. -/
  serial : BitVec 32 := 0
  req : Request := {}
  tries : Nat := 1
  /-- Package time of the last try, and of the first BUSY of a run (R432). -/
  sentAt : Nat := 0
  busyAt : Option Nat := none
  interval : Nat := 0
  who : RemWho
  va : X64 := 0
  pc : VAddr := 0
  /-- The core of its issuer, for the waits that cover it (R433, R438). -/
  core : CoreId := 0
  /-- RTO at the last try, in network cycles (R418). -/
  rto : Nat := 0
  /-- The saved task whose record holds it as outstanding: its tries stop and its answers are discarded (R440). -/
  saved : Option Nat := none
  /-- The task that it is sent again for, before any of its streams issues: its answer waits for the task's start (R441). -/
  hold : Option Nat := none
  deriving DecidableEq, Repr, Inhabited

/-- An answered or settled serial that is not retirable (Table 16.4), with what an in-doubt entry would say of it. -/
structure Withheld where
  serial : BitVec 32
  interval : Nat
  op : BitVec 8
  pa : BitVec 64
  deriving DecidableEq, Repr, Inhabited

/-- What an operation of a saved task has come to, while the task waits to start again (R441). -/
inductive Mail where
  | answer (o : Outs) (a : Answer) (data : BitVec 512)
  | failed (o : Outs) (cause : BitVec 8) (detail : X64)
  deriving DecidableEq, Repr, Inhabited

/-- An OPEN, CLOSE or LSYNC watermark that is under way: its tries, the network cycle of the last one and RTO then, the number that
its acknowledgement carries, its answer. -/
structure LinkTry where
  tries : Nat := 1
  at_ : Nat := 0
  rto : Nat := 0
  tag : BitVec 32 := 0
  answer : Option Answer := none
  deriving DecidableEq, Repr, Inhabited

/-- A requester session (Table 16.4). -/
structure Session where
  st : SState := .closed
  nonce : X64 := 0
  next : BitVec 32 := 0
  w : BitVec 32 := 0
  outs : List Outs := []
  /-- Answered or settled serials that are not retirable. -/
  withheld : List Withheld := []
  /-- Network cycle at which a LOST session settles. -/
  settle : Nat := 0
  /-- Next load tag. -/
  tag : BitVec 32 := 0
  /-- Network cycle at which the session last sent anything (R426). -/
  lastSent : Nat := 0
  /-- The OPEN, CLOSE or watermark under way. -/
  op : Option LinkTry := none
  deriving DecidableEq, Repr, Inhabited

/-- An in-doubt entry (Table 16.8). -/
structure InDoubt where
  serial : BitVec 32
  node : Node
  reason : BitVec 4
  op : BitVec 8
  pa : BitVec 64
  deriving DecidableEq, Repr, Inhabited

/-- A checkpoint record (R411). -/
structure Ckpt where
  issuer : Nat := 0
  saved : Saved := {}
  task : Task := {}
  queues : List (Nat × Queue) := []
  tasks : List (Nat × Task) := []
  graphs : List (Nat × Graph) := []
  sessions : List (Nat × Session) := []
  deriving DecidableEq, Repr, Inhabited

/-- An entry of the undo log (R414). -/
structure LogEntry where
  interval : Nat
  /-- Line number of the logged line. -/
  line : Nat
  old : BitVec 512
  poisoned : Bool
  deriving DecidableEq, Repr, Inhabited

/-- A SeqAdd that the hub makes for a context: TQCTR, the EXITCTR of a task, or the counter of a move-up, whose record names the core
and the address of the POOLUP (R370, R397, R405). -/
structure HubAdd where
  key : Nat
  addr : X64
  who : Option (CoreId × VAddr) := none
  queue : BitVec 18 := 0
  card : BitVec 32 := 0
  /-- Its overflow makes no record. -/
  quiet : Bool := false
  deriving DecidableEq, Repr, Inhabited

/-- A context slot. -/
structure Ctx where
  st : CState := .destroyed
  desc : Desc := {}
  /-- STATUS (Table 15.5). -/
  status : BitVec 8 := 0
  /-- DBGCTL (Table 6.12). -/
  dbgctl : BitVec 1 := 0
  /-- CKFLAGS.NOROLL (R416). -/
  noroll : Bool := false
  openIv : Nat := 0
  vouched : Nat := 0
  /-- RIDs given out (R405). -/
  rids : Nat := 0
  posted : List Posted := []
  held : List Held := []
  sessions : List (Nat × Session) := []
  /-- What the operations of saved tasks, by task number, have come to (R441). -/
  mail : List (Nat × Mail) := []
  indoubt : List InDoubt := []
  /-- USED_k: interval, core, last cycle of use (R412). -/
  used : List (Nat × CoreId × Nat) := []
  /-- Closed intervals whose cores have all passed a scan are found by R412. -/
  ckpts : List (Nat × Ckpt) := []
  log : List LogEntry := []
  logUsed : Nat := 0
  /-- Bytes appended to the ring since its base was read (R414). -/
  logPos : Nat := 0
  /-- A store waits for room in the log (R415): core, stream, index. -/
  logWait : Bool := false
  /-- SeqAdds of the hub that wait for room in the log (R415). -/
  adds : List HubAdd := []
  /-- Records, by their RIDs, whose HANDLER waits for room in the pool of accepted tasks (R406). -/
  handlers : List Nat := []
  /-- A CKPT holds dispatch (R411). -/
  ckHold : Option CoreId := none
  /-- NODEID when the context was saved (R441). -/
  nodeAt : Node := 0
  deriving DecidableEq, Repr, Inhabited

/-! ### Links -/

/-- A packet in flight from this package (R419). -/
inductive Packet where
  | openReq (slot : Slot) (node : Node)
  /-- with the number that its answer carries (R427). -/
  | closeReq (slot : Slot) (node : Node) (nonce : X64) (w tag : BitVec 32)
  | request (node : Node) (r : Request) (digest : BitVec 32)
  /-- with the number that its acknowledgement carries; 0 for one that asks for none (R426, R438). -/
  | watermark (slot : Slot) (node : Node) (nonce : X64) (w : BitVec 32) (tag : BitVec 32)
  | answer (node : Node) (slot : Slot) (serial : BitVec 32) (a : Answer) (data : BitVec 512)
  deriving DecidableEq, Repr, Inhabited

/-- A session that this package holds as owner (R423, R426). -/
structure OSession where
  nonce : X64 := 0
  w : BitVec 32 := 0
  lastAt : Nat := 0
  deriving DecidableEq, Repr, Inhabited

/-- An entry of the result cache (R430). -/
structure RCache where
  node : Node
  slot : Slot
  serial : BitVec 32
  digest : BitVec 32
  answer : Answer
  data : BitVec 512 := 0
  deriving DecidableEq, Repr, Inhabited

/-- A gang that a member queue holds or watches (R446). -/
structure GangHeld where
  msg : GangMsg
  /-- the COMMIT has armed the watchdog. -/
  armed : Bool
  since : Nat
  deriving DecidableEq, Repr, Inhabited

/-- A gang that this package launches (R445). -/
structure GangOut where
  id : Nat
  gang : BitVec 32
  core : CoreId
  ctx : Slot
  /-- Keys of the descriptor and of the counter. -/
  desc : Nat
  ctr : Nat
  /-- The counter's object address, for a record. -/
  ctrAddr : X64
  pc : VAddr
  wdog : BitVec 32
  /-- Node, queue, kick value of each member. -/
  members : List (Node × BitVec 18 × X64)
  /-- Each member's answer to PREPARE, to COMMIT, and to GO or ABORT. -/
  prepared : List (Option Bool)
  committed : List (Option Bool)
  ended : List (Option Bool) := []
  /-- 0 PREPARE, 1 COMMIT, 2 GO or ABORT. -/
  phase : Nat := 0
  /-- Messages, by their ranks, that the cap of their sessions holds (R437). -/
  unsent : List (RemoteOp × Nat) := []
  deriving DecidableEq, Repr, Inhabited

/-! ### The package -/

/-- The repair state of one code group (R109 to R112). -/
structure BankGroup where
  /-- Banks marked failed and not replaced. -/
  failed : List Nat := []
  /-- Banks replaced by the spare. -/
  replaced : List Nat := []
  rebuilding : Option Nat := none
  /-- The bank whose symbols the spare holds in part: that of the rebuild in progress, or of one that was stopped (R112). -/
  spareFor : Option Nat := none
  /-- Rows whose symbol the spare holds, by writes since the rebuild began; below `walked` all rows (R110). -/
  written : List Nat := []
  walked : Nat := 0
  deriving DecidableEq, Repr, Inhabited

/-- The repair record in module flash (R17, R454): the skipped column and row of each die, the lanes steered onto spares, the banks
marked failed and those that spares replace, the retired layers (bit 4k + (layer − 1)), and the signature with key slot 1. -/
structure RepairRec where
  sites : Vector (Option (Nat × Nat)) 4 := Vector.replicate 4 none
  lanes : List Nat := []
  banks : List (Nat × BankGroup) := []
  layers : BitVec 16 := 0
  sig : BitVec 768 := 0
  deriving DecidableEq, Repr, Inhabited

/-- A reserving task and its reserved group, when a group of its shape can stand in the stack (R352). -/
structure Reserve where
  task : Nat
  origin : Option CoreId
  w : Nat
  h : Nat
  deriving DecidableEq, Repr, Inhabited

/-- The scan rotation of one stack (R356). -/
structure Scan where
  /-- The core whose turn comes next, within the stack's order. -/
  next : Nat := 0
  draining : Option CoreId := none
  /-- Unfrozen cycles of the drain. -/
  waited : Nat := 0
  scanning : Option CoreId := none
  /-- Cycle at which the last turn began, and the scan in progress. -/
  began : Nat := 0
  since : Nat := 0
  overdue : List CoreId := []
  deriving DecidableEq, Repr, Inhabited

/-- An NVMe downstream port (R330, R332, R460). -/
structure Port where
  present : Bool := false
  contained : Bool := false
  /-- Active namespaces: identifier and block size. -/
  spaces : List (BitVec 32 × Nat) := []
  deriving DecidableEq, Repr, Inhabited

/-- The firmware slots and the boot selector (R454, R456). -/
structure Firmware where
  version : BitVec 32 := 0
  security : BitVec 16 := 0
  slot : BitVec 1 := 0
  pref : BitVec 1 := 0
  trial : Option (BitVec 1) := none
  /-- For slots A and B: version, security version, and whether the slot's signature verifies (R454). -/
  images : Vector (BitVec 32 × BitVec 16 × Bool) 2 := Vector.replicate 2 (0, 0, true)
  floor : BitVec 16 := 0
  deriving DecidableEq, Repr, Inhabited

/-- A message on the host port (R461) or an SPDM response (R458). -/
inductive HostMsg where
  | correctable | nonFatal | fatal
  /-- a completion with status Unsupported Request (R453). -/
  | unsupported
  /-- data of a read, with the poison mark (R453, R459). -/
  | data (bytes : List Byte) (poison : Bool)
  /-- the completion of a write to the host-managed range (R459). -/
  | written
  /-- the class code, and the Memory_Active bit of the CXL memory range, from configuration space (R450, R453). -/
  | classCode (v : BitVec 16)
  | memoryActive (v : Bool)
  /-- an SPDM response: its code and its payload (R458). -/
  | spdm (code : BitVec 8) (payload : List Byte)
  deriving DecidableEq, Repr, Inhabited

/-- The mailbox (R466). -/
structure Mbox where
  args : BitVec 1920 := 0
  cmd : X64 := 0
  status : BitVec 8 := 0
  running : Bool := false
  deriving DecidableEq, Repr, Inhabited

/-- An access on the mesh: its core, its stream, its number there, the column that it goes to, and whether it goes to that column's
L0 (R101 to R104). -/
structure Flit where
  core : Nat
  stream : Stream
  isLoad : Bool
  no : Nat
  col : Nat
  l0 : Bool
  deriving DecidableEq, Repr, Inhabited

/-- The hub's registers and tables. -/
structure Hub where
  /-- QTBASE, GTBASE (Table 11.3), PLBASE, PLCOUNT (Table 14.7), CTBASE, FHCTX (Table 15.4), KTBASE (Table 17.1). -/
  qtbase : X64 := 0
  gtbase : X64 := 0
  plbase : X64 := 0
  plcount : BitVec 15 := 0
  ctbase : X64 := 0
  fhctx : Slot := 0
  ktbase : X64 := 0
  /-- NODEID, LNKCFG.RTO, EXPBASE, EXPCOUNT (Table 16.1). -/
  nodeid : Node := 0
  rto : BitVec 20 := 4000
  expbase : X64 := 0
  expcount : BitVec 11 := 0
  /-- SCANPER (Table 12.11). -/
  scanper : BitVec 7 := 20
  /-- AGEIV (Table 12.7). -/
  ageiv : BitVec 32 := 70000
  /-- MGMT_STATUS (Table 17.2). -/
  ready : Bool := false
  failed : Bool := false
  fatal : Bool := false
  phase : BitVec 4 := 0
  code : BitVec 8 := 0
  -- DEGR and THERM are computed from LAYERAVAIL, `scanFailed` and `temps`.
  /-- MODLIM, TELEM, BUDGET0 to BUDGET3 (Tables 17.1 and 17.4). -/
  modlim : BitVec 12 := 2400
  power : BitVec 16 := 0
  temps : Vector (BitVec 8) 4 := Vector.replicate 4 0
  inlet : BitVec 8 := 0
  budget : Vector (BitVec 24) 4 := Vector.replicate 4 0
  /-- F(k) in hundredths (R469). -/
  factor : Vector Nat 4 := Vector.replicate 4 100
  /-- POISONFWD (Table 17.6). -/
  poisonfwd : BitVec 2 := 0
  errcnt : X64 := 0
  errlog : List (Nat × BitVec 256) := []
  mbox : Mbox := {}
  fw : Firmware := {}
  keys : List (Nat × BitVec 768) := []
  /-- Host-severity setting for contained errors: true for ERR_FATAL (Table 17.7). -/
  severity : Bool := false
  msgs : List HostMsg := []
  /-- MODEL'S OWN: counts the module resets (R452). -/
  resets : Nat := 0
  /-- CXL.cache is enabled by the host (R459). -/
  cxlCache : Bool := false
  /-- HDM decoder base and size (R459). -/
  hdmBase : Nat := 0
  hdmSize : Nat := 0
  ports : Vector Port 4 := Vector.replicate 4 {}
  deriving DecidableEq, Repr, Inhabited

/-- The next thing that happens in the machine: a stream issues, or an event occurs. -/
inductive Move where
  | issue (core : CoreId) (stream : Stream)
  | event (i : Instr) (about : About)
  deriving DecidableEq, Repr, Inhabited

/-- The state of the package. -/
structure State where
  /-- Memory (Host.Cell list): tower, second tier, host memory and L0, by the keys of Machine/Mem.lean. Addresses
  rise strictly and no entry holds 0, what an unlisted byte reads as (R452 phase 6). -/
  mem : List Host.Cell := []
  /-- Poisoned lines, by key / 64, rising strictly (R83, R108). -/
  poison : List Nat := []
  /-- Lines held in write buffers, by key / 64 (R84). -/
  wbuf : List Nat := []
  /-- Soft errors that a read has corrected and not yet written back, by key / 64 (R82). -/
  soft : List Nat := []
  /-- The bytes of L0 written in this cycle, by key, with their values from before it (R79). -/
  l0Then : List Host.Cell := []
  /-- The accesses under way on the mesh, in the order of their injection (R104). -/
  mesh : List Flit := []
  /-- The stores that have reached their column, in the order of their arrival, and are not all visible yet (R103). -/
  fifo : List Flit := []
  /-- The cores, by core identifier; a core not listed is as at reset (R15). -/
  cores : List (Nat × Core) := []
  /-- Accepted tasks, by acceptance order (R317). -/
  tasks : List (Nat × Task) := []
  /-- Next task number, and next item, walk, fault and copy number. -/
  nextTask : Nat := 0
  nextId : Nat := 0
  queues : List (Nat × Queue) := []
  kernels : List (Nat × Kernel) := []
  copies : List (Nat × Copy) := []
  kinvs : List KinvReq := []
  /-- MODEL'S OWN: the cycle of the last kick, and who gave it: 0 the host port, else the core's number and 1 (R316). -/
  kickAt : Nat × Nat := (0, 0)
  graphs : List (Nat × Graph) := []
  items : List Item := []
  /-- Destinations of cancelled copies: item number, key and bytes; they are indeterminate until the replay ends (R146). -/
  blurred : List (Nat × Nat × Nat) := []
  deliveries : List Delivery := []
  /-- Notifications that the hub has not applied: object key and value (R371). -/
  notes : List (Nat × X64) := []
  tlb : List Cached := []
  walks : List Walk := []
  faults : List PFault := []
  pool : List (Nat × PoolSlot) := []
  /-- The 100 µs of package time by which the ages of the pool have advanced (R396). -/
  poolAges : Nat := 0
  /-- The periods of 1 ms for which the budgets have been written (R469). -/
  periods : Nat := 0
  ctxs : List (Nat × Ctx) := []
  net : List Packet := []
  osessions : List ((Nat × Nat) × OSession) := []
  rcache : List RCache := []
  gangs : List GangHeld := []
  gangOuts : List GangOut := []
  hub : Hub := {}
  /-- KX and KY of each die (R14). -/
  kx : Vector (BitVec 5) 4 := Vector.replicate 4 16
  ky : Vector (BitVec 5) 4 := Vector.replicate 4 16
  /-- LAYERAVAIL (Table 3.10). -/
  layeravail : BitVec 16 := 0xFFFF
  /-- Layers RETIRING: bit 4k + (layer − 1) (Table 3.9). -/
  retiring : BitVec 16 := 0
  banks : List (Nat × BankGroup) := []
  /-- Segments and groups whose spare lane is in use: core·128 + segment·32 + group (R98). -/
  spares : List Nat := []
  /-- Parity errors counted against a lane, by its segment and group, with the package time of each (R97, R98). -/
  laneErrs : List (Nat × Nat) := []
  /-- The repair record in flash (R17, R454). -/
  repairs : RepairRec := {}
  /-- Cores out of dispatch, cores to be removed when their task ends, and cores that failed a scan (R355). -/
  out : List CoreId := []
  outWhenIdle : List (CoreId × Nat) := []
  scanFailed : List CoreId := []
  /-- Last cycle at which a scan of the core began and passed (R412). -/
  scanned : List (Nat × Nat) := []
  reserve : Vector (Option Reserve) 4 := Vector.replicate 4 none
  scans : Vector Scan 4 := Vector.replicate 4 {}
  /-- The next home stack for a task without a home (R345). -/
  homeTurn : BitVec 2 := 0
  /-- Package time in cycles of the core clock since bring-up ended (R87). -/
  cycle : Nat := 0
  /-- MODEL'S OWN: the cycle of the last decision round (R347). -/
  roundAt : Option Nat := none
  /-- MODEL'S OWN: the moves to come; when it is empty, the machine's arbiter chooses (Config.arbiter). -/
  agenda : List Move := []
  /-- MODEL'S OWN: what the move being carried out is about. -/
  about : About := {}
  /-- MODEL'S OWN: the word being executed, for a record's DETAIL (Table 15.7). -/
  word : IWord := 0
  /-- MODEL'S OWN: counts the free values taken so far. -/
  fresh : Nat := 0
  deriving DecidableEq, Repr, Inhabited

/-- The machine at module reset, before bring-up: every register at its At reset value, every context slot
DESTROYED, every session and result-cache entry lost, memory with nothing listed (R8, R439, R452).
(DESIGN CHOICE: log entry 7.) -/
def State.reset : State := {}

end Sys2Proof.Machine
end

