-- ==== Sys2Proof/Config.lean ====
section
/-! DEFINITION. What the spec leaves to an implementation or leaves open, as constants without a body: no proof can
see a value of them. Each is named in an entry of notes/assumptions/. -/

namespace Sys2Proof.Config

open Sys2Proof.Machine

/-- The move that the machine makes when its agenda is empty: which stream issues next, or which event occurs, is
not fixed by the spec (R94, R119, R192, R302). The argument counts the choices.
(DESIGN CHOICE: log entry 1.) -/
opaque arbiter : Nat → Move

/-- An indeterminate value (R10): the `n`-th one that the machine takes, cut to the width of its place.
(DESIGN CHOICE: log entry 5.) -/
opaque freeNat : Nat → Nat

/-- 64 random bits of the security processor for the nonce of a new session, before 0 is excluded (R426).
(DESIGN CHOICE: log entry 82.) -/
opaque nonceBits : Nat → X64

/-- A function of Firefly at a rational input whose correctly rounded result this model's interval arithmetic does not
determine (R288): function number, input bits, output format, shift. -/
opaque fireflyFree : Nat → Nat → Nat → Nat → Nat

/-- The physical site of a self-tested core passes (R14, R452 phase 4): stack, physical column, physical row, count of
resets. -/
opaque sitePasses : Nat → Nat → Nat → Nat → Bool

/-- A step of bring-up succeeds (Table 17.3): the code of its failure, count of resets. -/
opaque phasePasses : Nat → Nat → Bool

/-- The boot selector's signature verifies (R456): count of resets. -/
opaque selectorOk : Nat → Bool

/-- The bytes of a repair record that its signature is made over (R17, R457). -/
opaque recordBytes : RepairRec → List Byte

/-- Self-test finds nothing in a layer that repair cannot mend, beside the lanes and banks it names (R113, R114; Table 17.3, phase 4):
stack, layer, count of resets. -/
opaque layerPasses : Nat → Nat → Nat → Bool

/-- The lanes, by segment and group, and the banks, by code group, that self-test finds failing (R17; Table 17.3, phases 3 and 4): count
of resets. -/
opaque lanesFound : Nat → List Nat
opaque banksFound : Nat → List (Nat × Nat)

/-- An image whose signature verifies under key slot 0 and whose length is within its slot (R454): its version and its
security version. -/
opaque firmware : List Byte → Option (BitVec 32 × BitVec 16)

/-- A measurement that changes only at module reset (R458): index, count of resets. -/
opaque measurement : Nat → Nat → BitVec 384

/-- SHA-384 of key slots 8 to 63 in slot order (R458).
(DESIGN CHOICE: log entry 96.) -/
opaque keyDigest : List (Nat × BitVec 768) → BitVec 384

/-- Bytes of hub storage for the images of graph slots beside one image at the limits of Table 10.7, which always fits (R327).
(DEDUCED: log entry 51.) -/
opaque graphStore : Nat

/-- A drive as the hub enumerates it (R330, R460): its port and the count of the enumeration.
(DESIGN CHOICE: log entry 98.) -/
opaque drive : Nat → Nat → Port

/-- The device certificate chain, by its bytes (R457). -/
opaque certificate : Nat → Byte

/-- The private key of key slot 1, as a number, and the secret number of a signature, by the count of the signature (R455, R457). -/
opaque deviceKey : Nat
opaque signSecret : Nat → Nat

/-- The fields of an SPDM response that the spec does not state (R458): response code, number of the byte. -/
opaque spdmByte : Nat → Nat → Byte

end Sys2Proof.Config
end

