-- ==== Sys2Proof/Machine/Mem.lean ====
section
/-! DEFINITION. Tables and memory: sorted association lists, the keys by which places, the second tier, the tower and
host memory are numbered (R71, R105, R117), reads and writes of bytes, poisoned lines (R83). -/

namespace Sys2Proof.Machine

/-! ### Tables -/

/-- The value a table lists for `k`. -/
def look {α : Type} (k : Nat) : List (Nat × α) → Option α
  | [] => none
  | (i, v) :: t => if i = k then some v else look k t

/-- `l` with `v` listed for `k`; ascending numbers stay ascending. -/
def put {α : Type} (k : Nat) (v : α) : List (Nat × α) → List (Nat × α)
  | [] => [(k, v)]
  | (i, u) :: t => if k < i then (k, v) :: (i, u) :: t else if k = i then (k, v) :: t else (i, u) :: put k v t

/-- `l` without an entry for `k`. -/
def drop {α : Type} (k : Nat) (l : List (Nat × α)) : List (Nat × α) := l.filter fun e => e.1 != k

/-- A set of numbers in ascending order, with `k`. -/
def setIns (k : Nat) : List Nat → List Nat
  | [] => [k]
  | i :: t => if k < i then k :: i :: t else if k = i then i :: t else i :: setIns k t

/-! ### Bytes -/

/-- What a byte that nothing has written reads as (R452 phase 6; for host memory, a choice of the model).
(DESIGN CHOICE: log entry 9.) -/
def blank : Byte := 0

/-- The byte at a key. -/
def rdByte (m : List Host.Cell) (k : Nat) : Byte := (look k m).getD blank

/-- Writing one byte: an entry that holds what an unlisted byte reads as is not listed. -/
def wrByte (k : Nat) (b : Byte) : List Host.Cell → List Host.Cell
  | [] => if b = blank then [] else [(k, b)]
  | (i, u) :: t =>
    if k < i then (if b = blank then (i, u) :: t else (k, b) :: (i, u) :: t)
    else if k = i then (if b = blank then t else (k, b) :: t)
    else (i, u) :: wrByte k b t

/-- Bytes from a key upward. -/
def rdBytes (m : List Host.Cell) (k : Nat) : Nat → List Byte
  | 0 => []
  | n + 1 => rdByte m k :: rdBytes m (k + 1) n

/-- `n` bytes from a key as a little-endian number (R1). -/
def rdNat (m : List Host.Cell) (k : Nat) : Nat → Nat
  | 0 => 0
  | n + 1 => (rdByte m k).toNat + 256 * rdNat m (k + 1) n

/-- Bytes written from a key upward. -/
def wrBytes (m : List Host.Cell) (k : Nat) : List Byte → List Host.Cell
  | [] => m
  | b :: t => wrBytes (wrByte k b m) (k + 1) t

/-- The `n` low bytes of a number, the lowest first (R1). -/
def natBytes (v : Nat) : Nat → List Byte
  | 0 => []
  | n + 1 => BitVec.ofNat 8 v :: natBytes (v / 256) n

/-- The number that bytes make, the first one lowest (R1). -/
def bytesNat : List Byte → Nat
  | [] => 0
  | b :: t => b.toNat + 256 * bytesNat t

/-- Memory with the bytes of keys `lo ≤ k < hi` reading 0. -/
def zeroRange (m : List Host.Cell) (lo hi : Nat) : List Host.Cell :=
  m.filter fun e => !(decide (lo ≤ e.1) && decide (e.1 < hi))

/-- Memory with the `n` bytes from `dst` equal to those that `m` holds from `src`. -/
def copyRange (m : List Host.Cell) (src dst n : Nat) : List Host.Cell :=
  (m.filter fun e => decide (src ≤ e.1) && decide (e.1 < src + n)).foldl (fun a e => wrByte (e.1 - src + dst) e.2 a)
    (zeroRange m dst (dst + n))

/-- The canonical form of a memory: keys rise strictly, all from `lo` on, and no entry reads as an unlisted byte. -/
def Memory.wfFrom (lo : Nat) : List Host.Cell → Bool
  | [] => true
  | (i, b) :: t => decide (lo ≤ i) && b != blank && Memory.wfFrom (i + 1) t

/-- The canonical form of a memory. -/
def Memory.wf (m : List Host.Cell) : Bool := Memory.wfFrom 0 m

/-! ### Keys -/

/-- Key of byte `o` of a core's L0, which has no physical address (R105).
(DESIGN CHOICE: log entry 99.) -/
def keyL0 (core o : Nat) : Nat := 2 ^ 52 + core * 0x80000 + o

/-- Physical address, and key, of byte `o` of layer T`k` of a column (Table 3.8). -/
def keyTower (k core o : Nat) : Nat := 0x1000000000000 + (k - 1) * 0x18000000 + core * 0x60000 + o

/-- Key of byte `o` of level `lv` (0 for L0) of a column. -/
def keyPlace (lv core o : Nat) : Nat := if lv = 0 then keyL0 core o else keyTower lv core o

/-- The regions of the physical map (Table 3.8). -/
inductive Region where
  | second (stack : Nat)
  | tower (layer core off : Nat)
  | hub
  | host
  | unmapped
  deriving DecidableEq, Repr

/-- Where a physical address lies (Table 3.8). -/
def regionOf (pa : Nat) : Region :=
  if pa < 0x14000000000 then .second (pa / 0x5000000000)
  else if pa < 0x1000000000000 then .unmapped
  else if pa < 0x1000060000000 then
    let o := pa - 0x1000000000000
    let r := o % 0x18000000
    .tower (o / 0x18000000 + 1) (r / 0x60000) (r % 0x60000)
  else if pa < 0x2000000000000 then .unmapped
  else if pa < 0x2000100000000 then .hub
  else if pa < 0x8000000000000 then .unmapped
  else .host

/-- The stack of a column: 2·⌊y/16⌋ + ⌊x/16⌋ (R13). -/
def stackOf (core : Nat) : Nat := 2 * (core / 512) + (core % 32) / 16

/-- Layer T`k` is in the address map of a stack (Table 3.10). -/
def layerIn (avail : BitVec 16) (stack k : Nat) : Bool := avail.getLsbD (4 * stack + (k - 1))

/-- A key is one of L0, of the tower, or of the second tier, whose lines have poison (R83, R108). -/
def inPackage (key : Nat) : Bool := decide (key < 0x1000060000000) || decide (2 ^ 52 ≤ key)

/-- The bank and the bank word of a byte of L0 (R76): L0Bank of its offset. -/
def l0Bank (a : Nat) : Nat × Nat :=
  let w := a / 8
  let i := w / 64 % 64
  ((i + w % 64) % 64, 64 * (w / 4096) + i)

/-- The channel of a stack and the channel offset of an offset of its part of the second tier (R106). -/
def channelOf (o : Nat) : Nat × Nat := (o / 4096 % 20, o / 4096 / 20 * 4096 + o % 4096)

/-- Column and level of a key of a place: level 0 for L0. -/
def placeOfKey (key : Nat) : Option (Nat × Nat × Nat) :=
  if 2 ^ 52 ≤ key then some (0, (key - 2 ^ 52) / 0x80000, (key - 2 ^ 52) % 0x80000)
  else match regionOf key with
    | .tower k c o => some (k, c, o)
    | _ => none

/-! ### Code groups (R80, R81) -/

/-- Code groups of a layer. -/
def groupsOf (layer : Nat) : Nat := if layer ≤ 2 then 2 else 1

/-- Rows of a code group of a layer. -/
def rowsOf (layer : Nat) : Nat := if layer ≤ 2 then 3072 else 6144

/-- Number of a code group in the table `banks`. -/
def groupKey (core layer g : Nat) : Nat := (core * 4 + (layer - 1)) * 2 + g

/-- The line, by key / 64, at a row of a code group. -/
def rowLine (core layer g row : Nat) : Nat := keyTower layer core 0 / 64 + (if layer ≤ 2 then 2 * row + g else row)

/-- Code group and row of a line of the tower. -/
def lineGroup (line : Nat) : Option (Nat × Nat) :=
  match regionOf (64 * line) with
  | .tower layer core off =>
    let l := off / 64
    if layer ≤ 2 then some (groupKey core layer (l % 2), l / 2) else some (groupKey core layer 0, l)
  | _ => none

def State.bank (s : State) (g : Nat) : BankGroup := (look g s.banks).getD {}

def State.setBank (s : State) (g : Nat) (b : BankGroup) : State := { s with banks := put g b s.banks }

/-- The spare holds a valid symbol of a row (R110). -/
def BankGroup.holds (b : BankGroup) (row : Nat) : Bool := decide (row < b.walked) || b.written.contains row

/-- The banks whose symbols of a row are erasures: those marked failed and not replaced, less the one whose symbol of the row the spare
holds (R109 to R112). -/
def BankGroup.erased (b : BankGroup) (row : Nat) : List Nat :=
  b.failed.filter fun i => !(b.spareFor == some i && b.holds row)

/-- The group has two banks marked failed and not replaced (R112). -/
def BankGroup.lost (b : BankGroup) : Bool := decide (2 ≤ b.failed.length)

/-- A line of the tower lies at a row at which two symbols of a codeword are erasures: every read of it is poisoned (R112). -/
def State.lineLost (s : State) (line : Nat) : Bool :=
  match lineGroup line with
  | some (g, row) => decide (2 ≤ ((s.bank g).erased row).length)
  | none => false

/-- A write reaches a row of the tower: while a rebuild runs, the spare then holds its symbol (R110). -/
def markWritten (banks : List (Nat × BankGroup)) (line : Nat) : List (Nat × BankGroup) :=
  match lineGroup line with
  | some (g, row) => match look g banks with
    | some b => if b.rebuilding.isSome then put g { b with written := setIns row b.written } banks else banks
    | none => banks
  | none => banks

/-- Writes reach these rows of a group at once (R110). -/
def BankGroup.rewritten (b : BankGroup) (rows : Nat → Bool) : BankGroup :=
  if b.rebuilding.isSome then { b with written := ((List.range 6144).filter rows).foldl (fun l r => setIns r l) b.written } else b

/-- α times an element of GF(2^8) with field polynomial x^8 + x^4 + x^3 + x^2 + 1 (R81). -/
def gfAlpha (a : Byte) : Byte := if a.msb then (a <<< 1) ^^^ 0x1D else a <<< 1

/-- The check symbols P0 and P1 of a codeword with these data symbols, the first one of the highest power: the remainder of
M(x) by G(x) = x^2 + (1 + α)x + α (R81). -/
def checkSymbols (data : List Byte) : Byte × Byte :=
  data.foldl (fun (r : Byte × Byte) d =>
    let q := d ^^^ r.1
    (r.2 ^^^ q ^^^ gfAlpha q, gfAlpha q)) (0, 0)

/-- The codeword and the data bank of byte `b` of a line (R81). -/
def symbolOf (b : Nat) : Nat × Nat := (b % 4, b / 4)

/-- Codeword `c` of a line: the byte of each of the 16 data banks and of the 2 check banks (R80, R81). -/
def State.codeword (s : State) (line c : Nat) : List Byte :=
  let data := (List.range 16).map fun d => rdByte s.mem (64 * line + 4 * d + c)
  data ++ [(checkSymbols data).1, (checkSymbols data).2]

/-! ### Poison and stores -/

/-- Lines touched by `n` bytes from a key. -/
def linesOf (key n : Nat) : List Nat :=
  if n = 0 then [] else (List.range ((key + n - 1) / 64 - key / 64 + 1)).map (· + key / 64)

/-! ### Indeterminate bytes (R10, R146, R395) -/

/-- First byte of the table entry of a pool slot (R391). -/
def State.poolEntry (s : State) (n : Nat) : Nat := s.hub.plbase.toNat + 32 * n

/-- A key lies in the page of a slot that is not EMPTY. -/
def PoolSlot.covers (x : PoolSlot) (key : Nat) : Bool :=
  decide (x.pa ≤ key) && decide (key < x.pa + 0x10000) && x.st != .empty

/-- A store to a slot makes it dirty that was not (R395). -/
def PoolSlot.soils (x : PoolSlot) (key : Nat) : Bool :=
  x.covers key && !x.dirty && (x.st == .resident || x.st == .poisoned)

/-- The page of a pool slot: as the hub last read it from the slot's entry (R139, R391), or, of a slot that no request has named yet and
that is EMPTY, as the entry gives it.
(DEDUCED: log entry 118.) -/
def State.slotPage (s : State) (n : Nat) : Nat := match look n s.pool with
  | some x => x.pa
  | none => rdNat s.mem (s.poolEntry n) 8

/-- A byte that reads as an indeterminate one: in a slot of the pool that is EMPTY, FILLING or DRAINING (R395), or in the destination of a
cancelled copy (R146). -/
def State.poolHole (s : State) (key : Nat) : Bool :=
  (s.blurred.any fun e => decide (e.2.1 ≤ key) && decide (key < e.2.1 + e.2.2)) ||
  match regionOf key with
  | .tower .. => (List.range s.hub.plcount.toNat).any fun n =>
      let x : PoolSlot := (look n s.pool).getD {}
      decide (s.slotPage n ≤ key) && decide (key < s.slotPage n + 0x10000) &&
        (x.st == .filling || x.st == .draining || x.st == .empty)
  | _ => false

/-- What an indeterminate byte reads as in this step (R10). -/
def State.freeByte (s : State) (key : Nat) : Byte := BitVec.ofNat 8 (Config.freeNat s.fresh >>> (8 * key))

/-- Byte `key` as a read finds it. -/
def State.byteAt (s : State) (key : Nat) : Byte := if s.poolHole key then s.freeByte key else rdByte s.mem key

/-- The `n` bytes from `key` as a read finds them. -/
def State.bytesAt (s : State) (key n : Nat) : List Byte := (List.range n).map fun j => s.byteAt (key + j)

/-- The `n` bytes from `key` as a read finds them, as a little-endian number. -/
def State.get (s : State) (key n : Nat) : Nat := bytesNat (s.bytesAt key n)

/-- Some byte of the range that is not indeterminate lies in a poisoned line; answers the first such line (R10, R83). -/
def poisonIn (s : State) (key n : Nat) : Option Nat :=
  (linesOf key n).find? fun l => s.poison.contains l && (List.range 64).any fun j =>
    decide (key ≤ 64 * l + j) && decide (64 * l + j < key + n) && !s.poolHole (64 * l + j)

/-- The lines that `n` bytes from a key cover in full (R83). -/
def fullLines (key n : Nat) : List Nat :=
  (linesOf key n).filter fun l => decide (key ≤ 64 * l) && decide (64 * l + 64 ≤ key + n)

/-- Lines written in full by data that is not poisoned are clean (R83), but for those that no read can check (R112). -/
def State.clean (s : State) (full : List Nat) : State :=
  { s with poison := s.poison.filter fun l => !(full.contains l && !s.lineLost l) }

/-- The bytes of L0 written in this cycle, with `n` bytes from a key (R79). -/
def State.l0Keep (s : State) (key n : Nat) : List Host.Cell :=
  if key < 2 ^ 52 then s.l0Then
  else (List.range n).foldl (fun l i =>
    match look (key + i) l with
    | some _ => l
    | none => (key + i, rdByte s.mem (key + i)) :: l) s.l0Then

/-- Bytes written by a store of data that is not poisoned: a full write of a line clears its poison (R83), and a
tower line enters its write buffer (R84). -/
def State.write (s : State) (key : Nat) (bs : List Byte) : State :=
  let tower := match regionOf key with
    | .tower .. => true
    | _ => false
  let lines := linesOf key bs.length
  { s.clean (fullLines key bs.length) with
    mem := wrBytes s.mem key bs
    l0Then := s.l0Keep key bs.length
    wbuf := if tower then lines.foldl (fun w l => setIns l w) s.wbuf else s.wbuf
    banks := if tower then lines.foldl markWritten s.banks else s.banks }

/-- A line marked poisoned (R83). -/
def State.poisonLine (s : State) (line : Nat) : State := { s with poison := setIns line s.poison }

/-- `n` bytes as a read of this cycle sees them: a byte of L0 that is written in the cycle has its value from before it (R79), and an
indeterminate one is free (R10). -/
def State.seen (s : State) (key n : Nat) : List Byte :=
  (List.range n).map fun i =>
    if s.poolHole (key + i) then s.freeByte (key + i) else (look (key + i) s.l0Then).getD (rdByte s.mem (key + i))

/-- A read or write of a page of the pool resets the slot's age, and a store makes it dirty, which the hub writes back
(R391, R395, R396). -/
def State.touch (s : State) (key : Nat) (store : Bool) : State :=
  let soiled := if store then (s.pool.filter fun e => e.2.soils key).map fun e => s.poolEntry e.1 + 26 else []
  soiled.foldl (fun (s : State) a => s.write a [1])
    { s with pool := s.pool.map fun e =>
        if e.2.covers key then (e.1, { e.2 with age := 0, dirty := e.2.dirty || (store && e.2.soils key) }) else e }

/-- The hub reads a structure that starts at a key. -/
def State.hubRead (s : State) (key : Nat) : State := s.touch key false

/-- The hub writes a structure at a key. -/
def State.hubPut (s : State) (key : Nat) (bs : List Byte) : State := (s.write key bs).touch key true

end Sys2Proof.Machine
end

