-- ==== Sys2Proof/Machine/Ops.lean ====
section
/-! DEFINITION. The named operations over the state that every meaning uses: reading and writing cores, registers,
tasks and contexts; stalls, the advance of a program counter and the outcome of an instruction; freezing a group,
taking a trap and posting its record; free values; counters and barriers at their bank ALUs. -/

namespace Sys2Proof

/-- The number of a stream (R206). -/
def Stream.num : Stream → Nat
  | .c => 0 | .l => 1 | .a => 2 | .s => 3

end Sys2Proof

namespace Sys2Proof.Machine

abbrev Out := Host.Outcome State Fault Refusal

/-! ### Vectors, cores, tasks, contexts -/

/-- Entry `i` of a vector, or `d` beyond its end. -/
def vget {α : Type} {n : Nat} (v : Vector α n) (i : Nat) (d : α) : α := (v[i]?).getD d

/-- `v` with entry `i` set, unchanged beyond its end. -/
def vset {α : Type} {n : Nat} (v : Vector α n) (i : Nat) (x : α) : Vector α n := v.setIfInBounds i x

/-- The stream of a number. -/
def streamOf : Nat → Stream
  | 0 => .c | 1 => .l | 2 => .a | _ => .s

/-- Core `c`; one that the table does not list is as at reset. -/
def State.core (s : State) (c : Nat) : Core := (look c s.cores).getD {}

def State.setCore (s : State) (c : Nat) (k : Core) : State := { s with cores := put c k s.cores }

def State.modCore (s : State) (c : Nat) (f : Core → Core) : State := s.setCore c (f (s.core c))

def Core.seq (k : Core) (st : Stream) : Seq := vget k.seqs st.num {}

def Core.setSeq (k : Core) (st : Stream) (q : Seq) : Core := { k with seqs := vset k.seqs st.num q }

def State.seq (s : State) (c : Nat) (st : Stream) : Seq := (s.core c).seq st

def State.modSeq (s : State) (c : Nat) (st : Stream) (f : Seq → Seq) : State :=
  s.modCore c fun k => k.setSeq st (f (k.seq st))

def State.modTask (s : State) (t : Nat) (f : Task → Task) : State :=
  match look t s.tasks with
  | some k => { s with tasks := put t (f k) s.tasks }
  | none => s

/-- Context slot `n`; one that the table does not list is as at reset. -/
def State.ctx (s : State) (n : Slot) : Ctx := (look n.toNat s.ctxs).getD {}

def State.setCtx (s : State) (n : Slot) (k : Ctx) : State := { s with ctxs := put n.toNat k s.ctxs }

def State.modCtx (s : State) (n : Slot) (f : Ctx → Ctx) : State := s.setCtx n (f (s.ctx n))

/-- The code of a context's state (Table 15.3). -/
def CState.code : CState → Nat
  | .destroyed => 0 | .created => 1 | .loaded => 2 | .running => 3 | .saving => 4 | .saved => 5 | .frozen => 6
  | .rollingBack => 7 | .dead => 8

/-- First byte of the descriptor of a context slot (R400). -/
def State.ctxAddr (s : State) (slot : Slot) : Nat := s.hub.ctbase.toNat + 512 * slot.toNat

/-- The hub's fields of a context's descriptor are written into it (R400, Table 15.1). -/
def State.backCtx (s : State) (slot : Slot) : State :=
  let k := s.ctx slot
  let a := s.ctxAddr slot
  let s := s.hubPut (a + 0xC9) (natBytes k.st.code 1 ++ natBytes k.status.toNat 1 ++ natBytes k.noroll.toNat 1 ++
    natBytes k.openIv 4 ++ natBytes k.vouched 4)
  s.hubPut (a + 0x110) (natBytes k.logUsed 8)

/-- The core and the stream whose instruction is being executed. -/
def State.me (s : State) : Nat := s.about.core.toNat
def State.st (s : State) : Stream := s.about.stream

/-- The task that a core runs. -/
def State.taskOf (s : State) (c : Nat) : Option Task := (s.core c).task.bind fun t => look t s.tasks

/-- The context slot that a core runs; 0 on an idle core (Table 15.2). -/
def State.slotOf (s : State) (c : Nat) : Slot := match s.taskOf c with
  | some t => t.ctx
  | none => 0

/-- The descriptor of the context that a core runs. -/
def State.desc (s : State) (c : Nat) : Desc := (s.ctx (s.slotOf c)).desc

/-- The context of a core holds P1 (R30). -/
def State.isP1 (s : State) (c : Nat) : Bool := (s.desc c).priv == 1

/-- The stall limit in cycles: a smaller value than 256 is taken as 256 (Table 15.1, R401). -/
def State.stallLimit (s : State) (c : Nat) : Nat := Nat.max 256 (s.desc c).stalllim.toNat

/-- The code-store copy that a core's task runs. -/
def State.copyOf (s : State) (c : Nat) : Copy := match s.taskOf c with
  | some t => (look t.copy s.copies).getD {}
  | none => {}

/-! ### C-stream registers -/

/-- x0 reads 0 (R175). -/
def Core.getX (k : Core) (r : BitVec 5) : X64 := if r = 0 then 0 else vget k.x r.toNat 0

/-- Writes to x0 are discarded (R175). -/
def Core.setX (k : Core) (r : BitVec 5) (v : X64) : Core := if r = 0 then k else { k with x := vset k.x r.toNat v }

/-- x[r] of the issuing core. -/
def State.x (s : State) (r : BitVec 5) : X64 := (s.core s.me).getX r

/-- The state with xr of the issuing core written. -/
def State.setX (s : State) (r : BitVec 5) (v : X64) : State := s.modCore s.me fun k => k.setX r v

/-- Steer register j of a stream. -/
def State.steer (s : State) (c : Nat) (st : Stream) (j : Nat) : Steer := vget (s.seq c st).j j {}

def State.modSteer (s : State) (c : Nat) (st : Stream) (j : Nat) (f : Steer → Steer) : State :=
  s.modSeq c st fun q => { q with j := vset q.j j (f (vget q.j j {})) }

/-! ### Free values -/

/-- An indeterminate value (R10), and the state in which the next one is another. -/
def State.free (s : State) : Nat × State := (Config.freeNat s.fresh, { s with fresh := s.fresh + 1 })

/-- `n` indeterminate bytes. -/
def State.freeBytes (s : State) (n : Nat) : List Byte × State :=
  (natBytes (Config.freeNat s.fresh) n, { s with fresh := s.fresh + 1 })

/-! ### Sections and the program counter -/

/-- The first address past the section of a stream of the core's task (R294). -/
def State.sectionEnd (s : State) (c : Nat) (st : Stream) : VAddr :=
  let k := s.copyOf c
  let sec := vget k.secs st.num {}
  k.image + BitVec.ofNat 56 (sec.off + 4 * sec.words.length)

/-- The sequencer after an instruction that does not set the program counter: after a delay slot the Pending
transfer is taken (R188), otherwise the counter advances by 4 (R148). -/
def Seq.next (q : Seq) : Seq :=
  match q.slot, q.pending with
  | true, some (tgt, buf) =>
    { q with pc := tgt, buf := buf, lines := [], pending := none, slot := false, stall := none, released := false
             popped := none, met := false }
  | _, _ => { q with pc := q.pc + 4, slot := false, stall := none, released := false, popped := none, met := false }

/-- The sequencer with its counter set, as LOOP and LEND set it (R195, R197). -/
def Seq.jump (q : Seq) (a : VAddr) : Seq := { q with pc := a, slot := false, stall := none, released := false }

/-- A stream that has completed the last word of its section stops (R214, R322). One whose counter reaches the end of its section by a
transfer or a LOOP is stopped as well: it fetches no word past its section.
(DESIGN CHOICE: log entry 102.) -/
def State.stopAtEnd (s : State) (c : Nat) (st : Stream) : State :=
  if (s.seq c st).pc = s.sectionEnd c st then s.modSeq c st fun q => { q with stopped := true } else s

/-- The issuing stream goes on with the instruction after this one, in a later cycle (R176, R213, R240). -/
def State.advance (s : State) : State :=
  (s.modSeq s.me s.st fun q => { q.next with last := some s.cycle }).stopAtEnd s.me s.st

/-- The issuing stream goes on at `a`, in a later cycle. -/
def State.goto (s : State) (a : VAddr) : State :=
  (s.modSeq s.me s.st fun q => { q.jump a with last := some s.cycle }).stopAtEnd s.me s.st

/-- A stall for a new reason goes on for the same limit: a load that waits for the MARKs of several numbers (R134, R227). -/
def Why.goesOn : Why → Why → Bool
  | .mark _, .mark _ => true
  | _, _ => false

/-- The issuing stream stalls: it keeps its counter and issues the instruction again; the cycles of a stall that
lasts are kept (R24, R25).
(DESIGN CHOICE: log entry 16.) -/
def State.stallOn (s : State) (w : Why) : State :=
  s.modSeq s.me s.st fun q =>
    match q.stall with
    | some x => if x.why = w then q else { q with stall := some { why := w, cycles := if x.why.goesOn w then x.cycles else 0 } }
    | none => { q with stall := some { why := w } }

/-- The stream's cycles of stall so far. -/
def Seq.stalled (q : Seq) : Nat := match q.stall with
  | some x => x.cycles
  | none => 0

/-! ### Network time and error log -/

/-- Package time in network cycles (R4, R463). -/
def State.net2 (s : State) : Nat := 2 * s.cycle

/-- `ns` nanoseconds in network cycles of 1.4 GHz, rounded up (R4). -/
def nsToNet (ns : Nat) : Nat := (ns * 14 + 9) / 10

/-- One ERRLOG record, and ERRCNT (R463). -/
def State.logErr (s : State) (cls src unit ctx : Nat) (addr detail : X64) : State :=
  let rec0 : BitVec 256 :=
    detail ++ addr ++ (0 : BitVec 24) ++ BitVec.ofNat 8 ctx ++ BitVec.ofNat 16 unit ++ BitVec.ofNat 8 src ++
      BitVec.ofNat 8 cls ++ BitVec.ofNat 64 s.net2
  { s with hub := { s.hub with
      errlog := put (s.hub.errcnt.toNat % 256) rec0 s.hub.errlog
      errcnt := s.hub.errcnt + 1 } }

/-- The host report of a class (Table 17.7): 0 correctable, 1 contained, 2 uncontained. -/
def State.report (s : State) (cls : Nat) : State :=
  let m := if cls = 0 then HostMsg.correctable
    else if cls = 1 then (if s.hub.severity then .fatal else .nonFatal) else .fatal
  { s with hub := { s.hub with msgs := s.hub.msgs ++ [m] } }

/-- An error of Table 17.7: its record and its report (R461). -/
def State.error (s : State) (cls src unit ctx : Nat) (addr detail : X64) : State :=
  (s.logErr cls src unit ctx addr detail).report cls

/-! ### Bank ALU operations -/

/-- A notification to the hub (R371). -/
def State.notify (s : State) (key : Nat) (v : X64) : State := { s with notes := s.notes ++ [(key, v)] }

/-- SeqAdd (R363): the state after the add, and whether it overflowed. -/
def State.seqAdd (s : State) (key : Nat) (n : Nat) : State × Bool :=
  let v := s.get key 8 + n
  let put (v : Nat) : State := ((s.write key (natBytes v 8)).touch key true).notify key (BitVec.ofNat 64 v)
  if v > 2 ^ 64 - 1 then (put (2 ^ 64 - 1), true) else (put v, false)

/-- The fields of a barrier (Table 13.1). -/
structure Barrier where
  rsv : BitVec 6
  note : BitVec 1
  phase : BitVec 1
  rpend : BitVec 40
  arr : BitVec 16
  exp : BitVec 16
  pend : BitVec 48
  deriving DecidableEq, Repr

def Barrier.ofBits (v : BitVec 128) : Barrier :=
  ⟨fld v 122 6, fld v 121 1, fld v 120 1, fld v 80 40, fld v 64 16, fld v 48 16, fld v 0 48⟩

def Barrier.bits (b : Barrier) : BitVec 128 :=
  b.rsv ++ b.note ++ b.phase ++ b.rpend ++ b.arr ++ b.exp ++ b.pend

def State.barrier (s : State) (key : Nat) : Barrier := .ofBits (BitVec.ofNat 128 (s.get key 16))

/-- The whole object is written, and a page of the pool that it lies in is used (R395, R396). -/
def State.putBarrier (s : State) (key : Nat) (b : Barrier) : State := (s.write key (natBytes b.bits.toNat 16)).touch key true

/-- BarUpdate (R360); `none` is BARRIER_UNDERFLOW, with the barrier unchanged. -/
def State.barUpdate (s : State) (key : Nat) (dp : Int) (na : Nat) : Option State :=
  let o := s.barrier key
  let p : Int := o.pend.toNat + dp
  let a := o.arr.toNat + na
  if p < 0 ∨ p ≥ 2 ^ 48 ∨ a > o.exp.toNat then none
  else if p = 0 ∧ a = o.exp.toNat then
    let o' := { o with phase := ~~~ o.phase, pend := o.rpend.setWidth 48, arr := 0 }
    let s' := s.putBarrier key o'
    some (if o.note = 1 then s'.notify key (o'.phase.setWidth 64) else s')
  else some (s.putBarrier key { o with pend := BitVec.ofNat 48 p.toNat, arr := BitVec.ofNat 16 a })

/-! ### Freezing and traps -/

/-- A cause raises the stall wire of a task's group; the freeze begins in cycle `f` (R340). -/
def Task.freeze (t : Task) (f : Nat) (why : Freeze) : Task :=
  { t with
    frozen := t.frozen ++ [why]
    wire := true
    freezeAt := if t.wire then t.freezeAt else f }

/-- A stream of a core has issued in a cycle. -/
def Core.issuedIn (k : Core) (cycle : Nat) : Bool := k.seqs.any fun (q : Seq) => q.last == some cycle

/-- The cycle in which a freeze begins that a cause raises now: this one, or, when a stream of the group has issued in it, the next one
(R340).
(DEDUCED: log entry 121.) -/
def State.freezeCycle (s : State) (t : Nat) : Nat :=
  if s.cores.any fun (e : Nat × Core) => e.2.task == some t && e.2.issuedIn s.cycle then s.cycle + 1 else s.cycle

def State.freeze (s : State) (t : Nat) (why : Freeze) : State := s.modTask t (·.freeze (s.freezeCycle t) why)

/-- The group of a task is frozen in a cycle (R340). -/
def Task.frozenIn (t : Task) (cycle : Nat) : Bool := t.wire && decide (t.freezeAt ≤ cycle)

/-- The phase in which a frozen group issues again: that of the cycle in which its freeze began, or, when that came before the group's
first cycle, that of its first cycle (R337, R340). -/
def Task.phase (x : Task) : Nat := (if x.freezeAt < x.start then x.start else x.freezeAt) % 8

/-- Every cause of a freeze has ended, and the cycle is one in which the group goes on (R96, R340). -/
def Task.thaws (x : Task) (cycle : Nat) : Bool :=
  x.frozenIn cycle && x.frozen.isEmpty && decide (x.thawAt < cycle) && cycle % 8 == x.phase

/-- A cause has ended; the wire is released later, at the phase of R96. -/
def State.unfreeze (s : State) (t : Nat) (f : Freeze) : State :=
  s.modTask t fun k => { k with frozen := k.frozen.erase f, thawAt := s.cycle }

/-- What a trap carries besides the state at it (Tables 5.11 and 15.7). -/
structure Trap where
  cause : BitVec 8
  addr : X64 := 0
  detail : X64 := 0
  nr : Bool := false
  /-- A consumed poison: the SRC of its error record (R461, Table 17.8). -/
  poison : Option Nat := none
  deriving DecidableEq, Repr

/-- The cause codes of Table 5.11. -/
def cILLEGAL_OP : BitVec 8 := 0x01
def cSTEER_EMPTY : BitVec 8 := 0x02
def cCOND_UNSET : BitVec 8 := 0x03
def cLOOP_LIMIT : BitVec 8 := 0x04
def cTOKEN_STALL : BitVec 8 := 0x05
def cREP_RANGE : BitVec 8 := 0x06
def cPLACE_RANGE : BitVec 8 := 0x07
def cPAGE_ABSENT : BitVec 8 := 0x08
def cPAGE_PERM : BitVec 8 := 0x09
def cMISALIGN : BitVec 8 := 0x0A
def cPOISON : BitVec 8 := 0x0B
def cWAIT_LIMIT : BitVec 8 := 0x0C
def cSERIAL_DIGEST : BitVec 8 := 0x0D
def cSESSION_LOST : BitVec 8 := 0x0E
def cLINK_TIMEOUT : BitVec 8 := 0x0F
def cPRIV : BitVec 8 := 0x10
def cENGINE_FAULT : BitVec 8 := 0x11
def cGANG_INCOMPLETE : BitVec 8 := 0x12
def cCHECKPOINT_FULL : BitVec 8 := 0x13
def cBARRIER_UNDERFLOW : BitVec 8 := 0x14
def cCOUNTER_OVERFLOW : BitVec 8 := 0x15
def cDEBUG : BitVec 8 := 0x16

/-- The 64 bytes of a trap record, as a number (Table 15.6). -/
def TrapRec.bits (r : TrapRec) (rid : Nat) : BitVec 512 :=
  (0 : BitVec 128) ++ r.card ++ (0 : BitVec 14) ++ r.queue ++ r.detail ++ r.addr ++
    (match r.pending with | some p => (0 : BitVec 8) ++ p | none => (0 : BitVec 64)) ++
    ((0 : BitVec 8) ++ r.tpc) ++ BitVec.ofNat 32 rid ++
    ((if r.nocore then (1 : BitVec 1) else 0) ++ (0 : BitVec 5) ++ (if r.nocore then (0 : CoreId) else r.core)) ++
    ((0 : BitVec 3) ++ (if r.pending.isSome then (1 : BitVec 1) else 0) ++ (if r.async then (1 : BitVec 1) else 0) ++
      (if r.nr then (1 : BitVec 1) else 0) ++ r.stream) ++ r.cause

/-- The 64 bytes of a ring entry that holds a page-fault record: Table 14.6, and 1 at byte 0x3F (R405). -/
def PFault.bits (f : PFault) : BitVec 512 :=
  (1 : BitVec 8) ++ (0 : BitVec 248) ++ (0 : BitVec 144) ++ ((0 : BitVec 6) ++ f.core) ++ f.kind ++ f.ctx ++
    BitVec.ofNat 16 f.fid ++ f.va

/-- The stream that a token index names (Table 5.8): the other streams in ascending order. -/
def tokOther (st : Stream) (i : BitVec 2) : Nat := if i.toNat - 1 < st.num then i.toNat - 1 else i.toNat

/-- The tokens in the queue from stream `src` to stream `dst`. -/
def Core.tq (k : Core) (src dst : Nat) : List X64 := vget k.toks (4 * src + dst) []

/-- A queue is full (R22). -/
def Core.tqFull (k : Core) (src dst : Nat) : Bool := decide (15 ≤ (k.tq src dst).length)

/-- Every stream of a core has stopped, or is absent (R214, R322). -/
def Core.allStopped (k : Core) : Bool := k.seqs.all fun (q : Seq) => !q.present || q.stopped

/-- A push finds its queue with room (R24), or is abandoned, since no stream will make room (R322). -/
def Core.tokRoom (k : Core) (st : Stream) (push : BitVec 2) : Bool :=
  push == 0 || k.allStopped || !k.tqFull st.num (tokOther st push)

/-- Every earlier access or write of a stream is complete, or waits for nothing but room for its token (R210, R231, R260).
(DESIGN CHOICE: log entry 38.) -/
def State.quiet (s : State) (c : Nat) (st : Stream) : Bool :=
  let k := s.core c
  match st with
  | .c => k.cReads.isEmpty && k.cStores.isEmpty && k.div.isNone
  | .l => k.lReads.all fun r => !k.tokRoom .l r.push
  | .s => k.sStores.isEmpty
  | .a => k.aPend.all fun p => !k.tokRoom .a p.push

/-- The ring entry that a context's next record would occupy holds no unanswered record (R405). -/
def Ctx.ringFree (k : Ctx) : Bool :=
  let size := 2 ^ k.desc.tqorder.toNat
  k.posted.all fun p => p.rid % size != k.rids % size

/-- The first byte of ring entry RID (R405). -/
def Ctx.ringKey (k : Ctx) (rid : Nat) : Nat := k.desc.tqbase.toNat + 64 * (rid % 2 ^ k.desc.tqorder.toNat)

/-- A translation's permission of an access kind (R375): 0 load, 1 store, 2 atomic, 3 fetch. -/
def Trans.allows (t : Trans) (kind : Nat) (p1 : Bool) : Bool :=
  (match kind with | 0 => t.r | 1 => t.w | 2 => t.r && t.w | _ => t.x && !t.rem) && (!t.prv || p1)

/-- Bytes of a page, by its size code (Table 14.5). -/
def pageBytes (size : Nat) : Nat := if size = 0 then 0x10000 else if size = 1 then 0x400000 else 0x10000000

/-- How a walk ends (R377). -/
inductive WalkEnd where
  | valid (t : Trans)
  | absent
  | error
  deriving DecidableEq, Repr

/-- A physical address may hold a table: the second tier, or the tower of a layer in the map (R374, R107). -/
def tableAt (avail : BitVec 16) (pa : Nat) : Bool :=
  match regionOf pa with
  | .second _ => true
  | .tower k c _ => layerIn avail (stackOf c) k
  | _ => false

/-- A walk from a table (R373, R374, R376): `lv` levels remain, the next one's index bits start at `lo`. -/
def walkFrom (s : State) (va : Nat) : Nat → Nat → WalkEnd
  | 0, _ => .error
  | lv + 1, base =>
    -- level TL(3 - lv): its lowest index bit, its entries, the size code of its leaves
    let lo := if lv = 3 then 40 else if lv = 2 then 28 else if lv = 1 then 22 else 16
    let n := if lv = 3 then 65536 else if lv = 2 then 4096 else 64
    let addr := base + 8 * ((va >>> lo) % n)
    if !tableAt s.layeravail addr then .error
    else if (poisonIn s addr 8).isSome then .error
    else
      let e : BitVec 64 := BitVec.ofNat 64 (s.get addr 8)
      if e.getLsbD 0 = false then .absent
      else
        let pa := (bitsNat e 51 9) * 512
        if e.getLsbD 1 then
          let node := bitsNat e 63 52
          let rem := e.getLsbD 7
          if lv = 3 then .error
          else if pa % pageBytes lv ≠ 0 then .error
          else if rem = false ∧ node ≠ 0 then .error
          else if rem = true ∧ node = s.hub.nodeid.toNat then .error
          else .valid { size := lv, base := pa, r := e.getLsbD 2, w := e.getLsbD 3, x := e.getLsbD 4,
                        prv := e.getLsbD 5, log := e.getLsbD 6, rem := rem, sh := e.getLsbD 8,
                        node := BitVec.ofNat 12 (if rem then node else 0) }
        else if lv = 0 then .error
        else if pa % (if lv = 3 then 0x8000 else 512) ≠ 0 then .error
        else if !tableAt s.layeravail pa then .error
        else walkFrom s va lv pa

/-- The walk of a context's address (R376). -/
def State.walk (s : State) (slot : Slot) (va : VAddr) : WalkEnd :=
  walkFrom s va.toNat 4 (s.ctx slot).desc.root.toNat

/-- The cached translation of a stack for an address (R376). -/
def State.cached (s : State) (stack : Nat) (slot : Slot) (va : VAddr) : Option Trans :=
  (s.tlb.find? fun e => e.stack = stack && e.slot = slot && decide (e.page ≤ va.toNat) &&
    decide (va.toNat < e.page + pageBytes e.tr.size)).map (·.tr)

/-- The cache takes a valid translation; a shared writable leaf bars rollback (R377, R416). -/
def State.cache (s : State) (stack : Nat) (slot : Slot) (va : VAddr) (t : Trans) : State :=
  let page := va.toNat - va.toNat % pageBytes t.size
  let s := { s with tlb := { stack := stack, slot := slot, page := page, tr := t } :: s.tlb }
  if t.sh && t.w && !(s.ctx slot).noroll then (s.modCtx slot fun k => { k with noroll := true }).backCtx slot else s

/-- A translation through the cache, or by a walk that fills it (R376, R383). -/
def State.translate (s : State) (stack : Nat) (slot : Slot) (va : VAddr) : WalkEnd × State :=
  match s.cached stack slot va with
  | some t => (.valid t, s)
  | none => match s.walk slot va with
    | .valid t => (.valid t, s.cache stack slot va t)
    | e => (e, s)

/-- The physical address of a virtual address in its page. -/
def Trans.pa (t : Trans) (va : VAddr) : Nat := t.base + va.toNat % pageBytes t.size

/-- The fields of an object address (R318). -/
structure ObjAddr where
  abs : Bool
  col : Nat
  level : Nat
  off : Nat
  va : VAddr
  deriving DecidableEq, Repr

def ObjAddr.of (v : X64) : ObjAddr :=
  ⟨v.getLsbD 63, bitsNat v 41 32, bitsNat v 31 29, bitsNat v 18 0, fld v 0 56⟩

/-- An object address keeps the form of R318. -/
def objForm (v : X64) : Bool :=
  if v.getLsbD 63 then bitsNat v 62 42 == 0 && bitsNat v 28 19 == 0 && decide (bitsNat v 31 29 ≤ 4)
  else bitsNat v 62 56 == 0

/-- Capacity of a level (R72). -/
def capOf (level : Nat) : Nat := if level = 0 then 0x80000 else 0x60000

/-- Checks 3 to 6 of Table 3.2 for `n` bytes of a column: the reason code of the first that fails. -/
def State.allot (s : State) (d : Desc) (level col : Nat) (o : Int) (n : Nat) : Option Nat :=
  if !d.colmask.getLsbD col then some 3
  else if !d.layers.getLsbD level || (level != 0 && !layerIn s.layeravail (stackOf col) level) then some 4
  else if o < 0 ∨ o + n > capOf level then some 5
  else
    let e := vget d.ext level 0
    if o < bitsNat e 31 0 ∨ o + n > bitsNat e 63 32 then some 6 else none

/-- The key of an object of `n` bytes that a hub service reaches without faulting (R319, R370, R405): an absolute place of
the allotment, or a tower page, which with `perm` must allow a change by the checks of R366. -/
def State.objKey (s : State) (slot : Slot) (v : X64) (n : Nat) (perm : Bool) : Option Nat :=
  let o := ObjAddr.of v
  if !objForm v then none
  else if (if o.abs then o.off else o.va.toNat) % n ≠ 0 then none
  else if o.abs then
    match s.allot (s.ctx slot).desc o.level o.col o.off n with
    | none => some (keyPlace o.level o.col o.off)
    | some _ => none
  else match s.walk slot o.va with
    | .valid t => match regionOf (t.pa o.va) with
      | .tower k c _ =>
        if layerIn s.layeravail (stackOf c) k && !t.rem && (!perm || t.allows 2 ((s.ctx slot).desc.priv == 1)) then
          some (t.pa o.va)
        else none
      | _ => none
    | _ => none

/-- The undo log has an entry of the open interval for a line (R414). -/
def Ctx.logged (k : Ctx) (line : Nat) : Bool := k.log.any fun e => e.interval = k.openIv && e.line = line

/-- Appends the log entries that a store of `n` bytes needs; `none` when the ring is full (R414, R415). -/
def State.logLines (s : State) (slot : Slot) : List Nat → Option State
  | [] => some s
  | l :: t =>
    let k := s.ctx slot
    if k.openIv = 0 ∨ k.logged l then s.logLines slot t
    else if k.logUsed + 128 > k.desc.logsize.toNat then none
    else
      let old : BitVec 512 := BitVec.ofNat 512 (s.get (64 * l) 64)
      let at_ := k.desc.logbase.toNat + k.logPos % Nat.max 1 k.desc.logsize.toNat
      let s := s.write at_ (natBytes (64 * l) 8 ++ natBytes k.openIv 4 ++ natBytes 0 52 ++ natBytes old.toNat 64)
      let s := s.modCtx slot fun k =>
        { k with log := k.log ++ [⟨k.openIv, l, old, s.poison.contains l⟩], logUsed := k.logUsed + 128
                 logPos := k.logPos + 128 }
      (s.backCtx slot).logLines slot t

/-- A store to a key is logged for a context by PLOG: the line lies in the context's extent of a tower level whose bit is set; L0 is
never logged (R414). -/
def State.plogKey (s : State) (slot : Slot) (key : Nat) : Bool :=
  let d := (s.ctx slot).desc
  match placeOfKey key with
  | some (lv, col, o) =>
    let e := vget d.ext lv 0
    lv != 0 && d.plog.getLsbD lv && d.layers.getLsbD lv && d.colmask.getLsbD col && decide (bitsNat e 31 0 ≤ o) &&
      decide (o < bitsNat e 63 32)
  | none => false

/-- A change of the object at an address, whose key is known, is logged for a context (R414). -/
def State.objLog (s : State) (slot : Slot) (v : X64) (key : Nat) : Bool :=
  s.plogKey slot key || (!(ObjAddr.of v).abs &&
    match s.walk slot (ObjAddr.of v).va with
    | .valid t => t.log
    | _ => false)

/-- The address of a line in a record of core `c` (Table 15.7): its physical address, or the place address by which `c`
names a line of an L0, or of a tower that it reached by a place. -/
def lineAddr (c line : Nat) (place : Bool) : X64 :=
  let key := 64 * line
  let form (level col off : Nat) : X64 :=
    let dx : Int := (col % 32 : Nat) - (c % 32 : Nat)
    let dy : Int := (col / 32 : Nat) - (c / 32 : Nat)
    (BitVec.ofNat 3 level ++ BitVec.ofInt 5 dy ++ BitVec.ofInt 5 dx ++ BitVec.ofNat 19 off).setWidth 64
  if 2 ^ 52 ≤ key then form 0 ((key - 2 ^ 52) / 0x80000) ((key - 2 ^ 52) % 0x80000)
  else match place, regionOf key with
    | true, .tower k col off => form k col off
    | _, _ => BitVec.ofNat 64 key

/-- SRC of the error record of a poisoned line (Table 17.8): L0, tower or second tier. -/
def lineSrc (line : Nat) : Nat :=
  if 2 ^ 52 ≤ 64 * line then 1 else match regionOf (64 * line) with
    | .tower .. => 0
    | _ => 2

/-- POISON of an access of core `c` that consumes a poisoned line (R83, R232). -/
def poisonTrap (c line : Nat) (place : Bool) : Trap :=
  { cause := cPOISON, addr := lineAddr c line place, nr := true, poison := some (lineSrc line) }

/-- UNIT of the error record of a line of the second tier: its channel, the stacks' channels counted on (R106, Table 17.8).
(DESIGN CHOICE: log entry 103.) -/
def channelUnit (pa : Nat) : Nat := 20 * (pa / 0x5000000000) + (channelOf (pa % 0x5000000000)).1

/-- A consumed poison is a contained error (Table 17.7). -/
def State.poisonErr (s : State) (src : Option Nat) (c : Nat) (slot : Slot) (addr : X64) : State :=
  match src with
  | some n => s.error 1 n (if n = 2 then channelUnit addr.toNat else c) slot.toNat addr 0
  | none => s

/-- The record of a SeqAdd by the hub that could not be made as it stood; that of TQCTR makes none (R370, R397, R405). -/
def State.addRecord (s : State) (slot : Slot) (a : HubAdd) (cause : BitVec 8) (addr : X64) : State :=
  let r : TrapRec :=
    { cause := cause, nocore := a.who.isNone, core := (a.who.map (·.1)).getD 0, tpc := (a.who.map (·.2)).getD 0
      async := true, addr := addr, queue := a.queue, card := a.card }
  if a.quiet then s else s.modCtx slot fun k => { k with held := k.held ++ [{ item := .trap r }] }

/-- One SeqAdd by the hub for a context (R370), with its log entry; when the log has no room it waits (R415). A counter in a poisoned line
is not changed: the context takes POISON (R83).
(DEDUCED: log entry 29.) -/
def State.payAdd (s : State) (slot : Slot) (a : HubAdd) : Option State :=
  match poisonIn s a.key 8 with
  | some l =>
    let t := poisonTrap ((a.who.map (·.1.toNat)).getD 0) l true
    some ((s.poisonErr t.poison (((placeOfKey a.key).map (·.2.1)).getD 0) slot t.addr).addRecord slot a t.cause t.addr)
  | none => match (if s.objLog slot a.addr a.key then s.logLines slot (linesOf a.key 8) else some s) with
    | none => none
    | some s => match s.seqAdd a.key 1 with
      | (s, false) => some s
      | (s, true) => some (s.addRecord slot a cCOUNTER_OVERFLOW a.addr)

/-- A SeqAdd by the hub, or the wait for room in the log. -/
def State.hubAdd (s : State) (slot : Slot) (a : HubAdd) : State :=
  if (s.ctx slot).adds ≠ [] then s.modCtx slot fun k => { k with adds := k.adds ++ [a] }
  else match s.payAdd slot a with
    | some s => s
    | none => s.modCtx slot fun k => { k with adds := k.adds ++ [a] }

/-- The SeqAdds of a context that wait are made, as far as the log has room (R415). -/
def State.payAll (s : State) (slot : Slot) : List HubAdd → State
  | [] => s.modCtx slot fun k => { k with adds := [] }
  | a :: t => match s.payAdd slot a with
    | some s => s.payAll slot t
    | none => s.modCtx slot fun k => { k with adds := a :: t }

/-- The bytes of a record (R405). -/
def State.itemBits (s : State) (it : TqItem) (rid : Nat) : BitVec 512 :=
  match it with
  | .trap r => r.bits rid
  | .fault fid => match s.faults.find? (·.fid = fid) with
    | some f => f.bits
    | none => 0

/-- A record posted into the trap queue of a context whose ring entry is free: its bytes, then TQCTR (R405). -/
def State.post (s : State) (slot : Slot) (h : Held) : State :=
  let k := s.ctx slot
  let rid := k.rids
  let s := s.write (k.ringKey rid) (natBytes (s.itemBits h.item rid).toNat 64)
  let s := s.modCtx slot fun k =>
    { k with rids := rid + 1, posted := k.posted ++ [{ rid := rid, item := h.item, task := h.task }] }
  let s := match h.item with
    | .fault fid => { s with faults := s.faults.map fun f => if f.fid = fid then { f with rid := rid } else f }
    | .trap _ => s
  if k.desc.tqctr = 0 then s
  else match s.objKey slot k.desc.tqctr 8 false with
    | some key => s.hubAdd slot { key := key, addr := k.desc.tqctr, quiet := true }
    | none => s

/-- A held record can be posted now. -/
def State.postable (s : State) (slot : Slot) (h : Held) : Bool :=
  (s.ctx slot).ringFree && (match h.wait with | some (c, st) => s.quiet c.toNat st | none => true)

/-- Posts the held records of a context in order of occurrence, as far as they can be posted. -/
def State.pumpCtx (s : State) (slot : Slot) : List Held → State
  | [] => s.modCtx slot fun k => { k with held := [] }
  | h :: t =>
    if s.postable slot h then (s.post slot h).pumpCtx slot t
    else s.modCtx slot fun k => { k with held := h :: t }

/-- Posts what can be posted of one context. -/
def State.pump (s : State) (slot : Slot) : State := s.pumpCtx slot (s.ctx slot).held

/-- Posts what can be posted of every context. -/
def State.pumpAll (s : State) : State := s.ctxs.foldl (fun s e => s.pump (BitVec.ofNat 8 e.1)) s

/-- A record for a context: held, then posted when it can be (R405). -/
def State.record (s : State) (slot : Slot) (h : Held) : State :=
  (s.modCtx slot fun k => { k with held := k.held ++ [h] }).pump slot

/-- The A-stream of a core is in a transient window (R152, R241). -/
def Core.inWindow (k : Core) : Bool :=
  k.bypass.any (fun b => decide (0 < b.left)) ||
    k.aPend.any (fun p => match p.wr with | .transient .. => decide (0 < p.left) | _ => false)

/-- TAKING A TRAP (R207, R210, R231, R260, R341, R405): a trap of a stream of core `c` is precise at its program
counter. TCAUSE, TPC and TSTREAM take the trap; the group freezes; the record is posted once the stream's earlier
accesses are complete. An ILLEGAL_OP in a transient window carries NR (R152). -/
def State.raiseAt (s : State) (c : Nat) (st : Stream) (pc : VAddr) (pend : Option VAddr) (t : Trap) : State :=
  let k := s.core c
  let n := s.nextId
  let nr := t.nr || (t.cause == cILLEGAL_OP && st == .a && k.inWindow)
  let task := s.taskOf c
  let r : TrapRec :=
    { cause := t.cause, stream := BitVec.ofNat 2 st.num, nr := nr, pending := pend
      core := BitVec.ofNat 10 c, tpc := pc, addr := t.addr, detail := t.detail
      queue := (task.map fun x => BitVec.ofNat 18 x.queue).getD 0, card := (task.map (·.cardNo)).getD 0 }
  let s := s.modCore c fun k => { k with tcause := t.cause, tpc := pc, tstream := BitVec.ofNat 2 st.num }
  let s := s.modSeq c st fun q => { q with stall := none }
  let s := s.poisonErr t.poison c (s.slotOf c) t.addr
  match k.task with
  | none => s
  | some tn =>
    let s := { s with nextId := n + 1 }
    (s.freeze tn (.trap n)).record (s.slotOf c)
      { item := .trap r, task := some (tn, n), wait := some (BitVec.ofNat 10 c, st) }

/-- A stalled instruction that traps returns the token that it has popped to the head of its queue (R231). -/
def Core.unpop (k : Core) (st : Stream) : Core :=
  let q := k.seq st
  let k := k.setSeq st { q with popped := none, met := false }
  match q.popped with
  | some (src, v) => { k with toks := vset k.toks (4 * src + st.num) (v :: k.tq src st.num) }
  | none => k

/-- A trap at the program counter of a stream, with its Pending target (R190). -/
def State.raise (s : State) (c : Nat) (st : Stream) (t : Trap) : State :=
  (s.modCore c fun k => k.unpop st).raiseAt c st (s.seq c st).pc ((s.seq c st).pending.map (·.1)) t

/-- An ASYNC record of a context (R29, R405, R406). -/
def State.async (s : State) (slot : Slot) (t : Trap) (core : Nat) (pc : VAddr) (st : Stream) (task : Option Task) :
    State :=
  let r : TrapRec :=
    { cause := t.cause, stream := BitVec.ofNat 2 st.num, async := true, core := BitVec.ofNat 10 core, tpc := pc,
      addr := t.addr, detail := t.detail, queue := (task.map fun x => BitVec.ofNat 18 x.queue).getD 0
      card := (task.map (·.cardNo)).getD 0 }
  s.record slot { item := .trap r }

/-- A record without a core (Table 15.6). -/
def State.nocore (s : State) (slot : Slot) (cause : BitVec 8) (addr detail : X64) (queue : BitVec 18)
    (card : BitVec 32) (async : Bool) : State :=
  let r : TrapRec := { cause := cause, nocore := true, async := async, addr := addr, detail := detail,
                       queue := queue, card := card }
  s.record slot { item := .trap r }

/-- A fault identifier that no unanswered fault has (R384). -/
def State.newFid (s : State) : Nat :=
  ((List.range (s.faults.length + 1)).find? fun i => !(s.faults.any fun (f : PFault) => f.fid == (s.nextId + i) % 65536)).elim
    0 fun i => (s.nextId + i) % 65536

/-- A page fault (R384): its record goes to the context that FHCTX names, and the group freezes. -/
def State.pageFault (s : State) (c : Nat) (kind : BitVec 8) (va acc : X64) (who : Faulter) (task : Nat)
    (slot : Slot) : State :=
  let fid := s.newFid
  let f : PFault := { fid := fid, va := va, acc := acc, ctx := slot, kind := kind, core := BitVec.ofNat 10 c, task := task,
                      who := who }
  let s := { s with faults := s.faults ++ [f], nextId := s.nextId + 1 }
  (s.freeze task (.pageFault fid)).record s.hub.fhctx { item := .fault fid }

/-! ### The outcome of one instruction -/

/-- How an instruction ends. -/
inductive Res where
  /-- it completes, and the stream goes on with the next instruction. -/
  | ok (s : State)
  /-- it completes, and the stream goes on at an address. -/
  | go (s : State) (a : VAddr)
  /-- it stalls, in this state. -/
  | wait (s : State) (w : Why)
  /-- it freezes its group and is issued again (R340). -/
  | hold (s : State)
  /-- it traps; none of its assignments are made (R9). -/
  | trap (t : Trap)
  /-- it traps after its effect, as SQADD does (R367). -/
  | after (s : State) (t : Trap)

/-- The state after an instruction of the issuing stream. -/
def State.finish (s : State) : Res → State
  | .ok s' => s'.advance
  | .go s' a => s'.goto a
  | .wait s' w => s'.stallOn w
  | .hold s' => s'
  | .trap t => s.raise s.me s.st t
  | .after s' t => s'.raise s.me s.st t

/-- ILLEGAL_OP with the word in DETAIL; `late` when raised at issue against VT, MCFG or the kernel header
(Table 15.7). -/
def State.illegal (s : State) (late : Bool) : Trap :=
  { cause := cILLEGAL_OP, detail := (0 : BitVec 31) ++ (if late then (1 : BitVec 1) else 0) ++ s.word }

/-- PRIV of an instruction that has no other address (Table 15.7). -/
def State.privTrap (s : State) (addr : X64) : Trap := { cause := cPRIV, addr := addr, detail := s.word.setWidth 64 }

/-- The stream stands in a delay slot (R188). -/
def State.inSlot (s : State) : Bool := (s.seq s.me s.st).slot

end Sys2Proof.Machine
end

