-- ==== Sys2Proof/Machine/Access.lean ====
section
/-! DEFINITION. Accesses: forming and checking place addresses (R71 to R75, R199, R216), using a handle (R381), object
addresses (R366), scopes (R124), the orders a stream keeps (Table 4.1), performing a load and making a store visible
with its undo log entry (R117, R414). -/

namespace Sys2Proof.Machine

/-! ### Places -/

/-- The fields of a place address (Table 3.1). -/
def lvOf (p : PlaceAddr) : Nat := bitsNat p 31 29
def dyOf (p : PlaceAddr) : Int := (fld p 24 5 : BitVec 5).toInt
def dxOf (p : PlaceAddr) : Int := (fld p 19 5 : BitVec 5).toInt
def offOf (p : PlaceAddr) : Nat := bitsNat p 18 0

/-- The target column's coordinates (R71). -/
def targetXY (core : Nat) (p : PlaceAddr) : Int × Int :=
  ((core % 32 : Nat) + dxOf p, (core / 32 : Nat) + dyOf p)

/-- ADDR of a place access: the base's LEVEL, DY and DX, and the formed offset (R488). -/
def placeRec (p : PlaceAddr) (o : Int) : X64 :=
  BitVec.ofInt 32 (o / 0x80000) ++ (fld p 19 13 : BitVec 13) ++ BitVec.ofInt 19 o

/-- PLACE_RANGE with its reason code (Table 15.7). -/
def placeTrap (p : PlaceAddr) (o : Int) (reason lane : Nat) : Trap :=
  { cause := cPLACE_RANGE, addr := placeRec p o, detail := BitVec.ofNat 64 (reason + 256 * lane) }

/-- The checks of Table 3.2 in their order, for `n` bytes at offset `o` of the place `p` issued by `core`, with the
further check of R216 after check 1 when `own`: the first reason that fails, or the level and the column. -/
def State.placeCheck (s : State) (core : Nat) (p : PlaceAddr) (o : Int) (n : Nat) (own : Bool) : Except Nat (Nat × Nat) :=
  let lv := lvOf p
  let xy := targetXY core p
  if lv > 4 then .error 1
  else if own && !(lv == 0 && dxOf p == 0 && dyOf p == 0) then .error 7
  else if xy.1 < 0 ∨ xy.1 > 31 ∨ xy.2 < 0 ∨ xy.2 > 31 then .error 2
  else
    let col := (xy.2 * 32 + xy.1).toNat
    match s.allot (s.desc core) lv col o n with
    | some r => .error r
    | none => .ok (lv, col)

/-- The key of an aligned, checked place access: MISALIGN first, then Table 3.2 (R199, R216). -/
def State.place (s : State) (core : Nat) (p : PlaceAddr) (o : Int) (n align : Nat) : Except Trap Nat :=
  if o % align ≠ 0 then .error { cause := cMISALIGN, addr := placeRec p o }
  else match s.placeCheck core p o n false with
    | .error r => .error (placeTrap p o r 0)
    | .ok (lv, col) => .ok (keyPlace lv col o.toNat)

/-! ### Handles -/

/-- What a use of a handle comes to. -/
inductive Use where
  /-- a key of the package or of host memory, with the translation. -/
  | key (k : Nat) (t : Trans) (s : State)
  /-- a remote page: owner node and owner physical address. -/
  | remote (node : Node) (pa : Nat) (t : Trans) (s : State)
  /-- a hub register. -/
  | hub (pa : Nat) (t : Trans) (s : State)
  | trap (t : Trap) (s : State)
  /-- the group is frozen; the instruction issues again. -/
  | hold (s : State)

/-- The handle of the issuing core. -/
def State.handle (s : State) (h : BitVec 5) : Handle := vget (s.core s.me).h h.toNat {}

def State.setHandle (s : State) (c : Nat) (h : BitVec 5) (x : Handle) : State :=
  s.modCore c fun k => { k with h := vset k.h h.toNat x }

/-- The retranslation of a STALE handle at a use (R381): a walk from its address, for which the group freezes. -/
def State.retranslate (s : State) (h : BitVec 5) (kind : BitVec 8) (acc : X64) (task : Nat) : State :=
  let c := s.me
  let x := s.handle h
  let w : Walk :=
    { id := s.nextId, core := s.about.core, slot := s.slotOf c, va := x.va, handle := h, use := some (kind, acc) }
  let s := s.setHandle c h { x with walk := w.id }
  { s with walks := s.walks ++ [w], nextId := s.nextId + 1 }.freeze task (.walk w.id)

/-- UseHandle (R381): `o` is the offset, `kind` 0 load, 1 store, 2 atomic. Every check of the translation comes after MISALIGN,
which the caller has made. -/
def State.useHandle (s : State) (h : BitVec 5) (o : X64) (kind : Nat) : Use :=
  let c := s.me
  let x := s.handle h
  let va : VAddr := x.va + fld o 0 56
  let rec64 : X64 := va.setWidth 64
  let access (t : Trans) (s : State) : Use :=
    let size := pageBytes t.size
    let off := x.va.toNat % size + o.toNat
    if size - x.va.toNat % size ≤ o.toNat then .trap { cause := cPAGE_PERM, addr := rec64 } s
    else if !t.allows kind (s.isP1 c) then .trap { cause := cPAGE_PERM, addr := rec64 } s
    else if t.rem then .remote t.node (t.base + off) t s
    else
      let pa := t.base + off
      match regionOf pa with
      | .second _ => .key pa t s
      | .tower k col _ =>
        if layerIn s.layeravail (stackOf col) k then .key pa t s
        else .trap { cause := cPAGE_ABSENT, addr := rec64 } s
      | .hub => if s.isP1 c && kind != 2 then .hub pa t s else .trap { cause := cPAGE_PERM, addr := rec64 } s
      | .host => if kind = 2 then .trap { cause := cPAGE_PERM, addr := rec64 } s else .key pa t s
      | .unmapped => .trap { cause := cPAGE_ABSENT, addr := rec64 } s
  match x.st with
  | .none => .trap { cause := cPAGE_ABSENT, addr := rec64 } s
  | .pending =>
    match (s.core c).task with
    | some t => .hold (s.freeze t (.walk x.walk))
    | none => .hold s
  | .valid => match x.tr with
    | some t => access t s
    | none => .trap { cause := cPAGE_ABSENT, addr := rec64 } s
  | .stale =>
    match (s.core c).task with
    | some t => .hold (s.retranslate h (BitVec.ofNat 8 kind) rec64 t)
    | none => .hold s

/-! ### Objects -/

/-- The object operand of a barrier or counter instruction (R366): alignment, form, address. `kind` is 0 for a read,
2 for a change. -/
def State.object (s : State) (v : X64) (size kind : Nat) : Use :=
  let c := s.me
  let o := ObjAddr.of v
  let off := if o.abs then o.off else o.va.toNat
  if off % size ≠ 0 then .trap { cause := cMISALIGN, addr := v } s
  else if !objForm v then .trap { cause := cPLACE_RANGE, addr := v, detail := 1 } s
  else if o.abs then
    match s.allot (s.desc c) o.level o.col o.off size with
    | some r => .trap { cause := cPLACE_RANGE, addr := v, detail := BitVec.ofNat 64 r } s
    | none => .key (keyPlace o.level o.col o.off) {} s
  else
    match s.translate (stackOf c) (s.slotOf c) o.va with
    | (.valid t, s) =>
      if !t.allows kind (s.isP1 c) then .trap { cause := cPAGE_PERM, addr := v } s
      else if t.rem then .trap { cause := cPAGE_PERM, addr := v } s
      else match regionOf (t.pa o.va) with
        | .tower k col _ =>
          if layerIn s.layeravail (stackOf col) k then .key (t.pa o.va) t s
          else .trap { cause := cPAGE_ABSENT, addr := v } s
        | _ => .trap { cause := cPAGE_PERM, addr := v } s
    | (e, s) => match (s.core c).task with
      | some t =>
        .hold (s.pageFault c (BitVec.ofNat 8 kind + (if e = .error then 0x80 else 0)) (o.va.setWidth 64) v .object t
          (s.slotOf c))
      | none => .hold s

/-! ### Scopes -/

/-- Columns of a core's group, by the origin and shape of its task (R335). -/
def State.inGroup (s : State) (c col : Nat) : Bool :=
  match s.taskOf c with
  | none => col == c
  | some t =>
    let w := 2 ^ (bitsNat t.card.shape 1 0)
    let h := 2 ^ (bitsNat t.card.shape 3 2)
    let ox := t.origin.toNat % 32
    let oy := t.origin.toNat / 32
    decide (ox ≤ col % 32) && decide (col % 32 < ox + w) && decide (oy ≤ col / 32) && decide (col / 32 < oy + h)

/-- A key lies in the location set of a scope, taken from core `c` (Table 4.2). -/
def State.inScope (s : State) (c : Nat) (scope : BitVec 3) (key : Nat) : Bool :=
  match placeOfKey key with
  | some (_, col, _) =>
    if scope = 0 then col == c
    else if scope = 1 then s.inGroup c col
    else if scope = 2 then stackOf col == stackOf c
    else true
  | none => match regionOf key with
    | .second k => if scope.toNat ≤ 1 then false else if scope = 2 then k == stackOf c else true
    | .hub => decide (3 ≤ scope.toNat)
    | _ => scope == 5

/-- A store's location lies in a scope: a remote one from domain scope on (Table 4.2). -/
def State.storeIn (s : State) (c : Nat) (scope : BitVec 3) (e : Store) : Bool :=
  if e.remote then decide (4 ≤ scope.toNat) else e.pieces.any fun p => s.inScope c scope p.1

/-- The scope an annotated access acts at: the smallest one that holds its own location, when the stated one does
not (R125). -/
def State.widen (s : State) (c : Nat) (scope : BitVec 3) (e : Store) : BitVec 3 :=
  if s.storeIn c scope e then scope
  else ((List.range 6).map (BitVec.ofNat 3)).find? (fun x => decide (scope.toNat ≤ x.toNat) && s.storeIn c x e) |>.getD 5

/-- The scope of an ORD field's .rel, if it has one (Table 5.2). -/
def relOf (ord : BitVec 4) : Option (BitVec 3) :=
  if 9 ≤ ord.toNat ∧ ord.toNat ≤ 14 then some (BitVec.ofNat 3 (ord.toNat - 9)) else none

/-- ORD carries .acq (Table 5.2). -/
def isAcq (ord : BitVec 4) : Bool := decide (1 ≤ ord.toNat) && decide (ord.toNat ≤ 6)

/-! ### Performing and becoming visible -/

/-- A store of a context's agent becomes visible: its log entries first, but for host memory, then its bytes (R117, R414). `none` when the
log is full. -/
def State.commit (s : State) (slot : Slot) (log : Bool) (key : Nat) (bs : List Byte) : Option State :=
  match (if log && inPackage key then s.logLines slot (linesOf key bs.length) else some s) with
  | none => none
  | some s => some ((s.write key bs).touch key true)

/-- Every group of a context is frozen by the runtime's cause (R403, Table 12.3). -/
def State.freezeCtx (s : State) (slot : Slot) : State :=
  { s with tasks := s.tasks.map fun (e : Nat × Task) =>
      if e.2.ctx = slot ∧ (e.2.st = .running ∨ e.2.st = .saving) then (e.1, e.2.freeze (s.freezeCycle e.1) .context) else e }

/-- The runtime's cause ends for every group of a context (Table 12.3). -/
def State.thawCtx (s : State) (slot : Slot) : State :=
  { s with tasks := s.tasks.map fun (e : Nat × Task) =>
      if e.2.ctx = slot then (e.1, { e.2 with frozen := e.2.frozen.filter fun f => f != .context, thawAt := s.cycle }) else e }

/-- A store met a full log: a RUNNING context freezes (R402), and CHECKPOINT_FULL is posted once (R415); `r` says who met it.
(DEDUCED: log entry 74.) -/
def State.logFullBy (s : State) (slot : Slot) (r : TrapRec) : State :=
  let k := s.ctx slot
  if k.logWait then s
  else
    let s := s.modCtx slot fun x => { x with st := if x.st = .running then .frozen else x.st, logWait := true }
    let s := if k.st = .running then (s.backCtx slot).freezeCtx slot else s
    s.record slot { item := .trap { r with cause := cCHECKPOINT_FULL, addr := k.desc.logbase, detail := 0 } }

/-- An access of a core met a full log (R415). -/
def State.logFull (s : State) (slot : Slot) (c : Nat) (pc : VAddr) (st : Stream) : State :=
  s.logFullBy slot
    { stream := BitVec.ofNat 2 st.num, core := BitVec.ofNat 10 c, tpc := pc
      queue := ((s.taskOf c).map fun x => BitVec.ofNat 18 x.queue).getD 0
      card := ((s.taskOf c).map (·.cardNo)).getD 0 }

/-- A SeqAdd of the hub met a full log: no core's instruction caused the record, unless the add names one (R405, R415). -/
def State.addFull (s : State) (slot : Slot) (a : HubAdd) : State :=
  s.logFullBy slot
    { nocore := a.who.isNone, core := (a.who.map (·.1)).getD 0, tpc := (a.who.map (·.2)).getD 0, queue := a.queue, card := a.card }

/-- The byte that the C-stream's store buffer holds latest for a key: of this package, or of an owner node. Stores below `lo` are
older than a pending atomic on the location (R120, R121). -/
def forwardByte (st : List Store) (node : Option Node) (lo key : Nat) : Option Byte :=
  st.foldl (fun r e =>
    if (if e.remote then some e.node else none) != node || decide (e.no < lo) then r
    else e.pieces.foldl (fun r p => if p.1 ≤ key ∧ key < p.1 + p.2.length then some (p.2.getD (key - p.1) 0) else r) r) none

/-- The bytes of a read's pieces that forwarding serves, by their offset in the value. -/
def forwards (st : List Store) (node : Option Node) (lo : Nat) (pieces : List (Nat × Nat)) : List (Nat × Byte) :=
  let keys := pieces.flatMap fun p => (List.range p.2).map (p.1 + ·)
  (keys.zipIdx).filterMap fun e => (forwardByte st node lo e.1).map (e.2, ·)

/-- The bytes of a read's value. -/
def Read.size (r : Read) : Nat := r.pieces.foldl (fun a p => a + p.2) 0

/-- The bytes of a value with the forwarded ones over it (R121). -/
def Read.withFwd (r : Read) (bs : List Byte) : List Byte := r.fwd.foldl (fun l f => l.set f.1 f.2) bs

/-- Forwarding serves every byte of a read (R121). -/
def Read.forwarded (r : Read) : Bool := r.fwd.length == r.size

/-- The bytes of a read, in order, as its cycle sees them (R79). -/
def State.pieceBytes (s : State) (pieces : List (Nat × Nat)) : List Byte :=
  pieces.flatMap fun p => s.seen p.1 p.2

/-- A load is performed: its value is taken from memory, with the forwarded bytes over it; a poisoned line that it
reads is noted (R83, R117, R121). -/
def State.perform (s : State) (r : Read) : Read × State :=
  if r.forwarded then ({ r with value := some (bytesNat (r.withFwd (natBytes 0 r.size))), at_ := s.cycle }, s)
  else
    let pz := r.pieces.findSome? fun p => poisonIn s p.1 p.2
    ({ r with value := some (bytesNat (r.withFwd (s.pieceBytes r.pieces))), poison := pz.map fun l => BitVec.ofNat 64 (64 * l)
              at_ := s.cycle },
     r.pieces.foldl (fun s p => s.touch p.1 false) s)

/-- A key does not lie in the column `c` (R103, R222): an access to it is performed, or visible, when it has reached its
target. -/
def farKey (c key : Nat) : Bool := match placeOfKey key with
  | some (_, col, _) => col != c
  | none => true

/-! ### The mesh (R101 to R104) -/

/-- The column to which an access of core `c` crosses the mesh, and whether it goes to its L0. -/
def meshTo (c key : Nat) : Option (Nat × Bool) := match placeOfKey key with
  | some (lv, col, _) => if col != c then some (col, lv == 0) else none
  | none => none

/-- An access of core `c` is injected: it follows the earlier ones from its column to the target's (R104). -/
def State.inject (s : State) (c : Nat) (st : Stream) (isLoad : Bool) (no : Nat) (pieces : List Nat) : State :=
  match pieces.findSome? (meshTo c) with
  | some (col, l0) =>
    { s with mesh := s.mesh ++ [{ core := c, stream := st, isLoad := isLoad, no := no, col := col, l0 := l0 }] }
  | none => s

/-- The flit of an access among some. -/
def flitIn (l : List Flit) (c : Nat) (st : Stream) (isLoad : Bool) (no : Nat) : Option Flit :=
  l.find? fun f => f.core == c && f.stream == st && f.isLoad == isLoad && f.no == no

/-- Nothing injected earlier by the same column for the same target is still under way (R104). -/
def State.mayArrive (s : State) (f : Flit) : Bool :=
  (s.mesh.takeWhile (· != f)).all fun g => !(g.core == f.core && g.col == f.col)

/-- Nothing that reached the target before it waits there (R103). -/
def State.mayEnter (s : State) (f : Flit) : Bool :=
  (s.fifo.takeWhile (· != f)).all fun g => !(g.col == f.col && g.l0 == f.l0)

/-- Nothing that the column of core `c` has sent to the column of a key is under way, and nothing waits there: a request that is made now
comes behind all that came before it (R103, R104).
(DEDUCED: log entry 119.) -/
def State.clearTo (s : State) (c key : Nat) : Bool := match meshTo c key with
  | some (col, l0) => (s.mesh.all fun g => !(g.core == c && g.col == col)) && s.fifo.all fun g => !(g.col == col && g.l0 == l0)
  | none => true

/-- A flit leaves the mesh. -/
def State.leaveMesh (s : State) (f : Flit) : State := { s with mesh := s.mesh.filter (· != f) }

/-- Every acquire load of the C-stream is performed: a later access, engine command or token push may go on
(R128). -/
def Core.acquired (k : Core) : Bool := k.cReads.all fun r => !r.acq || r.value.isSome

/-- Every load of the C-stream is performed. -/
def Core.cPerformed (k : Core) : Bool := k.cReads.all fun r => r.value.isSome

/-- No store of a store buffer in a scope is outstanding. -/
def State.drained (s : State) (c : Nat) (scope : BitVec 3) : Bool :=
  (s.core c).cStores.all fun e => !s.storeIn c scope e

/-- What a fence.rel orders before later stores has taken place: its earlier loads are performed, and its earlier stores in its scope are
visible (Table 4.3). -/
def State.relOver (s : State) (c : Nat) (f : BitVec 3 × Nat) : Bool :=
  ((s.core c).cReads.all fun r => decide (f.2 ≤ r.no) || r.value.isSome) &&
    (s.core c).cStores.all fun e => decide (f.2 ≤ e.no) || !s.storeIn c f.1 e

/-- Every fence.rel before access `no` of core `c` that a load has passed allows a later store (R129).
(DEDUCED: log entry 124.) -/
def State.relsOver (s : State) (c no : Nat) : Bool := (s.core c).rels.all fun f => decide (no < f.2) || s.relOver c f

/-- The condition on which fence.rel.S and fence.sc.S complete (Table 4.3).
(DEDUCED: log entry 31.) -/
def State.fenceRel (s : State) (scope : BitVec 3) : Bool :=
  (s.core s.me).cPerformed && s.drained s.me scope && s.relsOver s.me (s.core s.me).accNo

/-- Two stores touch a common byte. -/
def overlap (a b : Store) : Bool :=
  if a.remote || b.remote then a.remote && b.remote && a.node = b.node && a.pa / 64 = b.pa / 64
  else a.pieces.any fun p => b.pieces.any fun q =>
    decide (p.1 < q.1 + q.2.length) && decide (q.1 < p.1 + p.2.length)

/-- Entry `i` of the C-stream's store buffer may become visible now, by the order of its stream: the earlier loads are performed, the
earlier stores that Table 4.1 keeps before it are visible, a release's scope is drained, and the earlier mutating operations of
a session are sent (R120, R127, R428).
(DESIGN CHOICE: log entry 11.) -/
def State.cReady (s : State) (c i : Nat) : Bool :=
  let k := s.core c
  match k.cStores[i]? with
  | none => false
  | some e =>
    let before := k.cStores.take i
    (k.cReads.all fun r => decide (e.no < r.no) || r.value.isSome) &&
    (before.all fun b => !overlap b e && !(s.storeIn c 0 b && s.storeIn c 0 e) &&
      (!(b.remote && e.remote && b.node == e.node) || b.sent)) &&
    s.relsOver c e.no &&
    (match e.rel with
     | none => true
     | some sc => before.all fun b => !s.storeIn c (s.widen c sc e) b)

/-! ### Engine accesses -/

/-- Where an engine access of a virtual address leads (R383, R107, R314). -/
inductive EAddr where
  | key (k : Nat) (log : Bool) (s : State)
  | remote (node : Node) (pa : Nat) (s : State)
  /-- ENGINE_FAULT. -/
  | fault (s : State)
  /-- an absent page or a walk error: true for an error. -/
  | absent (err : Bool) (s : State)

/-- One byte address of an engine item through the stack's cache and walker (R375, R383). -/
def State.engineVa (s : State) (c : Nat) (slot : Slot) (va : VAddr) (kind : Nat) : EAddr :=
  match s.translate (stackOf c) slot va with
  | (.absent, s) => .absent false s
  | (.error, s) => .absent true s
  | (.valid t, s) =>
    if !t.allows kind ((s.ctx slot).desc.priv == 1) then .fault s
    else if t.rem then .remote t.node (t.pa va) s
    else
      let pa := t.pa va
      match regionOf pa with
      | .second _ => .key pa t.log s
      | .tower k col _ => if layerIn s.layeravail (stackOf col) k then .key pa t.log s else .fault s
      | .host => .key pa false s
      | .hub => .fault s
      | .unmapped => .fault s

end Sys2Proof.Machine
end

