-- ==== Sys2Proof/Machine/Operands.lean ====
section
/-! DEFINITION. Operand forms: the registers an instruction reads or writes, for the interlocks of R176, R213 and
R240; immediates and their extensions (R154); rotated row and predicate numbers (R239). -/

namespace Sys2Proof.Machine

/-! ### Immediates -/

/-- A field sign-extended to 64 bits (R154). -/
def sx {n : Nat} (v : BitVec n) : X64 := v.signExtend 64

/-- A field zero-extended to 64 bits (R154). -/
def zx {n : Nat} (v : BitVec n) : X64 := v.setWidth 64

/-! ### C-stream registers of an instruction -/

/-- The x registers that a C-stream instruction reads or writes (R176). -/
def xUses : Instr → List (BitVec 5)
  | .add d a b | .sub d a b | .and d a b | .or d a b | .xor d a b | .shl d a b | .shr d a b | .sar d a b
  | .rotl d a b | .min d a b | .max d a b | .minn d a b | .maxn d a b | .mul d a b | .mulh d a b | .mulhn d a b
  | .div d a b | .divn d a b | .rem d a b | .remn d a b | .adda d a b | .mada d a b _ => [d, a, b]
  | .clz d a | .ctz d a | .popc d a | .sext8 d a | .sext16 d a | .sext32 d a | .zext8 d a | .zext16 d a
  | .zext32 d a | .bfx d a _ _ | .bfxs d a _ _ | .bfi d a _ _ | .shli d a _ | .shri d a _ | .sari d a _
  | .addi d a _ | .andi d a _ | .ori d a _ | .xori d a _ => [d, a]
  | .lim d _ | .lih d _ _ | .jrd d _ | .tkrecv d _ | .hrd d _ | .ckpt d | .csrr d _ => [d]
  | .cmp _ a b _ => [a, b]
  | .cmpi _ a _ _ | .prepx _ a | .loop _ a _ | .tksend a _ | .csrw a _ => [a]
  | .ldxPlace d a _ _ _ | .stxPlace d a _ _ _ => [d, a]
  | .ldxHandle d _ b _ _ _ | .stxHandle d _ b _ _ _ => [d, b]
  | .ldxpPlace d a _ _ | .stxpPlace d a _ _ => [d, d + 1, a]
  | .ldxpHandle d _ b _ _ | .stxpHandle d _ b _ _ => [d, d + 1, b]
  | .ataddPlace d a b _ _ | .atswpPlace d a b _ _ | .atcasPlace d a b _ _ | .atminPlace d a b _ _
  | .atmaxPlace d a b _ _ | .atandPlace d a b _ _ | .atorPlace d a b _ _ | .atxorPlace d a b _ _
  | .atfaddPlace d a b _ => [d, a, b]
  | .ataddHandle d _ b _ _ | .atswpHandle d _ b _ _ | .atcasHandle d _ b _ _ | .atminHandle d _ b _ _
  | .atmaxHandle d _ b _ _ | .atandHandle d _ b _ _ | .atorHandle d _ b _ _ | .atxorHandle d _ b _ _
  | .atfaddHandle d _ b _ => [d, b, b + 1]
  | .kinv a | .ckwait a | .ctxsave a | .ctxrest a | .lsclose a | .lsync a | .lretire a | .poolev a | .trans _ a => [a]
  | .spawn d a | .btest d a | .sqrd d a | .poolscan d a | .lsopen d a => [d, a]
  | .kick a b | .bari a b | .barm a b | .bara a b | .bwait a b | .sqadd a b | .hshoot a b | .poolup a b | .gang a b
  | .iinv a b => [a, b]
  | .sqwait a b c => [a, b, c]
  | .splnt a => [a, a + 1]
  | .cpyPlace a | .cpyxPlace a | .cpymPlace a | .strmPlace a | .fexPlace a | .scrbPlace a | .nvrdPlace a
  | .nvwrPlace a | .credPlace a => [a]
  | .cpyHandle _ b | .cpyxHandle _ b | .cpymHandle _ b | .strmHandle _ b | .fexHandle _ b | .scrbHandle _ b
  | .nvrdHandle _ b | .nvwrHandle _ b | .credHandle _ b => [b]
  | _ => []

/-- The instruction is a division (R176). -/
def isDiv : Instr → Bool
  | .div .. | .divn .. | .rem .. | .remn .. => true
  | _ => false

/-- A read that is outstanding will write xr. -/
def readWrites (r : BitVec 5) (e : Read) : Bool :=
  match e.dst with
  | .x d _ _ => d = r && r != 0
  | .xPair d => d = r || d + 1 = r
  | _ => false

/-- Every x register that a C-stream instruction names holds its final value, and no division is in progress when it
is one (R176). -/
def Core.cReadyFor (k : Core) (i : Instr) : Bool :=
  (xUses i).all (fun r => !(k.cReads.any (readWrites r)) && (match k.div with | some (d, _) => d != r | none => true))
    && !(isDiv i && k.div.isSome)

/-! ### The row file (R212) -/

/-- A row of the row file as a read of this cycle sees it: one that is written in the cycle has its value from before it (R212). -/
def Core.rowSeen (k : Core) (r : Nat) : Row :=
  match k.rowsThen.find? fun e => e.1 == r with
  | some e => e.2
  | none => vget k.rows r 0

/-- A row of the row file is written (R212). -/
def Core.putRow (k : Core) (r : Nat) (v : Row) : Core :=
  { k with rows := vset k.rows r v
           rowsThen := if k.rowsThen.any (fun e => e.1 == r) then k.rowsThen else (r, vget k.rows r 0) :: k.rowsThen }

/-! ### A-stream rows of an instruction -/

/-- Rot(N): the physical row that a row number names (R239). -/
def rot (vrot : BitVec 4) (n : Nat) : Nat := if n < 48 then n else 48 + (n - 48 + vrot.toNat) % 16

/-- The physical predicate that a predicate number names (R239). -/
def rotP (prot : BitVec 2) (n : Nat) : Nat := if n < 4 then n else 4 + (n - 4 + prot.toNat) % 4

/-- The row numbers that an A32 vector instruction reads or writes, before rotation (R240). -/
def aRows : Instr → List Nat
  | .vadd f | .vsub f | .vadds f | .vsubs f | .vavg f | .vmul f | .vmulh f | .vmulq f | .vmac f | .vabd f | .vmin f
  | .vmax f | .vand f | .vor f | .vxor f | .vshl f | .vshr f | .vsar f | .vshrr f | .vshls f | .vsel f | .vperm f
  | .vzip f | .vunzip f | .fadd f | .fsub f | .fmul f | .ffma f | .fmin f | .fmax f =>
    [f.vd.toNat, f.va.toNat, f.vb.toNat]
  | .vabs f | .vnot f | .vclz f | .vpopc f | .fabs f | .fneg f | .vrsum f | .vrmax f | .vrmin f =>
    [f.vd.toNat, f.va.toNat]
  | .vcvtRne f | .vcvtRz f | .vcvtRu f | .vcvtRd f | .vcvtSr f | .vnarrow f | .vwiden f | .pxunp f | .pxpak f =>
    [f.vd.toNat, f.va.toNat]
  | .vslide f | .vbcast f => [f.vd.toNat, f.va.toNat]
  | .vcmp f | .fcmp f => [f.va.toNat, f.vb.toNat]
  | .pcnt vd _ _ => [vd.toNat]
  | _ => []

/-- The tile whose 32 rows a matrix word reads or writes (R269). -/
def aTile : Instr → Option (BitVec 1)
  | .mma m _ | .mmas m _ | .mzero m _ => some m
  | _ => none

/-- A physical row has an A-stream write outstanding (R240, R271), or one that is made in this cycle. -/
def Core.rowBusy (k : Core) (r : Nat) : Bool :=
  k.rowsNow.contains r || k.aPend.any (fun p => match p.wr with | .row v _ => v = r | .transient v _ => v = r) ||
    k.mmas.any fun m => r / 32 = m.tile.toNat

/-- Every row that an A32 instruction names has no earlier A-stream write outstanding (R240). -/
def Core.aReadyFor (k : Core) (i : Instr) : Bool :=
  ((aRows i).all fun n => !k.rowBusy (rot k.vrot n)) &&
    match aTile i with
    | some m => (List.range 32).all fun r => !k.rowBusy (32 * m.toNat + r)
    | none => true

/-- The index row of a gather has no earlier L-stream load outstanding (R213). -/
def Core.lReadyFor (k : Core) : Instr → Bool
  | .ldvg _ _ vi _ => k.lReads.all fun r => match r.dst with
      | .row v | .rowWords v => v != vi
      | _ => true
  | _ => true

/-- The interlocks of the stream that issues (R176, R213, R240). -/
def Core.readyFor (k : Core) (st : Stream) (i : Instr) : Bool :=
  match st with
  | .c => k.cReadyFor i
  | .l => k.lReadyFor i
  | .a => k.aReadyFor i
  | .s => true

end Sys2Proof.Machine
end

