-- ==== Sys2Proof/Machine/Planar.lean ====
section
/-! DEFINITION. Planar tiles (R62, R63): the planes of each format, the value of an element, and the planar form of an
element; MX element formats and scales (R46, R47); and the chunk rule of matrix sums (R64 to R68). -/

namespace Sys2Proof.Machine

/-! ### Formats of tiles -/

/-- The element format of an MX code (Table 2.4); another code is its own. -/
def elemFmt (f : Nat) : Nat :=
  if f = 0x14 then 0x0A else if f = 0x15 then 0x0B else if f = 0x16 then 0x0C else if f = 0x17 then 0x0D
  else if f = 0x18 then 0x0E else f

/-- A code of the MX block formats (Table 2.6). -/
def isMx (f : Nat) : Bool := decide (0x14 ≤ f) && decide (f ≤ 0x18)

/-- E of Table 2.11: exponent planes. -/
def planeE (f : Nat) : Nat := match floatFmt f with
  | some ff => ff.e
  | none => 0

/-- p of Table 2.11: significand nibble planes. -/
def planeP (f : Nat) : Nat := match floatFmt f with
  | some ff => (ff.m + 4) / 4
  | none => fmtBits f / 4

/-- Bytes of a tile (Table 2.11). -/
def tileBytes (f : Nat) : Nat := 512 * (2 + planeE f) + 2048 * planeP f

/-- 16-byte pieces of a tile of a format (R272). -/
def tilePieces (f : Nat) : Nat := tileBytes (elemFmt f) / 16

/-- Tiles of A that KLEN covers (R266). -/
def aTiles (klen : Nat) : Nat := (klen + 63) / 64

/-- Codes of Table 2.11. -/
def isTileFmt (f : Nat) : Bool := decide (f ≤ 5) || (decide (0x0A ≤ f) && decide (f ≤ 0x11))

/-! ### Elements -/

/-- One element of a tile (R62): special bit, sign bit, exponent bits and S. -/
structure PElem where
  special : Bool
  neg : Bool
  e : Nat
  sig : Nat
  deriving DecidableEq, Repr

/-- Bit `j` of row `i` of a bit plane that starts at byte `base` of a tile. -/
def planeBit (t base i j : Nat) : Bool := t.testBit (8 * base + 64 * i + j)

/-- Nibble `j` of row `i` of a nibble plane that starts at byte `base` (R63). -/
def planeNib (t base i j : Nat) : Nat := t >>> (8 * base + 256 * i + 4 * j) % 16

/-- Bits from a function, bit 0 first. -/
def bitsOf (f : Nat → Bool) (n : Nat) : Nat := (List.range n).foldl (fun a b => a + (if f b then 2 ^ b else 0)) 0

/-- Element (i, j) of a tile of format `f`, the tile a little-endian number (R63). -/
def planarGet (f t i j : Nat) : PElem :=
  let e := planeE f
  { special := planeBit t 0 i j, neg := planeBit t 512 i j
    e := bitsOf (fun b => planeBit t (1024 + 512 * b) i j) e
    sig := (List.range (planeP f)).foldl (fun a q => a + planeNib t (1024 + 512 * e + 2048 * q) i j * 16 ^ q) 0 }

/-- The value of a planar element (R62). -/
def PElem.val (f : Nat) (x : PElem) : Val :=
  if x.special then (if x.sig ≠ 0 then .nan else .inf x.neg)
  else match floatFmt f with
    | some ff => .fin x.neg x.sig ((Nat.max x.e 1 : Int) - ff.bias - (4 * planeP f - 1))
    | none => .fin x.neg x.sig 0

/-- The exponent of an element (R65); zeros, infinities and NaNs have none. R65 gives it for normal and for subnormal values. An element
that a program has written with exponent bits other than 0 and a clear hidden bit is neither: its exponent here is that of its
value, 2^X ≤ |v| < 2^(X+1), even below 1 − bias; 1 − bias is that of exponent bits 0 alone.
(DESIGN CHOICE: log entry 111.) -/
def PElem.exp (f : Nat) (x : PElem) : Option Int :=
  if x.special || x.sig == 0 then none
  else match floatFmt f with
    | some ff => some (if x.e = 0 then 1 - ff.bias else (x.sig.log2 : Int) + x.e - ff.bias - (4 * planeP f - 1))
    | none => some x.sig.log2

/-- The planar form of an encoding of format `f` (R62). R62 gives a NaN its special bit, its exponent bits and S, and no sign: the sign bit
is that of the encoding.
(DESIGN CHOICE: log entry 112.) -/
def planarOf (f bits : Nat) : PElem :=
  match floatFmt f with
  | some ff =>
    let pad := 4 * planeP f - 1 - ff.m
    let s := decide (bits / 2 ^ (ff.e + ff.m) % 2 = 1)
    let ef := bits / 2 ^ ff.m % 2 ^ ff.e
    let fr := bits % 2 ^ ff.m
    match ff.decode bits with
    | .nan => ⟨true, s, 2 ^ ff.e - 1, 2 ^ (4 * planeP f - 1)⟩
    | .inf _ => ⟨true, s, 2 ^ ff.e - 1, 0⟩
    | .fin .. => ⟨false, s, ef, (if ef = 0 then fr else 2 ^ ff.m + fr) * 2 ^ pad⟩
  | none =>
    let v := intOf (isSigned f) (fmtBits f) bits
    ⟨false, decide (v < 0), 0, v.natAbs⟩

/-- The encoding in format `f` that CONV 2 writes for an element (R280). -/
def planarTo (f : Nat) (x : PElem) : Nat :=
  match floatFmt f with
  | some ff => (ff.roundTo (x.val f) 0 0 0).1
  | none => wrapTo (fmtBits f) (toIntFmt f (x.val f) 1 0 0).1

/-- The bits of a tile whose elements are given: (position, bit) pairs of the planes, as a sum. -/
def planarTile (f : Nat) (g : Nat → Nat → PElem) : Nat :=
  let e := planeE f
  (List.range 64).foldl (fun a i => (List.range 64).foldl (fun a j =>
    let x := g i j
    let bit (base : Nat) (b : Bool) : Nat := if b then 2 ^ (8 * base + 64 * i + j) else 0
    a + bit 0 x.special + bit 512 x.neg +
      (List.range e).foldl (fun a b => a + bit (1024 + 512 * b) (x.e.testBit b)) 0 +
      (List.range (planeP f)).foldl (fun a q =>
        a + (x.sig / 16 ^ q % 16) * 2 ^ (8 * (1024 + 512 * e + 2048 * q) + 256 * i + 4 * j)) 0) a) 0

/-! ### Scales and products -/

/-- An operand of a matrix sum: its value and its exponent. -/
abbrev MElem := Val × Option Int

/-- An element with its MX scale (R47, R65). -/
def scaleElem (x : MElem) (scale : Option Nat) : MElem :=
  match scale with
  | none => x
  | some 255 => (.nan, none)
  | some sc =>
    let d : Int := (sc : Int) - 127
    ((match x.1 with
      | .fin s m e => .fin s m (e + d)
      | v => v), x.2.map (· + d))

/-- The largest exponent of a row or column (R64). -/
def maxExp (l : List MElem) : Option Int :=
  l.foldl (fun a x => match a, x.2 with
    | some p, some q => some (max p q)
    | none, q => q
    | p, none => p) none

/-- A finite product in units of 2^q by floor, and whether bits were discarded (R64). -/
def windowed (neg : Bool) (m : Nat) (e q : Int) : Int × Bool :=
  let v : Int := if neg then -(m : Int) else m
  if q ≤ e then (v * 2 ^ (e - q).toNat, false) else (v / 2 ^ (q - e).toNat, decide (m % 2 ^ (q - e).toNat ≠ 0))

/-- ChunkSum (R64 to R67), with the flags of R68. -/
def chunkSum (a b : List MElem) : Val × Flags :=
  let prods := (a.zip b).map fun x => mulVal x.1.1 x.2.1
  let invalid := prods.foldl (fun f p => f ||| p.2) (0 : Flags)
  let isNan := prods.any fun p => p.1 == .nan
  let pos := prods.any fun p => p.1 == .inf false
  let neg := prods.any fun p => p.1 == .inf true
  let both := flagIf (pos && neg) fNV
  if isNan || pos || neg then
    (if isNan || (pos && neg) then .nan else .inf neg, invalid ||| both)
  else match maxExp a, maxExp b with
    | some xa, some xb =>
      let q := xa + xb - 60
      let t := prods.foldl (fun (s : Int × Bool) p => match p.1 with
        | .fin sg m e =>
          let w := windowed sg m e q
          (s.1 + w.1, s.2 || w.2)
        | _ => s) (0, false)
      (.fin (decide (t.1 < 0)) t.1.natAbs q, flagIf t.2 fNX)
    | _, _ => (.fin false 0 0, 0)

/-- One accumulator element after a chunk (R64 step 6, R67, R68). -/
def accumulate (acc : Nat) (c : Val × Flags) : Nat × Flags :=
  let r := fmtW56.finish (addVal (fmtW56.decode acc) c.1 0) 0 0 0
  (r.1, r.2 ||| c.2)

end Sys2Proof.Machine
end

