-- ==== Sys2Proof/Machine/Tokens.lean ====
section
/-! DEFINITION. The twelve token queues: popping and pushing (R22 to R24), the order that a token edge carries (R132), the
use of a C-stream payload (R215), tksend and tkrecv (R198). A token that carries no payload holds, as the model's own
mark, the number of the first access after the instruction that pushed it. -/

namespace Sys2Proof.Machine

def Core.setTq (k : Core) (src dst : Nat) (q : List X64) : Core := { k with toks := vset k.toks (4 * src + dst) q }

/-- Every core-scope store of the S-stream of a core below a number is visible, and a read of this cycle sees it (R79, R132, R134). -/
def State.shownBefore (s : State) (c n : Nat) : Bool :=
  ((s.core c).sStores.all fun e => decide (n ≤ e.no) || !s.storeIn c 0 e) && (s.core c).shown.all fun m => decide (n ≤ m)

/-- A matrix word has read all of its tiles (R272). -/
def Mma.done (x : Mma) : Bool := decide (aTiles x.klen * tilePieces x.fa.toNat ≤ x.took.length)

/-- What a token edge orders has come about (R132): the loads and the core-scope stores of the pushing data stream up to
the push; of the A-stream, the reads of the matrix words before it (R272). -/
def State.edge (s : State) (c src : Nat) (mark : X64) : Bool :=
  let k := s.core c
  if src = 1 then k.lReads.all fun r => decide (mark.toNat ≤ r.no) || r.value.isSome
  else if src = 3 then s.shownBefore c mark.toNat
  else if src = 2 then
    (k.mmas.all fun x => decide (mark.toNat ≤ x.no) || x.done) && k.mwls.all fun w => decide (mark.toNat ≤ w.no) || w.item.isSome
  else true

/-- The tokens of a queue that this cycle can pop: those pushed in earlier cycles (R24). -/
def Core.poppable (k : Core) (src dst : Nat) : List X64 :=
  (k.tq src dst).take ((k.tq src dst).length - vget k.tokNew (4 * src + dst) 0)

/-- Removes the oldest token. -/
def Core.tqPop (k : Core) (src dst : Nat) : Core := k.setTq src dst (k.tq src dst).tail

/-- Appends a token: from the C-stream its payload, from the A-stream the number of the first matrix word after the instruction that
pushes, else that of the first access after it. -/
def Core.tqPush (k : Core) (src dst : Nat) (v : X64) : Core :=
  { k.setTq src dst (k.tq src dst ++ [v]) with tokNew := vset k.tokNew (4 * src + dst) (vget k.tokNew (4 * src + dst) 0 + 1) }

/-- Entries of the scale queue, those on their way included (R224). -/
def Core.scaleCount (k : Core) : Nat := k.scales.length + (k.lReads.filter fun (r : Read) => r.dst == .scale).length

/-- Why an instruction that pops may not begin, if it may not. -/
def State.popWait (s : State) (c src dst : Nat) : Option Why :=
  match (s.core c).poppable src dst with
  | [] => some (.token src dst)
  | m :: _ => if s.edge c src m then none else some .other

/-- The pop field's token is taken (R23). -/
def Core.tokPop (k : Core) (st : Stream) (t : Tok) : Core :=
  if t.pop = 0 then k else k.tqPop (tokOther st t.pop) st.num

/-- The push field's token is pushed (R23): `mark` is the number of the first access after the instruction that pushes (R132).
(DESIGN CHOICE: log entry 15.) -/
def Core.tokPush (k : Core) (st : Stream) (push : BitVec 2) (mark : Nat) : Core :=
  if push = 0 then k else k.tqPush st.num (tokOther st push) (BitVec.ofNat 64 mark)

/-- An instruction that has issued is about to complete and its push finds the queue full: its stream stalls (R24). -/
def Core.owe (k : Core) (st : Stream) (push : BitVec 2) (pc : VAddr) : Core :=
  let q := k.seq st
  let dst := tokOther st push
  if q.due.any fun d => d.pc = pc ∧ d.dst = dst then k else k.setSeq st { q with due := q.due ++ [{ pc := pc, dst := dst }] }

/-- The push of an instruction that completes now, and the end of the stall that it caused (R24); without room, which none of its member's
stopped streams will make, its token does not move (R322). -/
def Core.pushLate (k : Core) (st : Stream) (push : BitVec 2) (pc : VAddr) (mark : Nat) : Core :=
  let q := k.seq st
  let k := k.setSeq st { q with due := q.due.filter fun d => !(d.pc == pc && d.dst == tokOther st push) }
  if k.tqFull st.num (tokOther st push) then k else k.tokPush st push mark

/-- The payload that an instruction receives: of a token from the C-stream only (R22, R215). -/
def State.payload (s : State) (t : Tok) : Option X64 :=
  if t.pop ≠ 0 ∧ tokOther s.st t.pop = 0 then ((s.core s.me).tq 0 s.st.num).head? else none

/-- Why the token fields hold an instruction back, if they do: its pop, or its push when it completes as it issues (R24).
(DEDUCED: log entry 14.) -/
def State.tokWait (s : State) (t : Tok) (late : Bool) : Option Why :=
  match (if t.pop = 0 then none else s.popWait s.me (tokOther s.st t.pop) s.st.num) with
  | some w => some w
  | none =>
    if late || (s.core s.me).tokRoom s.st t.push then none else some (.token s.st.num (tokOther s.st t.push))

/-- One execution of the A-stream has issued: every transient window is one execution shorter (R241).
(DEDUCED: log entry 22.) -/
def Core.age (k : Core) : Core :=
  { k with bypass := k.bypass.map fun b => { b with left := b.left - 1 }
           aPend := k.aPend.map fun p => { p with left := p.left - 1 } }

/-- The token moves of an instruction that completes: its pop, and its push unless it completes later; an instruction
of the A-stream counts as one execution of the transient windows. -/
def State.tokMove (s : State) (t : Tok) (late : Bool) : State :=
  s.modCore s.me fun k =>
    let k := if s.st = .a then k.age else k
    let k := k.tokPop s.st t
    if late then k else k.tokPush s.st t.push (if s.st = .a then k.matNo else k.accNo)

/-- An instruction with token fields: it stalls on its queues, executes with its payload, and moves its tokens when it
completes. A stall or a trap of its body moves no token (R23, R24, R231, R260). -/
def State.tokRun (s : State) (t : Tok) (late : Bool) (body : Option X64 → Res) : Res :=
  match s.tokWait t late with
  | some w => .wait s w
  | none =>
    match body (s.payload t) with
    | .ok s' => .ok (s'.tokMove t late)
    | .go s' a => .go (s'.tokMove t late) a
    | r => r

/-- The pop of an instruction that then stalls for its own completion: it takes place once, before the instruction begins (R23). -/
def State.tokBegin (s : State) (t : Tok) : State ⊕ Why :=
  if t.pop = 0 ∨ (s.seq s.me s.st).popped.isSome then .inl s
  else
    let src := tokOther s.st t.pop
    match s.popWait s.me src s.st.num with
    | some w => .inr w
    | none =>
      let v := (((s.core s.me).tq src s.st.num).head?).getD 0
      .inl ((s.modCore s.me fun k => k.tqPop src s.st.num).modSeq s.me s.st fun q => { q with popped := some (src, v) })

/-- An instruction that stalls for its own completion has completed but for its push: it pushes, or waits for room (R23, R24). -/
def State.tokEnd (s : State) (push : BitVec 2) : Res :=
  if (s.core s.me).tokRoom s.st push then .ok (s.modCore s.me fun k => k.tokPush s.st push k.accNo)
  else .wait (s.modSeq s.me s.st fun q => { q with met := true }) (.token s.st.num (tokOther s.st push))

/-- tksend xa >t (R198): the loads before it are performed and the core-scope stores before it are visible (R132). -/
def execTksend (a : BitVec 5) (t : BitVec 2) (s : State) : Out :=
  let dst := tokOther .c t
  .next (s.finish
    (if !s.fenceRel 0 then .wait s .other
     else if (s.core s.me).tqFull 0 dst then .wait s (.token 0 dst)
     else .ok (s.modCore s.me fun k => k.tqPush 0 dst (k.getX a))))

/-- tkrecv xd <t (R198): xd receives the number of tokens left, less those pushed in this cycle, which come after the pop (R24). -/
def execTkrecv (d : BitVec 5) (t : BitVec 2) (s : State) : Out :=
  let src := tokOther .c t
  .next (s.finish
    (match s.popWait s.me src 0 with
     | some w => .wait s w
     | none =>
       .ok (s.modCore s.me fun k =>
         let k := k.tqPop src 0
         k.setX d (BitVec.ofNat 64 (k.poppable src 0).length))))

end Sys2Proof.Machine
end

