-- ==== Sys2Proof/Machine/Lanes.lean ====
section
/-! DEFINITION. What the instructions of the A-stream share: lanes of a row (R235), predicates (R238), rotation (R239), the
bypass network (R241), the write of a result now or later (R240), and the element-wise forms over which every vector
instruction is written. -/

namespace Sys2Proof.Machine

/-! ### Rows and predicates -/

/-- Lane `i` of width `w` of a row (R235). -/
def lane (r : Row) (w i : Nat) : Nat := r.toNat >>> (w * i) % 2 ^ w

/-- Lanes of width `w` packed upward from bit 0 (R39). -/
def packNat (w : Nat) : List Nat → Nat
  | [] => 0
  | v :: t => v % 2 ^ w + 2 ^ w * packNat w t

/-- Lanes as a row. -/
def packRow (w : Nat) (l : List Nat) : Row := BitVec.ofNat 3584 (packNat w l)

/-- Lanes of width `w` in a row (R36). -/
def lanesIn (w : Nat) : Nat := 3584 / w

/-- Lane `i` of width `w` is active in a predicate (R238). -/
def active (p : PredBits) (w i : Nat) : Bool := p.getLsbD (if w < 8 then i / 2 else w * i / 8)

/-- A predicate from its bits. -/
def predOf (f : Nat → Bool) : PredBits :=
  BitVec.ofNat 448 (packNat 1 ((List.range 448).map fun b => if f b then 1 else 0))

/-- The lanes of width `w` that a predicate bit belongs to: one, or two 4-bit lanes. -/
def lanesOfBit (w b : Nat) : List Nat := if w < 8 then [2 * b, 2 * b + 1] else [8 * b / w]

/-- A row as an A32 instruction reads it: the bypass entry of an open window, else the row file (R241). -/
def Core.rowAt (k : Core) (r : Nat) : Row :=
  match k.bypass.find? fun b => b.row = r && decide (0 < b.left) with
  | some b => b.value
  | none => k.rowSeen r

/-- Row operand `n` of an A32 instruction, rotated (R239). -/
def Core.vrow (k : Core) (n : BitVec 6) : Row := k.rowAt (rot k.vrot n.toNat)

/-- Predicate operand `n`, rotated (R239). -/
def Core.pred (k : Core) (n : BitVec 3) : PredBits := vget k.preds (rotP k.prot n.toNat) 0

/-- VT.FMT and VT.RM (Table 8.1). -/
def Core.fmt (k : Core) : Nat := bitsNat k.vt 4 0
def Core.rm (k : Core) : Nat := bitsNat k.vt 7 5

/-- The lane width under VT (R235). -/
def Core.w (k : Core) : Nat := laneBits k.fmt

/-- The rounding mode of an instruction whose vd row is no random operand (R250, R257). -/
def Core.rmNoSr (k : Core) : Nat := if k.rm = 4 then 0 else k.rm

/-! ### Results -/

/-- What one execution of the A-stream writes. -/
structure AEff where
  row : Option (Nat × Row) := none
  pred : Option (Nat × PredBits) := none
  flags : Flags := 0
  deriving DecidableEq, Repr

/-- An execution over the core's rows; `none` is a breach of VT's rules (R237). -/
abbrev VRun := Core → Option AEff

/-- A row write is made (R241): a transient one opens a window in the bypass network, another one goes to the row file;
either replaces the entry of an open window. -/
def Core.writeRow (k : Core) (transient : Bool) (left r : Nat) (v : Row) : Core :=
  let k := { k with rowsNow := r :: k.rowsNow }
  if transient then
    { k with bypass := k.bypass.filter (fun b => b.row != r) ++ [⟨r, v, left⟩] }
  else
    { k.putRow r v with
      bypass := k.bypass.map fun b => if b.row = r ∧ 0 < b.left then { b with value := v } else b }

/-- Flags set in VSTAT in this cycle (R60, R61). -/
def Core.setFlags (k : Core) (f : Flags) : Core := { k with vstat := k.vstat ||| f, vstatNow := k.vstatNow ||| f }

/-- The effect of an execution is made now. -/
def Core.commitA (k : Core) (transient : Bool) (left : Nat) (e : AEff) : Core :=
  let k := k.setFlags e.flags
  let k := match e.pred with
    | some (p, v) => { k with preds := vset k.preds p v }
    | none => k
  match e.row with
  | some (r, v) => k.writeRow transient left r v
  | none => k

/-- The effect of an execution of latency `lat` that issues in cycle `now`: made at issue, or outstanding until its write cycle (R240). -/
def Core.emit (k : Core) (now lat : Nat) (transient : Bool) (push : BitVec 2) (pc : VAddr) (e : AEff) : Core :=
  if lat ≤ 1 then k.commitA transient 4 e
  else match e.row with
    | some (r, v) =>
      { k with aPend := k.aPend ++
        [{ wr := if transient then .transient r v else .row r v, flags := e.flags, push := push, pc := pc
           lat := lat, left := 4, at_ := now, mark := k.matNo }] }
    | none => k

/-- A vector instruction of the A-stream (R237, R240): its tokens, its issue check and its effect. -/
def State.vec (s : State) (tok : Tok) (lat : Nat) (t : BitVec 1) (run : VRun) : Out :=
  .next (s.finish (s.tokRun tok (decide (1 < lat)) fun _ =>
    match run (s.core s.me) with
    | none => .trap (s.illegal true)
    | some e => .ok (s.modCore s.me fun k => k.emit s.cycle lat (t == 1) tok.push (s.seq s.me .a).pc e)))

/-! ### Element-wise forms -/

/-- The lanes of a row computed lane by lane: an inactive lane keeps the old row's value and sets no flag (R238, R60). -/
def mapLanes (w n : Nat) (p : PredBits) (old : Row) (f : Nat → Nat × Flags) : Row × Flags :=
  let l := (List.range n).map fun i => if active p w i then f i else (lane old w i, 0)
  (packRow w (l.map (·.1)), l.foldl (fun a x => a ||| x.2) 0)

/-- The destination of an instruction with a row result. -/
def Core.toRow (k : Core) (vd : BitVec 6) (r : Row × Flags) : AEff :=
  { row := some (rot k.vrot vd.toNat, r.1), flags := r.2 }

/-- The integer view of VT's type is signed (R235). -/
def Core.signed (k : Core) : Bool := !(isInt k.fmt && !isSigned k.fmt)

/-- Range of the integer view. -/
def Core.lo (k : Core) : Int := if k.signed then -(2 ^ (k.w - 1) : Int) else 0
def Core.hi (k : Core) : Int := if k.signed then (2 ^ (k.w - 1) : Int) - 1 else (2 ^ k.w : Int) - 1

/-- Lane `i` of a row in the integer view (R235). -/
def Core.ilane (k : Core) (r : Row) (i : Nat) : Int := intOf k.signed k.w (lane r k.w i)

/-- An integer result written modulo 2^w (R247). -/
def Core.wrap (k : Core) (v : Int) : Nat × Flags := (wrapTo k.w v, 0)

/-- Sat of an integer result (R56). -/
def Core.sat (k : Core) (v : Int) : Nat × Flags := (wrapTo k.w (clip k.lo k.hi v), clipFlag k.lo k.hi v)

/-- A V3 integer instruction: `g` takes the lane's old value, a and b in the integer view (R247). -/
def runInt3 (f : V3) (g : Core → Int → Int → Int → Nat × Flags) : VRun := fun k =>
  let d := k.vrow f.vd
  let a := k.vrow f.va
  let b := k.vrow f.vb
  some (k.toRow f.vd (mapLanes k.w (lanesIn k.w) (k.pred f.p) d fun i => g k (k.ilane d i) (k.ilane a i) (k.ilane b i)))

/-- A V3 instruction on lane bits: `g` takes the lane number and the rows a and b (R249). -/
def runBits3 (f : V3) (g : Core → Row → Row → Nat → Nat) : VRun := fun k =>
  let d := k.vrow f.vd
  let a := k.vrow f.va
  let b := k.vrow f.vb
  some (k.toRow f.vd (mapLanes k.w (lanesIn k.w) (k.pred f.p) d fun i => (g k a b i, 0)))

/-- A V2 instruction on lane bits. -/
def runBits2 (f : V2) (g : Core → Nat → Nat) : VRun := fun k =>
  let d := k.vrow f.vd
  let a := k.vrow f.va
  some (k.toRow f.vd (mapLanes k.w (lanesIn k.w) (k.pred f.p) d fun i => (g k (lane a k.w i), 0)))

/-- A VI instruction on lane bits: `g` takes the row a and the lane number. -/
def runBitsI (f : VI) (g : Core → Row → Nat → Nat) : VRun := fun k =>
  let d := k.vrow f.vd
  let a := k.vrow f.va
  some (k.toRow f.vd (mapLanes k.w (lanesIn k.w) (k.pred f.p) d fun i => (g k a i, 0)))

/-- A V3 floating-point instruction (R250): `g` takes the format, and the encodings of the old lane, a and b. -/
def runFp3 (f : V3) (g : Core → FFmt → Nat → Nat → Nat → Nat × Flags) : VRun := fun k =>
  (floatFmt k.fmt).map fun ff =>
    let d := k.vrow f.vd
    let a := k.vrow f.va
    let b := k.vrow f.vb
    k.toRow f.vd (mapLanes k.w (lanesIn k.w) (k.pred f.p) d fun i => g k ff (lane d k.w i) (lane a k.w i) (lane b k.w i))

/-- A V2 floating-point instruction (R251). -/
def runFp2 (f : V2) (g : FFmt → Nat → Nat) : VRun := fun k =>
  (floatFmt k.fmt).map fun ff =>
    let d := k.vrow f.vd
    let a := k.vrow f.va
    k.toRow f.vd (mapLanes k.w (lanesIn k.w) (k.pred f.p) d fun i => (g ff (lane a k.w i), 0))

/-- A result rounded with VT.RM; under .sr the random value is the old lane of vd (R250, R54). -/
def Core.roundF (k : Core) (ff : FFmt) (v : Val × Flags) (d : Nat) : Nat × Flags :=
  ff.finish v k.rm d (Nat.min k.w 16)

/-- A compare into a predicate (R252): `g` takes the lanes of a and b. -/
def runCmp (f : VC) (g : Core → Nat → Nat → Bool) : VRun := fun k =>
  let a := k.vrow f.va
  let b := k.vrow f.vb
  let gov := k.pred f.p
  let old := k.pred f.pd
  let res (i : Nat) : Bool := g k (lane a k.w i) (lane b k.w i)
  some { pred := some (rotP k.prot f.pd.toNat, predOf fun x =>
    if (lanesOfBit k.w x).all fun i => active gov k.w i then (lanesOfBit k.w x).all res else old.getLsbD x) }

/-- A conversion (R255): the result lanes of width `wd` come from the source lanes, and lane i is active as source lane i
is; `n` result lanes are produced, and the bits above them are 0. -/
def runConvert (f : VF) (mode : Core → Nat) (sat : Bool) (n : Core → Nat) : VRun := fun k =>
  let d := k.vrow f.vd
  let a := k.vrow f.va
  let p := k.pred f.p
  let dst := f.fmt.toNat
  let wd := laneBits dst
  let l := (List.range (n k)).map fun i =>
    if active p k.w i then convertLane (lane a k.w i) k.fmt dst (mode k) (lane d wd i) sat else (lane d wd i, 0)
  some (k.toRow f.vd (packRow wd (l.map (·.1)), l.foldl (fun x y => x ||| y.2) 0))

/-- A reduction (R257): `id` is the inactive lane's encoding and `op` combines two encodings with their flags. -/
def runReduce (f : V2) (id : Core → Nat) (op : Core → Nat × Flags → Nat × Flags → Nat × Flags) : VRun := fun k =>
  let d := k.vrow f.vd
  let a := k.vrow f.va
  let p := k.pred f.p
  let vals := (List.range (lanesIn k.w)).map fun i => (if active p k.w i then lane a k.w i else id k, (0 : Flags))
  match pairTree (op k) 10 vals with
  | v :: _ => some (k.toRow f.vd (BitVec.ofNat 3584 (d.toNat - lane d k.w 0 + v.1), v.2))
  | [] => none

end Sys2Proof.Machine
end

