-- ==== Sys2Proof/Machine/Integer.lean ====
section
/-! DEFINITION. The integer, immediate, address and bit-field instructions of the C-stream (R177 to R181). None traps and
none sets a flag. -/

namespace Sys2Proof.Machine

/-- xd of the issuing core is written, and the C-stream goes on. -/
def State.setAdv (s : State) (d : BitVec 5) (v : X64) : Out := .next (s.finish (.ok (s.setX d v)))

/-- The count of zero bits above the highest one bit (R177). -/
def clz64 (a : X64) : X64 := BitVec.ofNat 64 (if a = 0 then 64 else 63 - a.toNat.log2)

/-- The count of zero bits below the lowest one bit (R177). -/
def ctz64 (a : X64) : X64 := BitVec.ofNat 64 (if a = 0 then 64 else (a &&& -a).toNat.log2)

/-- The count of one bits of a number's low `n` bits. -/
def popcount (a : Nat) : Nat → Nat
  | 0 => 0
  | n + 1 => a % 2 + popcount (a / 2) n

/-- The high 64 bits of a product of two s64 (R177). -/
def mulhS (a b : X64) : X64 := BitVec.ofInt 64 (a.toInt * b.toInt / 2 ^ 64)

/-- The high 64 bits of a product of two n64 (R177). -/
def mulhN (a b : X64) : X64 := BitVec.ofNat 64 (a.toNat * b.toNat / 2 ^ 64)

/-- div (R177, R178): a zero divisor gives −1, and −2^63 ÷ −1 gives −2^63. -/
def divS (a b : X64) : X64 := if b = 0 then BitVec.allOnes 64 else a.sdiv b

/-- divn (R177, R178): a zero divisor gives 2^64 − 1. -/
def divN (a b : X64) : X64 := if b = 0 then BitVec.allOnes 64 else a / b

/-- rem (R177, R178): a zero divisor gives a; the result takes the sign of a. -/
def remS (a b : X64) : X64 := if b = 0 then a else a.srem b

/-- remn (R177, R178): a zero divisor gives a. -/
def remN (a b : X64) : X64 := if b = 0 then a else a % b

/-- Bfx (R181). -/
def bfx64 (a : X64) (pos w : Nat) : X64 := if w = 0 then 0 else (a >>> pos) &&& BitVec.ofNat 64 (2 ^ w - 1)

/-- Bfxs (R181): bits above 63 read as a[63]. -/
def bfxs64 (a : X64) (pos w : Nat) : X64 :=
  if w = 0 then 0 else ((a.sshiftRight pos) <<< (64 - w)).sshiftRight (64 - w)

/-- Bfi (R181): bits beyond 63 are dropped. -/
def bfi64 (d a : X64) (pos w : Nat) : X64 :=
  let m : X64 := BitVec.ofNat 64 (2 ^ w - 1) <<< pos
  (d &&& ~~~ m) ||| ((a <<< pos) &&& m)

/-- A 56-bit virtual address in a register (R180). -/
def va56 (v : X64) : X64 := v &&& BitVec.ofNat 64 (2 ^ 56 - 1)

/-- lih (R179): the halfword `q` is replaced. -/
def lih64 (d : X64) (q : Nat) (imm : BitVec 16) : X64 :=
  (d &&& ~~~ ((0xFFFF : X64) <<< (16 * q))) ||| (imm.setWidth 64 <<< (16 * q))

/-- add xd, xa, xb: a + b (R177). -/
def execAdd (d a b : BitVec 5) (s : State) : Out :=
  let a := s.x a
  let b := s.x b
  s.setAdv d (a + b)

/-- sub xd, xa, xb: a − b (R177). -/
def execSub (d a b : BitVec 5) (s : State) : Out :=
  let a := s.x a
  let b := s.x b
  s.setAdv d (a - b)

/-- and xd, xa, xb: a & b (R177). -/
def execAnd (d a b : BitVec 5) (s : State) : Out :=
  let a := s.x a
  let b := s.x b
  s.setAdv d (a &&& b)

/-- or xd, xa, xb: a | b (R177). -/
def execOr (d a b : BitVec 5) (s : State) : Out :=
  let a := s.x a
  let b := s.x b
  s.setAdv d (a ||| b)

/-- xor xd, xa, xb: a ^ b (R177). -/
def execXor (d a b : BitVec 5) (s : State) : Out :=
  let a := s.x a
  let b := s.x b
  s.setAdv d (a ^^^ b)

/-- shl xd, xa, xb: a << b[5:0] (R177). -/
def execShl (d a b : BitVec 5) (s : State) : Out :=
  let a := s.x a
  let b := s.x b
  s.setAdv d (a <<< (b.toNat % 64))

/-- shr xd, xa, xb: a as n64 shifted right by b[5:0] (R177). -/
def execShr (d a b : BitVec 5) (s : State) : Out :=
  let a := s.x a
  let b := s.x b
  s.setAdv d (a >>> (b.toNat % 64))

/-- sar xd, xa, xb: a as s64 shifted right by b[5:0] (R177). -/
def execSar (d a b : BitVec 5) (s : State) : Out :=
  let a := s.x a
  let b := s.x b
  s.setAdv d (a.sshiftRight (b.toNat % 64))

/-- rotl xd, xa, xb: a rotated left by b[5:0] (R177). -/
def execRotl (d a b : BitVec 5) (s : State) : Out :=
  let a := s.x a
  let b := s.x b
  s.setAdv d (a.rotateLeft (b.toNat % 64))

/-- min xd, xa, xb: the smaller as s64 (R177). -/
def execMin (d a b : BitVec 5) (s : State) : Out :=
  let a := s.x a
  let b := s.x b
  s.setAdv d (if a.slt b then a else b)

/-- max xd, xa, xb: the larger as s64 (R177). -/
def execMax (d a b : BitVec 5) (s : State) : Out :=
  let a := s.x a
  let b := s.x b
  s.setAdv d (if a.slt b then b else a)

/-- minn xd, xa, xb: the smaller as n64 (R177). -/
def execMinn (d a b : BitVec 5) (s : State) : Out :=
  let a := s.x a
  let b := s.x b
  s.setAdv d (if a.ult b then a else b)

/-- maxn xd, xa, xb: the larger as n64 (R177). -/
def execMaxn (d a b : BitVec 5) (s : State) : Out :=
  let a := s.x a
  let b := s.x b
  s.setAdv d (if a.ult b then b else a)

/-- clz xd, xa: leading zero bits (R177). -/
def execClz (d a : BitVec 5) (s : State) : Out := s.setAdv d (clz64 (s.x a))

/-- ctz xd, xa: trailing zero bits (R177). -/
def execCtz (d a : BitVec 5) (s : State) : Out := s.setAdv d (ctz64 (s.x a))

/-- popc xd, xa: one bits (R177). -/
def execPopc (d a : BitVec 5) (s : State) : Out := s.setAdv d (BitVec.ofNat 64 (popcount (s.x a).toNat 64))

/-- sext8 xd, xa: bits [7:0] sign-extended (R177). -/
def execSext8 (d a : BitVec 5) (s : State) : Out := s.setAdv d (((s.x a).setWidth 8).signExtend 64)

/-- sext16 xd, xa: bits [15:0] sign-extended (R177). -/
def execSext16 (d a : BitVec 5) (s : State) : Out := s.setAdv d (((s.x a).setWidth 16).signExtend 64)

/-- sext32 xd, xa: bits [31:0] sign-extended (R177). -/
def execSext32 (d a : BitVec 5) (s : State) : Out := s.setAdv d (((s.x a).setWidth 32).signExtend 64)

/-- zext8 xd, xa: bits [7:0] zero-extended (R177). -/
def execZext8 (d a : BitVec 5) (s : State) : Out := s.setAdv d (((s.x a).setWidth 8).setWidth 64)

/-- zext16 xd, xa: bits [15:0] zero-extended (R177). -/
def execZext16 (d a : BitVec 5) (s : State) : Out := s.setAdv d (((s.x a).setWidth 16).setWidth 64)

/-- zext32 xd, xa: bits [31:0] zero-extended (R177). -/
def execZext32 (d a : BitVec 5) (s : State) : Out := s.setAdv d (((s.x a).setWidth 32).setWidth 64)

/-- mul xd, xa, xb: the low 64 bits of a × b (R177). -/
def execMul (d a b : BitVec 5) (s : State) : Out := s.setAdv d (s.x a * s.x b)

/-- mulh xd, xa, xb: bits [127:64] of a × b as s64 (R177). -/
def execMulh (d a b : BitVec 5) (s : State) : Out := s.setAdv d (mulhS (s.x a) (s.x b))

/-- mulhn xd, xa, xb: bits [127:64] of a × b as n64 (R177). -/
def execMulhn (d a b : BitVec 5) (s : State) : Out := s.setAdv d (mulhN (s.x a) (s.x b))

/-- A division issues: its value reaches xd when it completes (R176), by divideComplete. -/
def State.divide (s : State) (d : BitVec 5) (v : X64) : Out :=
  .next (s.finish (.ok (s.modCore s.me fun k => { k with div := some (d, v) })))

/-- div xd, xa, xb: a ÷ b as s64 (R177, R178). -/
def execDiv (d a b : BitVec 5) (s : State) : Out := s.divide d (divS (s.x a) (s.x b))

/-- divn xd, xa, xb: a ÷ b as n64 (R177, R178). -/
def execDivn (d a b : BitVec 5) (s : State) : Out := s.divide d (divN (s.x a) (s.x b))

/-- rem xd, xa, xb: the remainder as s64 (R177, R178). -/
def execRem (d a b : BitVec 5) (s : State) : Out := s.divide d (remS (s.x a) (s.x b))

/-- remn xd, xa, xb: the remainder as n64 (R177, R178). -/
def execRemn (d a b : BitVec 5) (s : State) : Out := s.divide d (remN (s.x a) (s.x b))

/-- DIVIDE_COMPLETE: the division in progress on core `about.core` writes its register (R176, R209). -/
def execDivideComplete (s : State) : Out :=
  match (s.core s.me).div with
  | some (d, v) => .next (s.modCore s.me fun k => { k.setX d v with div := none }).pumpAll
  | none => .next s

/-- adda xd, xa, xb: (a + b) mod 2^56 (R180). -/
def execAdda (d a b : BitVec 5) (s : State) : Out := s.setAdv d (va56 (s.x a + s.x b))

/-- mada xd, xa, xb, s: (a + b · 2^s) mod 2^56 (R180). -/
def execMada (d a b sh : BitVec 5) (s : State) : Out := s.setAdv d (va56 (s.x a + (s.x b <<< sh.toNat)))

/-- bfx (R181). -/
def execBfx (d a : BitVec 5) (pos width : BitVec 6) (s : State) : Out := s.setAdv d (bfx64 (s.x a) pos.toNat width.toNat)

/-- bfxs (R181). -/
def execBfxs (d a : BitVec 5) (pos width : BitVec 6) (s : State) : Out :=
  s.setAdv d (bfxs64 (s.x a) pos.toNat width.toNat)

/-- bfi (R181). -/
def execBfi (d a : BitVec 5) (pos width : BitVec 6) (s : State) : Out :=
  s.setAdv d (bfi64 (s.x d) (s.x a) pos.toNat width.toNat)

/-- shli (R179). -/
def execShli (d a : BitVec 5) (pos : BitVec 6) (s : State) : Out := s.setAdv d (s.x a <<< pos.toNat)

/-- shri (R179). -/
def execShri (d a : BitVec 5) (pos : BitVec 6) (s : State) : Out := s.setAdv d (s.x a >>> pos.toNat)

/-- sari (R179). -/
def execSari (d a : BitVec 5) (pos : BitVec 6) (s : State) : Out := s.setAdv d ((s.x a).sshiftRight pos.toNat)

/-- addi: imm16 is sign-extended (R154, R179). -/
def execAddi (d a : BitVec 5) (imm : BitVec 16) (s : State) : Out := s.setAdv d (s.x a + sx imm)

/-- andi: imm16 is zero-extended (R154, R179). -/
def execAndi (d a : BitVec 5) (imm : BitVec 16) (s : State) : Out := s.setAdv d (s.x a &&& zx imm)

/-- ori: imm16 is zero-extended (R154, R179). -/
def execOri (d a : BitVec 5) (imm : BitVec 16) (s : State) : Out := s.setAdv d (s.x a ||| zx imm)

/-- xori: imm16 is zero-extended (R154, R179). -/
def execXori (d a : BitVec 5) (imm : BitVec 16) (s : State) : Out := s.setAdv d (s.x a ^^^ zx imm)

/-- lim: imm21 is sign-extended (R179). -/
def execLim (d : BitVec 5) (imm : BitVec 21) (s : State) : Out := s.setAdv d (sx imm)

/-- lih: one halfword of xd is replaced (R179). -/
def execLih (d : BitVec 5) (q : BitVec 2) (imm : BitVec 16) (s : State) : Out := s.setAdv d (lih64 (s.x d) q.toNat imm)

end Sys2Proof.Machine
end

