-- ==== Sys2Proof/Machine/Issue.lean ====
section
/-! DEFINITION. Fetching an instruction's word (R183, R304), stopping at a safe point (R408), the condition on which a
stream issues (R176, R213, R240, R340), and placing a word where the next step fetches it. -/

namespace Sys2Proof.Machine

/-- A word of a section as a stack's code store holds it (R304, R305). -/
def Copy.word (k : Copy) (stack i j : Nat) : Option IWord :=
  match k.held.find? fun e => e.1 == (stack, i, j) with
  | some e => some e.2
  | none => (vget k.secs i {}).words[j]?

/-- The word at an address in the sections of a copy, in the code store of a stack (R294, R304). -/
def Copy.wordAt (k : Copy) (stack : Nat) (a : VAddr) : Option IWord :=
  [0, 1, 2, 3].findSome? fun i =>
    let sec := vget k.secs i {}
    let base := k.image + BitVec.ofNat 56 sec.off
    if base.toNat ≤ a.toNat ∧ a.toNat < base.toNat + 4 * sec.words.length then k.word stack i ((a.toNat - base.toNat) / 4)
    else none

/-- The word of a buffer at an address. -/
def FBuf.at (b : FBuf) (a : VAddr) : Option Fetched :=
  if b.base.toNat ≤ a.toNat then b.words[(a.toNat - b.base.toNat) / 4]? else none

/-- A fetch from the code store or through the translation tables (R183, R304, R375); a word of a slot that is not filled is free
(R395).
(DEDUCED: log entry 13.)
(DESIGN CHOICE: log entry 133.) -/
def State.fetchAt (s : State) (c : Nat) (a : VAddr) : Fetched :=
  let slot := s.slotOf c
  match (s.copyOf c).wordAt (stackOf c) a with
  | some w => .word w
  | none =>
    match s.copies.findSome? (fun e => if e.2.owner = slot then e.2.wordAt (stackOf c) a else none) with
    | some w => .word w
    | none =>
      let e := match s.cached (stackOf c) slot a with
        | some t => WalkEnd.valid t
        | none => s.walk slot a
      match e with
      | .valid t =>
        if !t.allows 3 (s.isP1 c) then .perm
        else match regionOf (t.pa a) with
          | .hub => .perm
          | .unmapped => .absent
          | .tower k col _ =>
            if !layerIn s.layeravail (stackOf col) k then .absent
            else .word (BitVec.ofNat 32 (s.get (t.pa a) 4))
          | _ => .word (BitVec.ofNat 32 (s.get (t.pa a) 4))
      | _ => .absent

/-- The stack's cache takes the translation of a fetch that the code store does not serve, and a page of the pool its age (R304, R376,
R396).
(DESIGN CHOICE: log entry 12.) -/
def State.fillFetch (s : State) (c : Nat) (a : VAddr) : State :=
  if ((s.copyOf c).wordAt (stackOf c) a).isSome then s
  else match s.translate (stackOf c) (s.slotOf c) a with
    | (.valid t, s) => s.touch (t.pa a) false
    | (_, s) => s

/-- The line of an instruction address. -/
def lineOf (a : VAddr) : VAddr := a &&& ~~~ 63

/-- The word that a stream holds for an address: in the lines of its last taken transfer, or in those fetched in sequence since
(R192, R305). -/
def Seq.holds (q : Seq) (a : VAddr) : Option Fetched :=
  match q.buf.at a with
  | some f => some f
  | none => (look (lineOf a).toNat q.lines).bind fun l => l[a.toNat % 64 / 4]?

/-- The word of a stream at an address: the one it holds, else fetched (R183, R192). A word that could not be fetched as its buffer was
filled is fetched again when the stream reaches it, unless its permission failed (R183, R384).
(DEDUCED: log entry 34.) -/
def State.fetchOf (s : State) (c : Nat) (st : Stream) (a : VAddr) : Fetched :=
  match (s.seq c st).holds a with
  | some .absent | none => s.fetchAt c a
  | some f => f

/-- The word that a stream executes next. -/
def State.fetch (s : State) (c : Nat) (st : Stream) : Fetched := s.fetchOf c st (s.seq c st).pc

/-- The stream holds the line that it fetches in sequence, as memory or the code store now has it, until its next taken transfer
(R192, R305).
(DESIGN CHOICE: log entry 12.) -/
def State.keepLine (s : State) (c : Nat) (st : Stream) : State :=
  let q := s.seq c st
  match q.holds q.pc with
  | some (.word _) => s
  | _ =>
    let base := lineOf q.pc
    let words := (List.range 16).map fun i => s.fetchAt c (base + BitVec.ofNat 56 (4 * i))
    s.modSeq c st fun q => { q with lines := put base.toNat words q.lines }

/-- The fetch of a permission that fails is made anew when the stream resumes. -/
def Seq.forget (q : Seq) : Seq := { q with buf := {}, lines := [] }

/-- The safe-point entries of a copy that are valid (Table 10.2). -/
def SafeEntry.valid (e : SafeEntry) : Bool := e.getLsbD (8 * 0x29)

/-- The position of a stream in a safe-point entry, as an address (Table 10.2). -/
def Copy.safePc (k : Copy) (e : SafeEntry) (st : Stream) : VAddr :=
  k.image + BitVec.ofNat 56 ((vget k.secs st.num {}).off + bitsNat e (32 * st.num + 31) (32 * st.num))

/-- The position of a stream at safe point `n` is `a`. -/
def Copy.isSafe (k : Copy) (st : Stream) (a : VAddr) (n : Nat) : Bool := match k.safe[n]? with
  | some e => e.valid && k.safePc e st == a
  | none => false

/-- The first safe point whose position for a stream is `a`.
(DESIGN CHOICE: log entry 106.) -/
def Copy.safeAt (k : Copy) (st : Stream) (a : VAddr) : Option Nat := (List.range k.safe.length).find? (k.isSafe st a)

/-- The lead stream of a member: its first present one of C, L, A, S (R408). -/
def Core.lead (k : Core) : Option Stream :=
  [Stream.c, .l, .a, .s].find? fun st => (k.seq st).present

/-- The stream, which has no instruction in progress, stands at the position of the rendezvous in progress, or, for the lead stream of member 0 with a save
asked for, at a safe point that then becomes the rendezvous (R408). -/
def State.safeStop (s : State) (c : Nat) (st : Stream) : Option State :=
  let k := s.core c
  let q := k.seq st
  match k.task, s.taskOf c with
  | some tn, some t =>
    if t.saves.isEmpty || q.slot || q.popped.isSome || q.met || (st == .c && k.cmd.isSome) then none
    else match t.rendezvous with
      | some (n, _) =>
        if (s.copyOf c).isSafe st q.pc n then some (s.modSeq c st fun q => { q with atSafe := some n, stall := none })
        else none
      | none =>
        if k.member = 0 ∧ k.lead = some st ∧ !q.released then
          match (s.copyOf c).safeAt st q.pc with
          | some n =>
            let s := s.modTask tn fun t => { t with rendezvous := some (n, 0) }
            some (s.modSeq c st fun q => { q with atSafe := some n, stall := none })
          | none => none
        else none
  | _, _ => none

/-- A core's stream may issue: the module is READY, its task runs and is not frozen, the stream is present and not stopped, it has
issued nothing in this cycle, and no push of it is stalled (R12, R24, R176, R209, R213, R214, R240, R294, R336, R340). -/
def State.mayIssue (s : State) (c : Nat) (st : Stream) : Bool :=
  let k := s.core c
  let q := k.seq st
  s.hub.ready && !k.ended && q.present && !q.stopped && !q.halted && q.atSafe.isNone && q.last != some s.cycle && q.due.isEmpty &&
  (match s.taskOf c with
   | some t => t.st == .running && !t.wire && decide (t.start ≤ s.cycle)
   | none => false) &&
  !(st == .a && k.reps.active)

/-- The machine with a word placed where the next step fetches it: context 0 runs one task of one kernel on core 0,
the word stands at its entry in the section of the stream that executes it, and that stream issues next.
(DESIGN CHOICE: log entry 8.) -/
def State.placeWord (s : State) (w : IWord) (st : Stream) : State :=
  let image : VAddr := 0x400000
  let sec : Section := { off := 0x80, words := [w, 0xFC000000, 0xFC000000] }
  let copy : Copy := { image := image, flags := 6, secs := Vector.ofFn fun i => if i.val = st.num then sec else {} }
  let q : Seq := { present := true, pc := image + 0x80 }
  let k : Core := { task := some 0, seqs := Vector.ofFn fun i => if i.val = st.num then q else {} }
  let d : Desc := { colmask := BitVec.allOnes 1024, layers := 0x1F, priv := 1
                    ext := Vector.ofFn fun i => BitVec.ofNat 64 (capOf i.val * 2 ^ 32) }
  { s with
    hub := { s.hub with ready := true }
    ctxs := put 0 { st := .running, desc := d } s.ctxs
    copies := put 0 copy s.copies
    tasks := put 0 { st := .running } s.tasks
    cores := put 0 k s.cores
    agenda := [.issue 0 st] }

end Sys2Proof.Machine
end

