-- ==== Sys2Proof/Machine/Tasks.lean ====
section
/-! DEFINITION. Cores and tasks: an idle core, the end of a task (R322, R323), the cores that an interval used (R412),
and the kill of a context (R147, R407). -/

namespace Sys2Proof.Machine

/-- A core that returns to dispatch: what its task held is discarded (R322), SLOTMAP returns to its reset value (R339),
and the registers of its last trap stay (R206). -/
def Core.idle (k : Core) : Core := { tcause := k.tcause, tpc := k.tpc, tstream := k.tstream }

/-- The cores that run a task. -/
def State.coresOf (s : State) (t : Nat) : List Nat := (s.cores.filter fun (e : Nat × Core) => e.2.task = some t).map (·.1)

/-- A use of a core in the open interval of a context (R412). -/
def Ctx.use (k : Ctx) (core : CoreId) (cycle : Nat) : Ctx :=
  if k.openIv = 0 then k
  else { k with used := k.used.filter (fun u => !(u.1 = k.openIv && u.2.1 = core)) ++ [(k.openIv, core, cycle)] }

/-- The cores of a task are in use now. -/
def State.useCores (s : State) (t : Nat) : State :=
  match look t s.tasks with
  | some k => (s.coresOf t).foldl (fun s c => s.modCtx k.ctx (·.use (BitVec.ofNat 10 c) s.cycle)) s
  | none => s

/-- The cores of a task return to dispatch. -/
def State.freeCores (s : State) (t : Nat) : State :=
  let s := s.useCores t
  let mine := (s.coresOf t).map (BitVec.ofNat 10)
  { s with
    cores := s.cores.map fun (e : Nat × Core) => if e.2.task = some t then (e.1, e.2.idle) else e
    deliveries := s.deliveries.filter fun d => !mine.contains d.core
    walks := s.walks.filter fun w => !mine.contains w.core
    mesh := s.mesh.filter fun f => !mine.contains (BitVec.ofNat 10 f.core)
    fifo := s.fifo.filter fun f => !mine.contains (BitVec.ofNat 10 f.core) }

/-- Ranges that the end of an item, or the loss of one that was to be replayed, leaves indeterminate: they hold free values from now
on (R146, R147). -/
def State.settleBlur (s : State) (lost : Nat → Bool) : State :=
  let s := (s.blurred.filter fun e => lost e.1).foldl (fun (s : State) e =>
    let r := s.freeBytes e.2.2
    r.2.write e.2.1 r.1) s
  { s with blurred := s.blurred.filter fun e => !lost e.1 }

/-- A copy that was evicted and that no task runs gives its store space back (R306). -/
def State.freeCopies (s : State) : State :=
  { s with copies := s.copies.filter fun (e : Nat × Copy) =>
      !e.2.evicted || s.tasks.any fun (x : Nat × Task) =>
        x.2.copy = e.1 && (x.2.saved.isSome || (x.2.st != .waiting && x.2.st != .ready)) }

/-- Page faults whose user is gone: their records are not posted if they have not been. -/
def State.dropFaults (s : State) (gone : PFault → Bool) : State :=
  let fids := (s.faults.filter gone).map (·.fid)
  let keep (h : Held) : Bool := match h.item with
    | .fault fid => !fids.contains fid
    | .trap _ => true
  { s with faults := s.faults.filter fun f => !gone f }.modCtx s.hub.fhctx fun k => { k with held := k.held.filter keep }

/-- Host-visible queues (R311). -/
def hostQueues : Nat := 131072

/-- A queue; one that the table does not list is DISABLED, or, when internal, ENABLED and bound to its slot (R311). -/
def State.queue (s : State) (q : Nat) : Queue :=
  (look q s.queues).getD (if q < hostQueues then {} else
    { st := .enabled, ctx := BitVec.ofNat 8 (q - hostQueues), order := 8 })

/-- The code of a queue's state (Table 11.1). -/
def QState.code : QState → Nat
  | .disabled => 0 | .enabled => 1 | .draining => 2 | .halted => 3 | .faulted => 4

/-- The latest tail that a kick has recorded, behind the held replays (R316, R329). -/
def Queue.lastTail (q : Queue) : BitVec 32 :=
  q.replays.foldl (fun t (r : Replay) => r.tailAfter.getD t) q.tail

/-- The hub's fields of a descriptor, less FIDX (Table 11.1). -/
def Queue.back (q : Queue) : List Byte :=
  natBytes q.head.toNat 4 ++ natBytes q.lastTail.toNat 4 ++ natBytes q.st.code 1 ++ natBytes q.fault.toNat 1

/-- A queue's descriptor is written back, its reserved bytes excepted (R312); an internal queue has none. -/
def State.backQueue (s : State) (q : Nat) : State :=
  if q < hostQueues then
    let a := s.hub.qtbase.toNat + 64 * q
    (s.write (a + 0x0C) (s.queue q).back).write (a + 0x18) (natBytes (s.queue q).fidx.toNat 4)
  else s

/-- A queue is changed; a change of STATE, FAULT or FIDX is written back (R312). -/
def State.setQueue (s : State) (q : Nat) (k : Queue) : State :=
  let old := s.queue q
  let s := { s with queues := put q k s.queues }
  if old.st = k.st ∧ old.fault = k.fault ∧ old.fidx = k.fidx then s else s.backQueue q

/-! ### Graph slots (R327) -/

/-- First byte of the entry of a graph slot. -/
def State.graphAddr (s : State) (g : Nat) : Nat := s.hub.gtbase.toNat + 32 * g

def State.graph (s : State) (g : Nat) : Graph := (look g s.graphs).getD {}

/-- A graph slot is changed, and its hub fields are written back (R327). -/
def State.setGraph (s : State) (g : Nat) (x : Graph) : State :=
  let a := s.graphAddr g
  ({ s with graphs := put g x s.graphs }.hubPut (a + 9) [if x.loaded then 1 else 0, x.status]).hubPut (a + 12)
    (natBytes x.replays.toNat 4)

/-- Some queue holds a replay of a graph slot. -/
def State.graphHeld (s : State) (g : Nat) : Bool :=
  s.queues.any fun (e : Nat × Queue) => e.2.replays.any fun (r : Replay) => r.slot.toNat == g

/-- UNLOAD ends once the slot's held replays have been accepted (R327). -/
def State.settleGraph (s : State) (g : Nat) : State :=
  let x := s.graph g
  if x.unloading ∧ !s.graphHeld g then s.setGraph g { owner := x.owner, status := x.status, replays := x.replays } else s

/-- Held replays have been accepted or discarded: an UNLOAD that waited for them ends. -/
def State.settleGraphs (s : State) (l : List Replay) : State := l.foldl (fun s r => s.settleGraph r.slot.toNat) s

/-- DISABLED, with nothing held (R313). -/
def Queue.off (k : Queue) : Queue :=
  { k with st := .disabled, fault := 0, replays := [], closed := false, rereads := false }

/-- A queue that accepts no further card becomes DISABLED when its last task has ended (R313). -/
def State.settleQueue (s : State) (q : Nat) : State :=
  match look q s.queues with
  | some k =>
    if k.st ≠ .disabled ∧ (k.closed ∨ (k.st = .draining ∧ k.head = k.tail ∧ k.replays = [])) ∧
        !(s.tasks.any fun (e : Nat × Task) => e.2.queue = q) then (s.setQueue q k.off).settleGraphs k.replays
    else s
  | none => s

/-- A reservation ends when its task is dropped (R352). -/
def clearReserve (t : Nat) : Option Reserve → Option Reserve
  | some r => if r.task = t then none else some r
  | none => none

/-- A save ends when every started task of the context is saved or has ended (R409). -/
def State.settleSave (s : State) (slot : Slot) : State :=
  if (s.ctx slot).st = .saving ∧
      !(s.tasks.any fun (e : Nat × Task) => e.2.ctx = slot && (e.2.st == .running || e.2.st == .saving)) then
    (s.modCtx slot fun k => { k with st := .saved, nodeAt := s.hub.nodeid }).backCtx slot
  else s

/-- A CKPT whose task ends before its safe point holds dispatch no longer (R411). -/
def State.dropHold (s : State) (t : Nat) : State :=
  let mine := (s.coresOf t).map (BitVec.ofNat 10)
  { s with ctxs := s.ctxs.map fun (e : Nat × Ctx) =>
      if (e.2.ckHold.any mine.contains) = true then (e.1, { e.2 with ckHold := none }) else e }

/-- A recorded operation without the task that issued it. -/
def Outs.orphan (t : Nat) (o : Outs) : Outs :=
  if o.saved = some t ∨ o.hold = some t then { o with who := .gone, saved := none, hold := none } else o

/-- The recorded operations of a task that is dropped have no issuer; they go on to an answer or to SETTLE. -/
def State.orphanOuts (s : State) (slot : Slot) (t : Nat) : State :=
  s.modCtx slot fun k =>
    { k with
      mail := k.mail.filter fun e => e.1 != t
      sessions := k.sessions.map fun (e : Nat × Session) => (e.1, { e.2 with outs := e.2.outs.map (Outs.orphan t) }) }

/-- An accepted KINV without the task that issued it (R302). -/
def KinvReq.orphan (t : Nat) (r : KinvReq) : KinvReq := if r.task = some t then { r with task := none } else r

/-- Core `c` leaves dispatch when task `t` has ended (R355). -/
def State.removeAfter (s : State) (c : CoreId) (t : Nat) : State :=
  if s.outWhenIdle.contains (c, t) then s else { s with outWhenIdle := (c, t) :: s.outWhenIdle }

/-- The removals that wait for the end of a task take effect (R355). -/
def State.removeCores (s : State) (t : Nat) : State :=
  let mine := (s.outWhenIdle.filter (·.2 == t)).map (·.1)
  { s with out := s.out ++ mine.filter (fun c => !s.out.contains c), outWhenIdle := s.outWhenIdle.filter (·.2 != t) }

/-- A task leaves the machine. -/
def State.dropTask (s : State) (t : Nat) : State :=
  let q := ((look t s.tasks).map (·.queue)).getD 0
  let slot := ((look t s.tasks).map (·.ctx)).getD 0
  let copies := ((look t s.tasks).bind (·.saved)).map (·.copies)
  let s := ((s.dropHold t).freeCores t).removeCores t
  let s := (s.orphanOuts slot t).settleBlur fun id => (copies.getD []).any fun (i : Item) => i.id == id
  let s := s.dropFaults fun f => f.task == t && (match f.who with | .item _ => false | _ => true)
  let s := { s with
    tasks := drop t s.tasks
    kinvs := s.kinvs.map (KinvReq.orphan t)
    reserve := s.reserve.map (clearReserve t) }
  ((s.settleQueue q).freeCopies).settleSave slot

/-- EXITCTR_ADD (R323, R370): the counter of the card is raised at the end of the task. -/
def State.exitAdd (s : State) (k : Task) : State :=
  if k.card.exitctr = 0 then s
  else match s.objKey k.ctx k.card.exitctr 8 true with
    | some key =>
      let a : HubAdd := { key := key, addr := k.card.exitctr, queue := BitVec.ofNat 18 k.queue, card := k.cardNo }
      let t := (s.hubAdd k.ctx a).pump k.ctx
      if (t.ctx k.ctx).adds = [] then t else t.addFull k.ctx a
    | none => s.nocore k.ctx cENGINE_FAULT k.card.exitctr 0 (BitVec.ofNat 18 k.queue) k.cardNo true

/-- A task ends when its last member has ended (R323). -/
def State.endTask (s : State) (t : Nat) : State :=
  match look t s.tasks with
  | none => s
  | some k =>
    if (s.coresOf t).all fun c => (s.core c).ended then (s.dropTask t).exitAdd k else s

/-! ### The end of a member -/

/-- A remote operation of a core is neither answered nor, on a LOST session, settled, and no save has recorded it (R322, R433, R440). -/
def State.unsettled (s : State) (c : Nat) : Bool :=
  (s.ctx (s.slotOf c)).sessions.any fun (e : Nat × Session) => (e.2.st != .lost || decide (s.net2 < e.2.settle)) &&
    e.2.outs.any fun (o : Outs) => o.core.toNat == c && o.who != .gone && o.saved.isNone && o.hold.isNone

/-- Nothing that a member has issued is still under way (R322): engine operations, remote operations, reads, stores and
A-stream writes. -/
def State.spent (s : State) (c : Nat) : Bool :=
  let k := s.core c
  k.cReads.isEmpty && k.lReads.isEmpty && k.cStores.isEmpty && k.sStores.isEmpty && k.aPend.isEmpty && k.mmas.isEmpty &&
    k.mwls.isEmpty && k.lfences.isEmpty && k.div.isNone && !(s.items.any fun (i : Item) => i.core.toNat == c) &&
    !(s.gangOuts.any fun (g : GangOut) => g.core.toNat == c) && !s.unsettled c

/-- The streams of a core stop at their next boundary; a stalled instruction is abandoned, and REPS is discarded
(R322). -/
def Core.stopAll (k : Core) : Core :=
  { k with
    seqs := k.seqs.map fun (q : Seq) =>
      { q with stopped := true, stall := none, atSafe := none, due := [], popped := none, met := false }
    reps := {} }

/-- Every member of a task's group has arrived at its rendezvous, or has ended (R343). -/
def State.allIn (s : State) (t : Nat) : Bool :=
  s.cores.all fun (e : Nat × Core) => e.2.task != some t || e.2.ended || e.2.gsyncIn

/-- A member that has arrived goes on behind its GSYNC, from the next cycle on (R343). -/
def Core.leaveGsync (k : Core) (cycle : Nat) (stop : VAddr) : Core :=
  let q := { (k.seq .c).next with last := some cycle }
  { k.setSeq .c (if q.pc = stop then { q with stopped := true } else q) with gsyncIn := false }

/-- The rendezvous of a task's group completes once its last member has arrived (R343): every member leaves it in that cycle. -/
def State.meetGsync (s : State) (t : Nat) : State :=
  if s.allIn t then
    { s with cores := s.cores.map fun (e : Nat × Core) =>
        if e.2.task == some t && !e.2.ended then (e.1, e.2.leaveGsync s.cycle (s.sectionEnd e.1 .c)) else e }
  else s

/-- The end of a member whose streams have all stopped, once nothing is under way (R322, R323). A freeze holds it.
(DEDUCED: log entry 57.) -/
def State.endMember (s : State) (c : Nat) : State :=
  let k := s.core c
  match k.task, s.taskOf c with
  | some t, some x =>
    if x.st = .running ∧ !x.wire ∧ !k.ended ∧ k.allStopped ∧ s.spent c then
      ((s.modCore c fun k => { k with ended := true }).meetGsync t).endTask t
    else s
  | _, _ => s

/-! ### Answers to records -/

/-- A record is answered: its ring entry is free (R405). -/
def State.answer (s : State) (slot : Slot) (rid : Nat) : State :=
  (s.modCtx slot fun k => { k with posted := k.posted.filter fun (p : Posted) => p.rid != rid }).pump slot

/-- The unanswered record of a context with a RID (R406). -/
def Ctx.unanswered (k : Ctx) (rid : Nat) : Option Posted := k.posted.find? fun (p : Posted) => p.rid == rid

/-- A trapped stream goes on behind its instruction: DEBUG, and COUNTER_OVERFLOW, which follows its instruction's effect
(R367, R406).
(DEDUCED: log entry 37.) -/
def State.pastTrap (s : State) (r : TrapRec) (t : Nat) : State :=
  let c := r.core.toNat
  let st := streamOf r.stream.toNat
  if (r.cause = cDEBUG ∨ r.cause = cCOUNTER_OVERFLOW) ∧ (s.core c).task = some t then
    (s.modSeq c st Seq.next).stopAtEnd c st
  else s

/-- RESUME (R406): the trapped task goes on; an NR record is left unanswered. -/
def State.resume (s : State) (slot : Slot) (p : Posted) : State :=
  match p.item with
  | .fault _ => s
  | .trap r =>
    if r.nr then s
    else match p.task with
      | some (t, n) => ((s.pastTrap r t).unfreeze t (.trap n)).answer slot p.rid
      | none => s.answer slot p.rid

/-! ### The kill of a context -/

/-- The tasks of a context. -/
def State.tasksOf (s : State) (slot : Slot) : List Nat :=
  (s.tasks.filter fun (e : Nat × Task) => e.2.ctx = slot).map (·.1)

/-- Every task of a context stops (R147): what it had made visible stays, everything else is discarded, and engine
operations stop without completion actions. -/
def State.stopTasks (s : State) (slot : Slot) : State :=
  let s := (s.tasksOf slot).foldl State.dropTask s
  let s := s.dropFaults fun f => f.ctx == slot
  let s := s.settleBlur fun id => s.items.any fun (i : Item) => i.id == id && i.ctx == slot
  { s with items := s.items.filter fun i => i.ctx != slot }

/-- The queues bound to a context become DISABLED, and the replays that they held are discarded (R327, R407). -/
def State.disableQueues (s : State) (slot : Slot) : State :=
  let own := s.queues.filter fun (e : Nat × Queue) =>
    (e.2.ctx == slot && e.2.st != .disabled) || e.1 == hostQueues + slot.toNat
  let s := own.foldl (fun s (e : Nat × Queue) => s.setQueue e.1 e.2.off) s
  (s.setQueue (hostQueues + slot.toNat) (s.queue (hostQueues + slot.toNat)).off).settleGraphs
    (own.flatMap fun (e : Nat × Queue) => e.2.replays)

/-- The sessions of a context send CLOSE without waiting (R443). -/
def State.closeSessions (s : State) (slot : Slot) : State :=
  let k := s.ctx slot
  let pk := k.sessions.filterMap fun e =>
    if e.2.st = .opened ∨ e.2.st = .closing then some (Packet.closeReq slot (BitVec.ofNat 12 e.1) e.2.nonce e.2.next 0)
    else none
  { s.modCtx slot (fun k => { k with sessions := [] }) with net := s.net ++ pk }

/-- KILL of a context (R407): its tasks stop, its queues are disabled, its records stay unanswered, its sessions close,
and it is DEAD. -/
def State.kill (s : State) (slot : Slot) : State :=
  let s := s.stopTasks slot
  let s := s.disableQueues slot
  let s := s.closeSessions slot
  let s := { s with gangOuts := s.gangOuts.filter fun g => g.ctx != slot }
  let s := s.modCtx slot fun k =>
    { k with st := .dead, logWait := false, ckHold := none, handlers := []
             held := k.held.map fun h => { h with wait := none, task := none }
             posted := k.posted.map fun p => { p with task := none } }
  (s.backCtx slot).pump slot

end Sys2Proof.Machine
end

