-- ==== Sys2Proof/Machine/LinkOps.lean ====
section
/-! DEFINITION. What a requester does on the links: digests (R429), sending requests in sessions (R428, R432), retirement
(R436), the loss of a session (R433), and how a failure reaches a read or an engine item (R29, R434). -/

namespace Sys2Proof.Machine

/-! ### Digests -/

/-- One bit of CRC-32C, reflected (R429). -/
def crcBit (c : BitVec 32) : BitVec 32 := if c.getLsbD 0 then (c >>> 1) ^^^ 0x82F63B78 else c >>> 1

/-- One byte of CRC-32C. -/
def crcByte (c : BitVec 32) (b : Byte) : BitVec 32 :=
  crcBit (crcBit (crcBit (crcBit (crcBit (crcBit (crcBit (crcBit (c ^^^ b.setWidth 32))))))))

/-- CRC-32C (R429). -/
def crc32c (bs : List Byte) : BitVec 32 := ~~~ (bs.foldl crcByte 0xFFFFFFFF)

end Sys2Proof.Machine

namespace Sys2Proof

/-- The OP value of a request (R429). -/
def RemoteOp.code : RemoteOp → BitVec 8
  | .load => 0
  | .store => 0x01
  | .atomic fn => 0x10 + fn.setWidth 8
  | .prepare => 0x20
  | .commit => 0x21
  | .abort => 0x22
  | .go => 0x23
  | .collective => 0x30

/-- A gang or collective message, which has no address. -/
def RemoteOp.isMsg : RemoteOp → Bool
  | .prepare | .commit | .abort | .go | .collective => true
  | _ => false

/-- The owner physical address that a digest and an in-doubt entry carry (R429, Table 16.8). -/
def Request.digestPa (r : Request) : BitVec 64 := if r.op.isMsg then 0 else r.pa.setWidth 64

/-- The digest of a request (R429). -/
def Request.digest (r : Request) : BitVec 32 :=
  Machine.crc32c (Machine.natBytes r.digestPa.toNat 8 ++ [r.op.code, BitVec.ofNat 8 r.size] ++ Machine.natBytes 0 6 ++
    Machine.natBytes r.data.toNat r.size)

end Sys2Proof

namespace Sys2Proof.Machine

/-! ### Sessions -/

/-- No node stands twice in a list. -/
def noTwice : List Node → Bool
  | [] => true
  | n :: t => !t.contains n && noTwice t

/-- The session of a context with an owner node; one not listed is CLOSED (Table 16.4). -/
def State.session (s : State) (slot : Slot) (node : Node) : Session := (look node.toNat (s.ctx slot).sessions).getD {}

def State.setSession (s : State) (slot : Slot) (node : Node) (x : Session) : State :=
  s.modCtx slot fun k => { k with sessions := put node.toNat x k.sessions }

def State.modSession (s : State) (slot : Slot) (node : Node) (f : Session → Session) : State :=
  s.setSession slot node (f (s.session slot node))

/-- Retirement (R436): withheld serials of vouched intervals are forgotten, and W moves to the lowest serial that is not
retirable, or to NEXT. -/
def Session.retire (vouched : Nat) (x : Session) : Session :=
  let wh := x.withheld.filter fun e => decide (e.interval ≠ 0) && decide (vouched < e.interval)
  let open_ := (x.outs.filter fun o => !o.isLoad).map (·.serial) ++ wh.map (·.serial)
  let off := open_.foldl (fun m v => Nat.min m (v - x.w).toNat) (x.next - x.w).toNat
  { x with withheld := wh, w := x.w + BitVec.ofNat 32 off }

/-- The part that an engine item has issued to a node and not sent: it issues its parts one after another (R437). -/
def Item.waitsFor (i : Item) (node : Node) : Bool := i.todo.head?.any fun e => e.1 == node

/-- The messages of a gang to a node that are not sent (R437). -/
def GangOut.waitsFor (g : GangOut) (node : Node) : Nat :=
  (g.unsent.filter fun m => (g.members[m.2]?).any fun e => e.1 == node).length

/-- Mutating operations of a session that have been issued and not sent: remote stores in store buffers, parts of engine items, and
gang messages (R437). -/
def State.unsent (s : State) (slot : Slot) (node : Node) : Nat :=
  s.cores.foldl (fun n (e : Nat × Core) =>
    if s.slotOf e.1 = slot then
      n + (e.2.cStores.filter fun (x : Store) => x.remote && x.node == node && !x.sent).length
    else n) 0 +
  (s.items.filter fun (i : Item) => i.ctx == slot && i.waitsFor node).length +
  s.gangOuts.foldl (fun n (g : GangOut) => if g.ctx = slot then n + g.waitsFor node else n) 0

/-- The session has reached the cap for an operation that is itself `own` of those not sent (R437). -/
def State.cappedBut (s : State) (slot : Slot) (node : Node) (own : Nat) : Bool :=
  let x := s.session slot node
  decide (65536 ≤ (x.next - x.w).toNat + (s.unsent slot node - own))

/-- The session has reached the cap for a further operation (R437). -/
def State.capped (s : State) (slot : Slot) (node : Node) : Bool := s.cappedBut slot node 0

/-- RTO in network cycles (Table 16.1). -/
def State.rto (s : State) : Nat := nsToNet s.hub.rto.toNat

/-- The core of who waits for an operation. -/
def State.whoCore (s : State) : RemWho → CoreId
  | .read c _ | .store c _ => c
  | .item id _ => ((s.items.find? fun (i : Item) => i.id == id).map (·.core)).getD 0
  | .gang id _ => ((s.gangOuts.find? fun (g : GangOut) => g.id == id).map (·.core)).getD 0
  | .gone => 0

/-- A request of a context is sent for the first time (R428, R432): a mutating operation takes the next serial, a load
the next tag. -/
def State.send (s : State) (slot : Slot) (node : Node) (req : Request) (who : RemWho) (va : X64) (pc : VAddr) : State :=
  let x := s.session slot node
  let isLoad := req.op == .load
  let serial := if isLoad then x.tag else x.next
  let req := { req with node := s.hub.nodeid, slot := slot, nonce := x.nonce, serial := serial, w := x.w }
  let o : Outs := { isLoad := isLoad, serial := serial, req := req, sentAt := s.net2, interval := (s.ctx slot).openIv,
                    who := who, va := va, pc := pc, core := s.whoCore who, rto := s.rto }
  let x := { x with
    outs := x.outs ++ [o], lastSent := s.net2
    next := if isLoad then x.next else x.next + 1
    tag := if isLoad then x.tag + 1 else x.tag }
  { s.setSession slot node x with net := s.net ++ [.request node req req.digest] }

/-! ### Failures -/

/-- A read of a core's C- or L-stream fails when its data arrives (R232, R434): it is withdrawn, the stream stops issuing,
and a record with NR names the read.
(DEDUCED: log entry 28.) -/
def State.failRead (s : State) (c : Nat) (st : Stream) (r : Read) (t : Trap) : State :=
  let first := !(s.seq c st).halted
  let s := s.modCore c fun k =>
    if st = .l then { k with lReads := k.lReads.filter fun x => x.no != r.no }
    else { k with cReads := k.cReads.filter fun x => x.no != r.no }
  let s := s.modSeq c st fun q => { q with halted := true }
  if first then s.raiseAt c st r.pc none { t with nr := true } else s

/-- An engine item ends with a fault (R29): no completion action, and an asynchronous record against its context. DETAIL
is fn for ENGINE_FAULT and WAIT_LIMIT (Table 15.7). -/
def State.itemTrap (s : State) (i : Item) (t : Trap) : State :=
  let s := { s with items := s.items.filter fun (x : Item) => x.id != i.id }.settleBlur fun id => id == i.id
  let s := match i.st with
    | .faulted fid =>
      { s.unfreeze i.task (.pageFault fid) with faults := s.faults.filter fun f => f.fid != fid }
    | _ => s
  let s := s.poisonErr t.poison i.core.toNat i.ctx t.addr
  let d : X64 := if t.cause = cENGINE_FAULT ∨ t.cause = cWAIT_LIMIT then BitVec.ofNat 64 i.fn
    else if t.cause = cPRIV then i.word.setWidth 64 else t.detail
  s.async i.ctx { t with detail := d } i.core.toNat i.pc .c (look i.task s.tasks)

/-- An engine item ends with a cause and an address. -/
def State.itemFail (s : State) (i : Item) (cause : BitVec 8) (addr : X64) : State :=
  s.itemTrap i { cause := cause, addr := addr }

/-- The item of a number fails. -/
def State.itemFailId (s : State) (id : Nat) (cause : BitVec 8) : State :=
  match s.items.find? (·.id = id) with
  | some i => s.itemFail i cause i.blockAddr
  | none => s

/-- A gang's rank has answered: PREPARE in phase 0, then COMMIT, then GO or ABORT (R445). -/
def State.gangAnswer (s : State) (id rank : Nat) (ok : Bool) : State :=
  { s with gangOuts := s.gangOuts.map fun g =>
      if g.id = id then
        if g.phase = 0 then { g with prepared := g.prepared.set rank (some ok) }
        else if g.phase = 1 then { g with committed := g.committed.set rank (some ok) }
        else { g with ended := g.ended.set rank (some ok) }
      else g }

/-- The read of a core with a number. -/
def Core.read (k : Core) (no : Nat) : Option Read := k.cReads.find? (·.no = no)

/-- A remote operation fails for good (R434): the cause reaches its read or its item; a store keeps its place until the
session settles. -/
def State.failOuts (s : State) (o : Outs) (cause : BitVec 8) (detail : X64) : State :=
  match o.who with
  | .read core no =>
    match (s.core core.toNat).read no with
    | some r => s.failRead core.toNat .c r { cause := cause, addr := o.va, detail := detail }
    | none => s
  | .store _ _ => s
  | .item id _ => s.itemFailId id cENGINE_FAULT
  | .gang id rank => s.gangAnswer id rank false
  | .gone => s

/-- In-doubt entries are added to the list of a context, which is killed when the list is full (R435). -/
def State.doubt (s : State) (slot : Slot) (es : List InDoubt) : State :=
  let k := s.ctx slot
  if k.indoubt.length + es.length > 65535 then
    (s.modCtx slot fun k => { k with indoubt := (k.indoubt ++ es).take 65535 }).kill slot
  else s.modCtx slot fun k => { k with indoubt := k.indoubt ++ es }

/-- An operation of a saved task comes to something before the task starts again (R441). -/
def State.mail (s : State) (slot : Slot) (t : Nat) (m : Mail) : State :=
  s.modCtx slot fun k => { k with mail := k.mail ++ [(t, m)] }

/-- An operation of a lost session fails, for a saved task when that starts again (R434, R441). -/
def State.loseOuts (s : State) (slot : Slot) (o : Outs) (cause : BitVec 8) (detail : X64) : State :=
  match o.saved.or o.hold with
  | some t => s.mail slot t (.failed o cause detail)
  | none => s.failOuts o cause detail

/-- A session is lost (R433): `serial` is the one that caused the loss, with its reason of Table 16.8, and `settled` says
that the owner had discarded the session. Every outstanding and withheld serial is in doubt, reads and items fail, one asynchronous
record reports the session, and the mutating operations count as complete at SETTLE. -/
def State.loseSession (s : State) (slot : Slot) (node : Node) (serial : Option (BitVec 32)) (reason : BitVec 4)
    (settled : Bool) : State :=
  let x := s.session slot node
  let why (n : BitVec 32) : BitVec 4 := if serial = some n then reason else 2
  let es : List InDoubt :=
    (x.outs.filter fun o => !o.isLoad).map (fun o => ⟨o.serial, node, why o.serial, o.req.op.code, o.req.digestPa⟩) ++
    x.withheld.map (fun w => ⟨w.serial, node, why w.serial, w.op, w.pa⟩)
  let cause := if settled then cSESSION_LOST else cLINK_TIMEOUT
  let detail : X64 := (0 : BitVec 16) ++ (if settled then (0 : BitVec 4) else reason) ++ node ++ BitVec.ofNat 32 es.length
  let settle := if settled then s.net2 else s.net2 + nsToNet 1100000
  let left := if settled then [] else x.outs.filter fun o => !o.isLoad
  let s := s.setSession slot node { x with st := .lost, op := none, outs := left, withheld := [], settle := settle }
  let s := x.outs.foldl (fun s o => s.loseOuts slot o cause detail) s
  let s := s.nocore slot cause 0 detail 0 0 true
  s.doubt slot es

end Sys2Proof.Machine
end

