-- ==== Sys2Proof/Machine/Scalar.lean ====
section
/-! DEFINITION. The C-stream's loads, stores, atomics and fences (R117 to R129, R199 to R204). An access that issues enters
the outstanding reads or the store buffer; a read of the own column whose order allows it is performed as it issues, every
other one when it reaches its target (meshArrival). -/

namespace Sys2Proof.Machine

/-! ### Addresses -/

/-- PlaceEA and the checks of a place form (R199): `scale` is imm4 · size. -/
def State.placeUse (s : State) (base : X64) (scale n : Nat) : Use :=
  let p : PlaceAddr := fld base 0 32
  match s.place s.me p (offOf p + scale) n n with
  | .ok k => .key k {} s
  | .error t => .trap t s

/-- HandleEA and the checks of a handle form: MISALIGN on the offset first (R199, R381).
(DEDUCED: log entry 108.) -/
def State.handleUse (s : State) (h : BitVec 5) (off : X64) (n kind : Nat) : Use :=
  let va : VAddr := (s.handle h).va + fld off 0 56
  if off.toNat % n ≠ 0 then .trap { cause := cMISALIGN, addr := va.setWidth 64 } s
  else s.useHandle h off kind

/-- Bytes of the page that a translation stands for; 0 for a place. -/
def Trans.span (t : Trans) : Nat := if t.grants then pageBytes t.size else 0

/-- SESSION_LOST at issue (R420). -/
def noSession (node : Node) (va : X64) : Trap :=
  { cause := cSESSION_LOST, addr := va, detail := (0 : BitVec 19) ++ (1 : BitVec 1) ++ node ++ (0 : BitVec 32) }

/-! ### Order -/

/-- The store that an atomic counts as (R120). -/
def Read.asStore (r : Read) : Store :=
  { no := r.no, pieces := r.pieces.map fun p => (p.1, natBytes 0 p.2), remote := r.remote, node := r.node
    pa := (r.pieces.head?.map (·.1)).getD 0, rel := r.rel }

/-- An earlier store must be visible before an atomic is performed (R120, R121, R127). -/
def State.blocksAtom (s : State) (c : Nat) (e : Store) (r : Read) : Bool :=
  let a := r.asStore
  overlap e a || (s.storeIn c 0 e && s.storeIn c 0 a) ||
    (match r.rel with | some sc => s.storeIn c (s.widen c sc a) e | none => false)

/-- An unperformed load before which a later load may be performed: a remote one, or one of host memory, without .acq (Table 4.1,
R128); an atomic on the same bytes also counts as a store, whose value the later load returns (R120, R121). -/
def Read.loose (e r : Read) : Bool :=
  !e.acq && r.atom.isNone && (e.remote || e.pieces.any fun p => regionOf p.1 == .host) &&
    !(e.atom.isSome && overlap e.asStore r.asStore)

/-- The order of its stream lets a read be performed now (R120, R127, R128). A byte of L0 written in this cycle is read in the next
one (R79). A load that forwarding serves keeps this order as well.
(DESIGN CHOICE: log entry 104.) -/
def State.readReady (s : State) (c : Nat) (r : Read) : Bool :=
  let k := s.core c
  (k.cReads.all fun e => decide (r.no ≤ e.no) || e.value.isSome || e.loose r) &&
  (if r.atom.isSome then
     s.relsOver c r.no && k.cStores.all fun e => decide (r.no < e.no) || (!s.blocksAtom c e r && (!(r.remote && e.remote && e.node == r.node) || e.sent))
   else r.forwarded || r.pieces.all fun p => !(s.l0Then.any fun b => decide (p.1 ≤ b.1) && decide (b.1 < p.1 + p.2)))

/-! ### Performing an atomic -/

/-- AtomicOp (R202): the new value of a location of `n` bytes that holds `m`. -/
def Atom.apply (a : Atom) (n m : Nat) : Nat :=
  let b := a.b % 2 ^ (8 * n)
  let sm := intOf true (8 * n) m
  let sb := intOf true (8 * n) b
  match a.fn.toNat with
  | 0 => (m + b) % 2 ^ (8 * n)
  | 1 => b
  | 2 => if m = a.cmp % 2 ^ (8 * n) then b else m
  | 3 => if sm < sb then m else b
  | 4 => if sm < sb then b else m
  | 5 => m &&& b
  | 6 => m ||| b
  | 7 => m ^^^ b
  | _ => atfadd32 m b

/-- A read of the C-stream is performed (R117): a load takes its value, an atomic reads and writes in one event and leaves
a poisoned line as it is; one of a slot that is not filled reads a free value (R395). `none` when the undo log has no room for the atomic's line (R415). -/
def State.performC (s : State) (c : Nat) (r : Read) : Option (Read × State) :=
  match r.atom, r.pieces with
  | some a, (key, n) :: _ =>
    match poisonIn s key n with
    | some l => some ({ r with value := some 0, poison := some (BitVec.ofNat 64 (64 * l)) }, s)
    | none =>
      let m := s.get key n
      (s.commit (s.slotOf c) r.log key (natBytes (a.apply n m) n)).map fun s => ({ r with value := some m }, s)
  | _, _ => some (s.perform r)

/-- The state with an outstanding read of a core replaced. -/
def State.setRead (s : State) (c : Nat) (r : Read) : State :=
  s.modCore c fun k => { k with cReads := k.cReads.map fun x => if x.no = r.no then r else x }

/-- A read that has issued is performed, or the log that is full freezes the context (R415). -/
def State.doRead (s : State) (c : Nat) (r : Read) : State :=
  match s.performC c r with
  | some (r, s) => s.setRead c r
  | none => s.logFull (s.slotOf c) c r.pc .c

/-! ### Issue -/

/-- What forwarding serves of a load that issues: the latest earlier store of each byte, but none older than an atomic that is not
performed (R121). -/
def Core.forwarding (k : Core) (r : Read) : List (Nat × Byte) :=
  if r.atom.isSome then []
  else
    let lo := k.cReads.foldl (fun n (e : Read) =>
      if e.atom.isSome && e.value.isNone && overlap e.asStore r.asStore then Nat.max n (e.no + 1) else n) 0
    forwards k.cStores (if r.remote then some r.node else none) lo r.pieces

/-- A read or an atomic enters the outstanding reads (R176). When its order allows it, one of the own column, or one that forwarding
serves whatever its target, is performed at once (R121), and one to another column is injected (R103). -/
def State.issueRead (s : State) (r : Read) : State :=
  let c := s.me
  let k := s.core c
  let r := { r with no := k.accNo, pc := (s.seq c .c).pc, fwd := k.forwarding r }
  let r := { r with remote := r.remote && !r.forwarded }
  let s := s.modCore c fun k => { k with cReads := k.cReads ++ [r], accNo := k.accNo + 1 }
  if !s.readReady c r then s
  else if r.forwarded || (r.pieces.all fun p => !farKey c p.1) then s.doRead c r
  else s.inject c .c true r.no (r.pieces.map (·.1))

/-- A load or an atomic whose address leads somewhere: it issues, stalls or traps (R176, R200, R202, R420, R437). -/
def State.load (s : State) (u : Use) (dst : ReadDst) (n : Nat) (ord : BitVec 4) (atom : Option Atom) : Res :=
  match u with
  | .trap t s' => .after s' t
  | .hold s' => .hold s'
  | .key key t s' =>
    if 16 ≤ (s.core s.me).cReads.length then .wait s' .other
    else .ok (s'.issueRead { dst := dst, pieces := [(key, n)], acq := isAcq ord, atom := atom, rel := relOf ord
                             place := !t.grants, va := s.about.addr, span := t.span
                             log := t.log || s.plogKey (s.slotOf s.me) key })
  | .hub pa t s' =>
    if 16 ≤ (s.core s.me).cReads.length then .wait s' .other
    else .ok (s'.issueRead { dst := dst, pieces := [(pa, n)], acq := isAcq ord, va := s.about.addr, span := t.span })
  | .remote node pa t s' =>
    let k := s.core s.me
    let slot := s.slotOf s.me
    let va : X64 := s.about.addr
    let r : Read := { no := k.accNo, dst := dst, pieces := [(pa, n)], acq := isAcq ord, atom := atom, rel := relOf ord
                      remote := true, node := node, va := va, pc := (s.seq s.me .c).pc, span := t.span }
    let r := { r with fwd := k.forwarding r }
    if (s.session slot node).st ≠ .opened then .after s' (noSession node va)
    else if atom.isSome && s.capped slot node then .wait s' (.serialCap node va)
    else if decide (16 ≤ k.cReads.length) || !s.readReady s.me r then .wait s' .other
    else if r.forwarded then .ok (s'.issueRead r)
    else
      let req : Request := match atom with
        | none => { op := .load, pa := BitVec.ofNat 52 pa, size := n }
        | some a =>
          let b := a.b % 2 ^ (8 * n)
          let two := a.fn = 2
          { op := .atomic a.fn, pa := BitVec.ofNat 52 pa, size := if two then 2 * n else n
            data := BitVec.ofNat 512 (if two then a.cmp % 2 ^ (8 * n) + b * 2 ^ (8 * n) else b) }
      let s' := s'.modCore s.me fun k => { k with cReads := k.cReads ++ [r], accNo := k.accNo + 1 }
      .ok (s'.send slot node req (.read s.about.core k.accNo) va r.pc)

/-- A store whose address leads somewhere enters the store buffer (R176, R200, R420, R437). -/
def State.store (s : State) (u : Use) (bs : List Byte) (ord : BitVec 4) : Res :=
  let k := s.core s.me
  let slot := s.slotOf s.me
  let full := decide (16 ≤ k.cStores.length)
  let put (s' : State) (e : Store) : Res :=
    .ok (s'.modCore s.me fun k =>
      { k with cStores := k.cStores ++ [{ e with no := k.accNo, rel := relOf ord, pc := (s.seq s.me .c).pc }]
               accNo := k.accNo + 1 })
  match u with
  | .trap t s' => .after s' t
  | .hold s' => .hold s'
  | .key key t s' =>
    if full then .wait s' .other
    else put s' { pieces := [(key, bs)], va := s.about.addr, span := t.span, log := t.log || s.plogKey slot key }
  | .hub pa t s' => if full then .wait s' .other else put s' { pieces := [(pa, bs)], va := s.about.addr, span := t.span }
  | .remote node pa t s' =>
    let va : X64 := s.about.addr
    if (s.session slot node).st ≠ .opened then .after s' (noSession node va)
    else if s.capped slot node then .wait s' (.serialCap node va)
    else if full then .wait s' .other
    else put s' { pieces := [(pa, bs)], remote := true, node := node, pa := pa, va := va, span := t.span }

/-- The virtual address of a handle access is kept for its record (Table 16.9). -/
def State.atVa (s : State) (h : BitVec 5) (off : X64) : State :=
  { s with about := { s.about with addr := ((s.handle h).va + fld off 0 56 : VAddr).setWidth 64 } }

/-! ### Loads and stores -/

/-- Bytes of a load's or a store's type (R158). -/
def tyBytes (ty : BitVec 3) : Nat := 2 ^ (ty.toNat / 2)

/-- A load's type is sign-extended (R158, R200). -/
def tySigned (ty : BitVec 3) : Bool := decide (ty.toNat % 2 = 0) && decide (ty.toNat < 6)

/-- Offset of a scalar access (R199): imm4 counts the access size. -/
def scaleOf (imm : BitVec 4) (n : Nat) : Nat := imm.toNat * n

/-- ldx xd, [xa + imm] (R199, R200). -/
def execLdxPlace (d a : BitVec 5) (ord : BitVec 4) (ty : BitVec 3) (imm : BitVec 4) (s : State) : Out :=
  let n := tyBytes ty
  .next (s.finish (s.load (s.placeUse (s.x a) (scaleOf imm n) n) (.x d n (tySigned ty)) n ord none))

/-- ldx xd, [hN + xb + imm] (R199, R200). -/
def execLdxHandle (d h b : BitVec 5) (ord : BitVec 4) (ty : BitVec 3) (imm : BitVec 4) (s : State) : Out :=
  let n := tyBytes ty
  let off := s.x b + BitVec.ofNat 64 (scaleOf imm n)
  let s := s.atVa h off
  .next (s.finish (s.load (s.handleUse h off n 0) (.x d n (tySigned ty)) n ord none))

/-- stx xd, [xa + imm] (R199, R200). -/
def execStxPlace (d a : BitVec 5) (ord : BitVec 4) (ty : BitVec 3) (imm : BitVec 4) (s : State) : Out :=
  let n := tyBytes ty
  .next (s.finish (s.store (s.placeUse (s.x a) (scaleOf imm n) n) (natBytes (s.x d).toNat n) ord))

/-- stx xd, [hN + xb + imm] (R199, R200). -/
def execStxHandle (d h b : BitVec 5) (ord : BitVec 4) (ty : BitVec 3) (imm : BitVec 4) (s : State) : Out :=
  let n := tyBytes ty
  let off := s.x b + BitVec.ofNat 64 (scaleOf imm n)
  let s := s.atVa h off
  .next (s.finish (s.store (s.handleUse h off n 1) (natBytes (s.x d).toNat n) ord))

/-- ldxp xd, [xa + imm] (R200): 16 bytes as one event, into xd and xd + 1. -/
def execLdxpPlace (d a : BitVec 5) (ord imm : BitVec 4) (s : State) : Out :=
  .next (s.finish (s.load (s.placeUse (s.x a) (scaleOf imm 16) 16) (.xPair d) 16 ord none))

/-- ldxp xd, [hN + xb + imm] (R200). -/
def execLdxpHandle (d h b : BitVec 5) (ord imm : BitVec 4) (s : State) : Out :=
  let off := s.x b + BitVec.ofNat 64 (scaleOf imm 16)
  let s := s.atVa h off
  .next (s.finish (s.load (s.handleUse h off 16 0) (.xPair d) 16 ord none))

/-- The 16 bytes of a register pair (R200). -/
def State.pairBytes (s : State) (d : BitVec 5) : List Byte := natBytes (s.x d).toNat 8 ++ natBytes (s.x (d + 1)).toNat 8

/-- stxp xd, [xa + imm] (R200). -/
def execStxpPlace (d a : BitVec 5) (ord imm : BitVec 4) (s : State) : Out :=
  .next (s.finish (s.store (s.placeUse (s.x a) (scaleOf imm 16) 16) (s.pairBytes d) ord))

/-- stxp xd, [hN + xb + imm] (R200). -/
def execStxpHandle (d h b : BitVec 5) (ord imm : BitVec 4) (s : State) : Out :=
  let off := s.x b + BitVec.ofNat 64 (scaleOf imm 16)
  let s := s.atVa h off
  .next (s.finish (s.store (s.handleUse h off 16 1) (s.pairBytes d) ord))

/-! ### Atomics -/

/-- Bytes of an atomic (R202). -/
def szBytes (sz : BitVec 1) : Nat := if sz = 1 then 8 else 4

/-- The place form of an atomic (R202). -/
def State.atomPlace (s : State) (fn : BitVec 4) (d a b : BitVec 5) (ord : BitVec 4) (sz : BitVec 1) : Out :=
  let n := szBytes sz
  .next (s.finish (s.load (s.placeUse (s.x a) 0 n) (.x d n false) n ord
    (some { fn := fn, b := (s.x b).toNat, cmp := (s.x d).toNat })))

/-- The handle form of an atomic (R202): the offset is x[xb + 1].
(DEDUCED: log entry 35.) -/
def State.atomHandle (s : State) (fn : BitVec 4) (d h b : BitVec 5) (ord : BitVec 4) (sz : BitVec 1) : Out :=
  let n := szBytes sz
  let off := s.x (b + 1)
  let s := s.atVa h off
  .next (s.finish (s.load (s.handleUse h off n 2) (.x d n false) n ord
    (some { fn := fn, b := (s.x b).toNat, cmp := (s.x d).toNat })))

/-- atadd xd, [xa], xb (R202). -/
def execAtaddPlace (d a b : BitVec 5) (ord : BitVec 4) (sz : BitVec 1) (s : State) : Out := s.atomPlace 0 d a b ord sz

/-- atadd xd, [hN + xo], xb (R202). -/
def execAtaddHandle (d h b : BitVec 5) (ord : BitVec 4) (sz : BitVec 1) (s : State) : Out := s.atomHandle 0 d h b ord sz

/-- atswp xd, [xa], xb (R202). -/
def execAtswpPlace (d a b : BitVec 5) (ord : BitVec 4) (sz : BitVec 1) (s : State) : Out := s.atomPlace 1 d a b ord sz

/-- atswp xd, [hN + xo], xb (R202). -/
def execAtswpHandle (d h b : BitVec 5) (ord : BitVec 4) (sz : BitVec 1) (s : State) : Out := s.atomHandle 1 d h b ord sz

/-- atcas xd, [xa], xb (R202). -/
def execAtcasPlace (d a b : BitVec 5) (ord : BitVec 4) (sz : BitVec 1) (s : State) : Out := s.atomPlace 2 d a b ord sz

/-- atcas xd, [hN + xo], xb (R202). -/
def execAtcasHandle (d h b : BitVec 5) (ord : BitVec 4) (sz : BitVec 1) (s : State) : Out := s.atomHandle 2 d h b ord sz

/-- atmin xd, [xa], xb (R202). -/
def execAtminPlace (d a b : BitVec 5) (ord : BitVec 4) (sz : BitVec 1) (s : State) : Out := s.atomPlace 3 d a b ord sz

/-- atmin xd, [hN + xo], xb (R202). -/
def execAtminHandle (d h b : BitVec 5) (ord : BitVec 4) (sz : BitVec 1) (s : State) : Out := s.atomHandle 3 d h b ord sz

/-- atmax xd, [xa], xb (R202). -/
def execAtmaxPlace (d a b : BitVec 5) (ord : BitVec 4) (sz : BitVec 1) (s : State) : Out := s.atomPlace 4 d a b ord sz

/-- atmax xd, [hN + xo], xb (R202). -/
def execAtmaxHandle (d h b : BitVec 5) (ord : BitVec 4) (sz : BitVec 1) (s : State) : Out := s.atomHandle 4 d h b ord sz

/-- atand xd, [xa], xb (R202). -/
def execAtandPlace (d a b : BitVec 5) (ord : BitVec 4) (sz : BitVec 1) (s : State) : Out := s.atomPlace 5 d a b ord sz

/-- atand xd, [hN + xo], xb (R202). -/
def execAtandHandle (d h b : BitVec 5) (ord : BitVec 4) (sz : BitVec 1) (s : State) : Out := s.atomHandle 5 d h b ord sz

/-- ator xd, [xa], xb (R202). -/
def execAtorPlace (d a b : BitVec 5) (ord : BitVec 4) (sz : BitVec 1) (s : State) : Out := s.atomPlace 6 d a b ord sz

/-- ator xd, [hN + xo], xb (R202). -/
def execAtorHandle (d h b : BitVec 5) (ord : BitVec 4) (sz : BitVec 1) (s : State) : Out := s.atomHandle 6 d h b ord sz

/-- atxor xd, [xa], xb (R202). -/
def execAtxorPlace (d a b : BitVec 5) (ord : BitVec 4) (sz : BitVec 1) (s : State) : Out := s.atomPlace 7 d a b ord sz

/-- atxor xd, [hN + xo], xb (R202). -/
def execAtxorHandle (d h b : BitVec 5) (ord : BitVec 4) (sz : BitVec 1) (s : State) : Out := s.atomHandle 7 d h b ord sz

/-- atfadd.s32 xd, [xa], xb (R202). -/
def execAtfaddPlace (d a b : BitVec 5) (ord : BitVec 4) (s : State) : Out := s.atomPlace 8 d a b ord 0

/-- atfadd.s32 xd, [hN + xo], xb (R202). -/
def execAtfaddHandle (d h b : BitVec 5) (ord : BitVec 4) (s : State) : Out := s.atomHandle 8 d h b ord 0

/-! ### Fences -/

/-- fence.acq.S (R129, Table 4.3): every earlier load is performed. -/
def execFenceAcq (_scope : BitVec 3) (s : State) : Out :=
  .next (s.finish (if (s.core s.me).cPerformed then .ok s else .wait s .fence))

/-- fence.rel.S (R129, Table 4.3): every earlier load is performed and every earlier store in S is visible; until then the stream stalls,
or goes on with loads and register instructions (FENCE_COMPLETE). -/
def execFenceRel (scope : BitVec 3) (s : State) : Out :=
  .next (s.finish (if s.fenceRel scope then .ok s else .wait s (.rel scope)))

/-- fence.sc.S (R129, Table 4.3): as fence.rel.S, and before every later access. -/
def execFenceSc (scope : BitVec 3) (s : State) : Out := .next (s.finish (if s.fenceRel scope then .ok s else .wait s .fence))

end Sys2Proof.Machine
end

