-- ==== Sys2Proof/Machine/Objects.lean ====
section
/-! DEFINITION. Barriers, sequence counters and their waits (R358 to R371), the rendezvous of a group (R343) and YIELD
(R344), the hub's notifications (R371), and the limits of stalls and waits (R25, R134, R224, R226, R270, R343, R368, R413,
R437). -/

namespace Sys2Proof.Machine

/-! ### Operations on objects -/

/-- The undo log entries of a bank-ALU operation on an object (R414); `none` when the log is full. -/
def State.logObj (s : State) (key n : Nat) (log : Bool) : Option State :=
  let slot := s.slotOf s.me
  if log || s.plogKey slot key then s.logLines slot (linesOf key n) else some s

/-- An instruction that changes the object x[xa] of `n` bytes (R366, R367): its checks, the wait as fence.rel.sys, then the
operation, as one event behind what the core has sent to the object's column (R103, R104). -/
def State.change (s : State) (v : X64) (n : Nat) (op : Nat → State → Res) : Res :=
  match s.object v n 2 with
  | .trap t s' => .after s' t
  | .hold s' => .hold s'
  | .hub _ _ s' | .remote _ _ _ s' => .after s' { cause := cPAGE_PERM, addr := v }
  | .key k t s' =>
    if !s'.fenceRel 5 then .wait s' .fence
    else if !s'.clearTo s.me k then .wait s' .other
    else match poisonIn s' k n with
      | some l => .after s' (poisonTrap s.me l !t.grants)
      | none => match s'.logObj k n t.log with
        | none => .hold (s'.logFull (s.slotOf s.me) s.me (s.seq s.me .c).pc .c)
        | some s'' => op k s''

/-- An acquire load of the object x[xa] of `n` bytes that is performed at the object's bank as its instruction issues (R366, R368, R369):
it waits, for the reason `w`, while the order of its stream holds it back or an earlier store to its bytes is not visible. -/
def State.observe (s : State) (v : X64) (n : Nat) (w : Why) (use : Nat → State → Res) : Res :=
  match s.object v n 0 with
  | .trap t s' => .after s' t
  | .hold s' => .hold s'
  | .hub _ _ s' | .remote _ _ _ s' => .after s' { cause := cPAGE_PERM, addr := v }
  | .key k t s' =>
    let r : Read := { no := (s.core s.me).accNo, pieces := [(k, n)], acq := true }
    if !s'.readReady s.me r || (s'.core s.me).cStores.any (overlap r.asStore) || !s'.clearTo s.me k then .wait s' w
    else
      let p := s'.perform r
      match p.1.poison with
      | some a => .after p.2 (poisonTrap s.me (a.toNat / 64) !t.grants)
      | none => use (p.1.value.getD 0) p.2

/-- bari xa, xb (R361, R367). -/
def execBari (a b : BitVec 5) (s : State) : Out :=
  let w := s.x b
  .next (s.finish (s.change (s.x a) 16 fun k s =>
    let o := s.barrier k
    .ok (s.putBarrier k { rsv := 0, note := o.note, phase := 0, rpend := fld w 0 40, arr := 0, exp := fld w 40 16
                          pend := (fld w 0 40).setWidth 48 })))

/-- BarUpdate by an instruction; BARRIER_UNDERFLOW is precise and leaves the object unchanged (R360, R367). -/
def State.barInstr (s : State) (v : X64) (dp : Int) (na : Nat) : Res :=
  s.change v 16 fun k s' =>
    match s'.barUpdate k dp na with
    | some s'' => .ok s''
    | none => .trap { cause := cBARRIER_UNDERFLOW, addr := v }

/-- barm xa, xb (R367). -/
def execBarm (a b : BitVec 5) (s : State) : Out := .next (s.finish (s.barInstr (s.x a) (s.x b).toInt 0))

/-- bara xa, xb (R367). -/
def execBara (a b : BitVec 5) (s : State) : Out := .next (s.finish (s.barInstr (s.x a) 0 (s.x b).toNat))

/-- The reason of a wait on an object with its limit, which counts from issue (R368); a read that LIMIT 0 asks for is only delayed. -/
def waitWhy (limit : Nat) (addr : X64) : Why :=
  if limit = 0 then .other else .wait (256 * limit) addr (BitVec.ofNat 64 (256 * limit))

/-- A wait whose condition does not hold: with LIMIT 0 it raises WAIT_LIMIT at once (R368).
(DEDUCED: log entry 17.) -/
def State.waiting (s : State) (limit : Nat) (addr : X64) : Res :=
  if limit = 0 then .after s { cause := cWAIT_LIMIT, addr := addr }
  else .wait s (waitWhy limit addr)

/-- bwait xa, xb (R368). -/
def execBwait (a b : BitVec 5) (s : State) : Out :=
  let w := s.x b
  let v := s.x a
  .next (s.finish (s.observe v 16 (waitWhy (bitsNat w 27 8) v) fun o s =>
    if (Barrier.ofBits (BitVec.ofNat 128 o)).phase = fld w 0 1 then .ok s else s.waiting (bitsNat w 27 8) v))

/-- The word that btest writes (R369). -/
def Barrier.word (o : Barrier) : X64 :=
  BitVec.ofNat 47 (Nat.min o.pend.toNat (2 ^ 47 - 1)) ++ (o.exp - o.arr) ++ o.phase

/-- btest xd, xa (R369). -/
def execBtest (d a : BitVec 5) (s : State) : Out :=
  .next (s.finish (s.observe (s.x a) 16 .other fun o s => .ok (s.setX d (Barrier.ofBits (BitVec.ofNat 128 o)).word)))

/-- sqadd xa, xb (R363, R367): COUNTER_OVERFLOW is raised after the saturated value is written. -/
def execSqadd (a b : BitVec 5) (s : State) : Out :=
  let v := s.x a
  let n := (s.x b).toNat
  .next (s.finish (s.change v 8 fun k s =>
    match s.seqAdd k n with
    | (s, false) => .ok s
    | (s, true) => .after s { cause := cCOUNTER_OVERFLOW, addr := v }))

/-- sqwait xa, xb, xc (R368). -/
def execSqwait (a b c : BitVec 5) (s : State) : Out :=
  let v := s.x a
  let e := s.x b
  let l := s.x c
  .next (s.finish (s.observe v 8 (waitWhy (bitsNat l 19 0) v) fun w s => if e.toNat ≤ w then .ok s else s.waiting (bitsNat l 19 0) v))

/-- sqrd xd, xa (R369). -/
def execSqrd (d a : BitVec 5) (s : State) : Out :=
  .next (s.finish (s.observe (s.x a) 8 .other fun w s => .ok (s.setX d (BitVec.ofNat 64 w))))

/-! ### Groups -/

/-- gsync (R343): the member arrives; its group goes on in the cycle in which the last member arrives.
(DEDUCED: log entry 55.) -/
def execGsync (s : State) : Out :=
  let c := s.me
  .next (if s.inSlot then s.finish (.trap (s.illegal false))
    else
      let s := (s.modCore c fun k => { k with gsyncIn := true }).stallOn .gsync
      match (s.core c).task with
      | some t => s.meetGsync t
      | none => s.modCore c fun k => k.leaveGsync s.cycle (s.sectionEnd c .c))

/-- yield (R344): the task asks to be saved at its next safe point if another task needs its cores or energy. -/
def execYield (s : State) : Out :=
  let ask (t : Task) : Task := if t.saves.contains .yield then t else { t with saves := t.saves ++ [.yield] }
  .next (s.finish (.ok (match (s.core s.me).task with
    | some t => s.modTask t ask
    | none => s)))

/-! ### Readiness -/

/-- A waiting task whose conditions all hold becomes ready (R320, R345). -/
def Task.settle (t : Task) (cycle : Nat) : Task :=
  if t.st = .waiting ∧ t.waits.all (·.holds) then { t with st := .ready, readyAt := cycle } else t

/-- A condition after a notification of its object; those that were sent before its registration pass it by (R320, R371). -/
def WaitOn.hear (w : WaitOn) (key : Nat) (v : X64) : WaitOn :=
  if w.key = key then
    if w.skip ≠ 0 then { w with skip := w.skip - 1 }
    else { w with holds := if w.kind = 1 then v.getLsbD 0 == w.value.getLsbD 0 else decide (w.value.toNat ≤ v.toNat) }
  else w

/-- HUB_NOTIFICATION: the hub applies notification `about.k` of those outstanding to the waiting tasks (R371), in its
object's event order; TASK_READY comes about in the same instant (R320). -/
def execHubNotification (s : State) : Out :=
  match s.notes[s.about.k]? with
  | none => .next s
  | some (key, v) =>
    if (s.notes.take s.about.k).any fun (e : Nat × X64) => e.1 = key then .next s
    else
      let hear (t : Task) : Task :=
        if t.st = .waiting then ({ t with waits := t.waits.map fun (w : WaitOn) => w.hear key v }).settle s.cycle else t
      .next { s with notes := s.notes.eraseIdx s.about.k
                     tasks := s.tasks.map fun (e : Nat × Task) => (e.1, hear e.2) }

/-! ### Limits -/

/-- DETAIL of TOKEN_STALL (Table 15.7). -/
def stallTrap (src dst more : Nat) : Trap :=
  { cause := cTOKEN_STALL, detail := BitVec.ofNat 64 (src + 4 * dst + more) }

/-- The limit of a stall of core `c` in cycles, and the trap that ends it (R25, R134, R224, R226, R270, R343, R368, R413, R437); none of a
stall without a limit. -/
def State.whyLimit (s : State) (c : Nat) : Why → Option (Nat × Trap)
  | .token src dst => some (s.stallLimit c, stallTrap src dst 0)
  | .mark m => some (s.stallLimit c, stallTrap 1 3 (16 + 256 * m))
  | .scaleFull | .scaleShort => some (s.stallLimit c, stallTrap 1 2 32)
  | .wait n addr detail => some (n, { cause := cWAIT_LIMIT, addr := addr, detail := detail })
  | .gsync => some (s.stallLimit c, { cause := cWAIT_LIMIT, detail := BitVec.ofNat 64 (s.stallLimit c) })
  | .serialCap node va =>
    some (s.stallLimit c,
      { cause := cLINK_TIMEOUT, addr := va, detail := (0 : BitVec 16) ++ (5 : BitVec 4) ++ node ++ (0 : BitVec 32) })
  | .fence | .rel _ | .other => none

/-- A stall on a token queue that could end now (R24): a pop when the queue holds a token of an earlier cycle, a push when it has room. -/
def State.tokenGo (s : State) (c : Nat) (st : Stream) : Why → Bool
  | .token src dst =>
    if src = st.num then !(s.core c).tqFull src dst else !((s.core c).poppable src dst).isEmpty
  | _ => false

/-- The reason of a stall still holds its stream back (R24, R134, R224, R270). -/
def State.stands (s : State) (c : Nat) (st : Stream) (w : Why) : Bool :=
  let k := s.core c
  match w with
  | .token .. => !s.tokenGo c st w
  | .mark m =>
    if st = .l then
      decide (vget k.marks m 0 ≤ -15) || k.markOpen.contains m || k.markWait.any fun e => e.1 == m && !s.shownBefore c e.2
    else decide (15 ≤ vget k.marks m 0)
  | .scaleFull => decide (16 ≤ k.scaleCount)
  | .scaleShort => decide (k.scales.length < (if isMx k.fmtA.toNat then 4 else 0) + (if isMx k.wAct.fmt.toNat then 8 else 0))
  | _ => true

/-- A stall has lasted as long as its limit allows, and its reason still stands. -/
def State.overdue (s : State) (c : Nat) (st : Stream) (w : Stall) : Bool :=
  s.stands c st w.why && (s.whyLimit c w.why).any fun l => decide (l.1 ≤ w.cycles)

/-- A core's stalls count in this cycle: its task runs and is not frozen in it (R25, R340). -/
def State.stallCounts (s : State) (k : Core) : Bool :=
  match k.task.bind fun t => look t s.tasks with
  | some t => t.st == .running && !t.frozenIn s.cycle
  | none => false

/-- A stalled stream of a core may still move in this cycle: its task runs, and no cause has raised its wire (R25, R340). -/
def State.counts (s : State) (k : Core) : Bool :=
  match k.task.bind fun t => look t s.tasks with
  | some t => t.st == .running && !t.wire
  | none => false

/-- A limit that has passed raises its trap at the stalled instruction (R25). The stream is `about.stream` of core `about.core`.
(DESIGN CHOICE: log entry 18.) -/
def State.limit (s : State) (kind : Why → Bool) : State :=
  match (s.seq s.me s.st).stall with
  | some x =>
    if kind x.why ∧ s.counts (s.core s.me) ∧ s.overdue s.me s.st x then
      match s.whyLimit s.me x.why with
      | some l => s.raise s.me s.st l.2
      | none => s
    else s
  | none => s

/-- A push that is about to take place has stalled as long as the limit allows (R24, R25). -/
def State.dueOver (s : State) (c : Nat) (st : Stream) (d : Due) : Bool :=
  (s.core c).tqFull st.num d.dst && !(s.core c).allStopped && decide (s.stallLimit c ≤ d.cycles)

/-- TOKEN_STALL of an instruction that has issued and whose push finds its queue full (R25): the push waits on; after a RESUME its stall
counts anew.
(DEDUCED: log entry 14.) -/
def State.dueTrap (s : State) (c : Nat) (st : Stream) : State :=
  match (if s.counts (s.core c) then (s.seq c st).due.find? (s.dueOver c st) else none) with
  | some d =>
    (s.modSeq c st fun q => { q with due := q.due.map fun x => if x = d then { x with cycles := 0 } else x }).raiseAt c st d.pc none
      (stallTrap st.num d.dst 0)
  | none => s

/-- TOKEN_STALL: a stall on a token queue has passed the context's stall limit (R25). -/
def execTokenStall (s : State) : Out :=
  .next (if ((s.seq s.me s.st).due.isEmpty) then
      s.limit fun
        | .token .. => true
        | _ => false
    else s.dueTrap s.me s.st)

/-- MARK_STALL_LIMIT (R134): it names the L-stream and the S-stream. -/
def execMarkStallLimit (s : State) : Out :=
  .next (s.limit fun
    | .mark _ => true
    | _ => false)

/-- SCALE_QUEUE_FULL_LIMIT (R224): it names the L-stream and the A-stream. -/
def execScaleQueueFullLimit (s : State) : Out :=
  .next (s.limit fun
    | .scaleFull => true
    | _ => false)

/-- SHORT_SCALE_QUEUE_LIMIT (R270): it names the L-stream and the A-stream. -/
def execShortScaleQueueLimit (s : State) : Out :=
  .next (s.limit fun
    | .scaleShort => true
    | _ => false)

/-- A wait of the C-stream or of a data stream that has passed its limit: WAIT_LIMIT (R226, R368, R413). -/
def State.waitLimit (s : State) (streams : List Stream) : State :=
  if streams.contains s.st then
    s.limit fun
      | .wait .. => true
      | _ => false
  else s

/-- OBJECT_WAIT_LIMIT: BWAIT or SQWAIT (R368). -/
def execObjectWaitLimit (s : State) : Out := .next (s.waitLimit [.c])

/-- CKWAIT_WAIT_LIMIT (R413). -/
def execCkwaitWaitLimit (s : State) : Out := .next (s.waitLimit [.c])

/-- WAITA_WAIT_LIMIT (R226). -/
def execWaitaWaitLimit (s : State) : Out := .next (s.waitLimit [.l, .s])

/-- GSYNC_WAIT_LIMIT (R343): the arrival is withdrawn. -/
def execGsyncWaitLimit (s : State) : Out :=
  .next (match (s.seq s.me .c).stall with
    | some x =>
      if x.why = .gsync ∧ s.st = .c ∧ s.counts (s.core s.me) ∧ s.overdue s.me .c x then
        (s.modCore s.me fun k => { k with gsyncIn := false }).limit fun
          | .gsync => true
          | _ => false
      else s
    | none => s)

/-- SERIAL_CAP_STALL_LIMIT (R437): LINK_TIMEOUT with reason 5, precise and restartable. -/
def execSerialCapStallLimit (s : State) : Out :=
  .next (s.limit fun
    | .serialCap .. => true
    | _ => false)

/-! ### The end of a cycle (R24, R25) -/

/-- Something that a stream must do in this cycle is left: a stall on a token queue that can end, or one that has reached its limit. -/
def State.leftToDo (s : State) (c : Nat) (st : Stream) : Bool :=
  let q := s.seq c st
  ((s.modCore c fun k => { k with reps := {} }).mayIssue c st && q.stall.any fun w => s.tokenGo c st w.why || s.overdue c st w) ||
    q.due.any fun d => !(s.core c).tqFull st.num d.dst || s.dueOver c st d

/-- The cycle cannot end yet (R24, R25). -/
def State.cycleOpen (s : State) : Bool :=
  s.cores.any fun (e : Nat × Core) => s.counts e.2 && [Stream.c, .l, .a, .s].any (s.leftToDo e.1)

end Sys2Proof.Machine
end

