-- ==== Sys2Proof/Machine/Pages.lean ====
section
/-! DEFINITION. Pages: handles and walks (R378 to R382), page faults and their answers (R384, R385), changing a mapping (R386
to R388), and the shared pool (R391 to R399). -/

namespace Sys2Proof.Machine

/-! ### Handles -/

/-- The page, as first address and bytes, that a handle stands for in an HSHOOT (R387). -/
def Handle.region (x : Handle) : Nat × Nat :=
  match x.st, x.tr with
  | .valid, some t => (x.va.toNat - x.va.toNat % pageBytes t.size, pageBytes t.size)
  | _, _ => (x.va.toNat - x.va.toNat % 0x10000000, 0x10000000)

/-- The value that hrd writes (Table 14.5). -/
def Handle.word (x : Handle) : X64 :=
  let st : BitVec 2 := match x.st with | .none => 0 | .pending => 1 | .valid => 2 | .stale => 3
  let b (v : Bool) : BitVec 1 := if v then 1 else 0
  let hi : BitVec 8 := match x.tr with
    | some t => st ++ BitVec.ofNat 2 t.size ++ b t.r ++ b t.w ++ b t.rem ++ b t.prv
    | none => st ++ (3 : BitVec 2) ++ (0 : BitVec 4)
  hi ++ (if x.st = .none then (0 : VAddr) else x.va)

/-- TRANS of an address into a handle (R380, Table 14.4): VALID when the stack's cache holds the translation, else
PENDING on a walk that starts. -/
def State.trans (s : State) (h : BitVec 5) (va : VAddr) : State :=
  let c := s.me
  match s.cached (stackOf c) (s.slotOf c) va with
  | some t => s.setHandle c h { st := .valid, va := va, tr := some t }
  | none =>
    let w : Walk := { id := s.nextId, core := s.about.core, slot := s.slotOf c, va := va, handle := h }
    let s := s.setHandle c h { st := .pending, va := va, walk := w.id }
    { s with walks := s.walks ++ [w], nextId := s.nextId + 1 }

/-- trans hd, xa (R380). -/
def execTrans (h a : BitVec 5) (s : State) : Out := .next (s.finish (.ok (s.trans h (fld (s.x a) 0 56))))

/-- What the end `e` of a walk leaves (R377, R381, Table 14.4): the cache takes a valid translation, the handle that waits takes
its new state, and a use frozen on it goes on; a retranslation that fails is a page fault of its use (R384). -/
def State.endWalk (s : State) (w : Walk) (e : WalkEnd) : State :=
  let c := w.core.toNat
  let x := vget (s.core c).h w.handle.toNat {}
  let mine := decide (x.walk = w.id) && (x.st == .pending || (x.st == .stale && w.use.isSome))
  let s := { s with walks := s.walks.filter fun (v : Walk) => v.id != w.id }
  let s := match e with
    | .valid t =>
      let s := s.cache (stackOf c) w.slot w.va t
      if !mine then s
      else if w.overlapped then s.setHandle c w.handle { x with st := .stale }
      else s.setHandle c w.handle { x with st := .valid, tr := some t }
    | _ =>
      let s := if mine then s.setHandle c w.handle { x with st := .stale } else s
      match mine, w.use, (s.core c).task with
      | true, some (kind, acc), some t =>
        s.pageFault c (kind + (if e = WalkEnd.error then 0x80 else 0)) (w.va.setWidth 64) acc (.handle w.handle) t w.slot
      | _, _, _ => s
  match (s.core c).task with
  | some t => s.unfreeze t (.walk w.id)
  | none => s

/-- A walk that a use waits for would end in a fault while a fault of its member is unanswered: it posts no record before the answer, and
goes on until then (R384).
(DEDUCED: log entry 125.) -/
def State.walkHolds (s : State) (w : Walk) (e : WalkEnd) : Bool := match e with
  | .valid _ => false
  | _ => w.use.isSome && s.faults.any fun f => f.core == w.core

/-- WALK_END: walk `about.k` ends valid, absent or in a walk error. -/
def execWalkEnd (s : State) : Out :=
  match s.walks.find? (·.id = s.about.k) with
  | none => .next s
  | some w =>
    let e := s.walk w.slot w.va
    .next (if s.walkHolds w e then s else s.endWalk w e)

/-- hinv ha (R382). -/
def execHinv (h : BitVec 5) (s : State) : Out := .next (s.finish (.ok (s.setHandle s.me h {})))

/-- hrd xd, ha (R382). -/
def execHrd (d h : BitVec 5) (s : State) : Out := s.setAdv d (s.handle h).word

/-! ### Answers to page faults -/

/-- The ring entry of a page fault is free from its answer (R405). -/
def State.freeFault (s : State) (fid : Nat) : State :=
  let s := { s with faults := s.faults.filter fun (f : PFault) => f.fid != fid }
  (s.modCtx s.hub.fhctx fun k =>
    { k with posted := k.posted.filter fun (p : Posted) => p.item != TqItem.fault fid }).pump s.hub.fhctx

/-- An item of a number is changed. -/
def State.modItem (s : State) (id : Nat) (f : Item → Item) : State :=
  { s with items := s.items.map fun (i : Item) => if i.id = id then f i else i }

/-- FAULTCMD RETRY (R385): the walk is made again; a fault that does not end posts a new record. -/
def State.faultRetry (s : State) (fid : Nat) : State :=
  match s.faults.find? (·.fid = fid) with
  | none => s.freeFault fid
  | some f =>
    let c := f.core.toNat
    let va : VAddr := fld f.va 0 56
    match s.walk f.ctx va with
    | .valid t =>
      let s := s.cache (stackOf c) f.ctx va t
      let s := match f.who with
        | .handle h =>
          let x := vget (s.core c).h h.toNat {}
          if x.va = va ∧ x.st = HState.stale then s.setHandle c h { x with st := .valid, tr := some t } else s
        | .item id => s.modItem id fun i => { i with st := .running }
        | _ => s
      (s.freeFault fid).unfreeze f.task (.pageFault fid)
    | e =>
      let kind : BitVec 8 := (f.kind &&& 0x7F) + (if e = .error then 0x80 else 0)
      let next := s.newFid
      let s := match f.who with
        | .item id => s.modItem id fun i => { i with st := .faulted next }
        | _ => s
      ((s.pageFault c kind f.va f.acc f.who f.task f.ctx).freeFault fid).unfreeze f.task (.pageFault fid)

/-- FAULTCMD ABSENT (R385): the use raises PAGE_ABSENT, and an item ends with ENGINE_FAULT.
(DEDUCED: log entry 58.) -/
def State.faultAbsent (s : State) (fid : Nat) : State :=
  match s.faults.find? (·.fid = fid) with
  | none => s.freeFault fid
  | some f =>
    let c := f.core.toNat
    let t : Trap := { cause := cPAGE_ABSENT, addr := f.acc }
    let s := s.freeFault fid
    match f.who with
    | .item id =>
      let s := s.unfreeze f.task (.pageFault fid)
      (match s.items.find? (·.id = id) with
       | some i => s.itemFail { i with st := .running } cENGINE_FAULT f.va
       | none => s)
    | .fetch st => (s.raise c st t).unfreeze f.task (.pageFault fid)
    | _ => (s.raise c .c t).unfreeze f.task (.pageFault fid)

/-- FAULTCMD_RETRY: the runtime answers fault `about.k` with RETRY. -/
def execFaultcmdRetry (s : State) : Out := .next (s.faultRetry s.about.k)

/-- FAULTCMD_ABSENT: the runtime answers fault `about.k` with ABSENT. -/
def execFaultcmdAbsent (s : State) : Out := .next (s.faultAbsent s.about.k)

/-! ### Splitting and shooting down -/

/-- A physical address that a P1 page instruction reads or writes: absent where nothing lies (R107, R388). -/
def physKey (avail : BitVec 16) (pa : Nat) : Option Nat :=
  match regionOf pa with
  | .second _ | .host => some pa
  | .tower k c _ => if layerIn avail (stackOf c) k then some pa else none
  | _ => none

/-- A leaf entry with a number added to its ADDR field alone, and LEAF set (R388). -/
def leafAt (old : BitVec 64) (n : Nat) : BitVec 64 :=
  (fld old 52 12 : BitVec 12) ++ ((fld old 9 43 : BitVec 43) + BitVec.ofNat 43 n) ++ ((fld old 0 9 : BitVec 9) ||| 2)

/-- Splnt (R388), as one event: 64 entries of table `t`, then the pointer in place of the leaf.
(DEDUCED: log entry 59.) -/
def State.splnt (s : State) (e t : Nat) (large : Bool) : Res :=
  let absent (a : Nat) : Res := .trap { cause := cPAGE_ABSENT, addr := BitVec.ofNat 64 a }
  match physKey s.layeravail e with
  | none => absent e
  | some e =>
    match poisonIn s e 8 with
    | some l => .trap (poisonTrap s.me l false)
    | none =>
      let old := s.get e 8
      if old % 4 ≠ 3 then absent e
      else match physKey s.layeravail t with
        | none => absent t
        | some t =>
          let step := if large then 0x400000 else 0x10000
          let entries := (List.range 64).flatMap fun i => natBytes (leafAt (BitVec.ofNat 64 old) (i * (step / 512))).toNat 8
          let slot := s.slotOf s.me
          match s.commit slot (s.plogKey slot t) t entries with
          | none => .hold (s.logFull slot s.me (s.seq s.me .c).pc .c)
          | some s' =>
            match (s'.hubRead e).commit slot (s.plogKey slot e) e (natBytes (t ||| 1) 8) with
            | none => .hold (s'.logFull slot s.me (s.seq s.me .c).pc .c)
            | some s'' => .ok s''

/-- splnt xa (R388), at P1; an odd register is no instruction. -/
def execSplnt (a : BitVec 5) (s : State) : Out :=
  let x := s.x a
  let y := s.x (a + 1)
  .next (s.finish
    (if !s.isP1 s.me then .trap (s.privTrap 0)
     else if !s.fenceRel 5 then .wait s .fence
     else s.splnt (bitsNat x 51 3 * 8) (bitsNat y 51 9 * 512) (x.getLsbD 0)))

/-- Two ranges of addresses overlap. -/
def rangesMeet (a n b m : Nat) : Bool := decide (a < b + m) && decide (b < a + n)

/-- The drop of HSHOOT (R387): cached translations, handles and walks of a context over `n` bytes from `start`. -/
def State.shoot (s : State) (slot : Slot) (start n : Nat) : State :=
  let meets (x : Handle) : Bool := rangesMeet x.region.1 x.region.2 start n
  { s with
    tlb := s.tlb.filter fun (e : Cached) => !(e.slot = slot && rangesMeet e.page (pageBytes e.tr.size) start n)
    walks := s.walks.map fun (w : Walk) =>
      if w.slot = slot ∧ rangesMeet (w.va.toNat - w.va.toNat % 0x10000000) 0x10000000 start n then
        { w with overlapped := true } else w
    cores := s.cores.map fun (e : Nat × Core) =>
      if (s.taskOf e.1).isSome ∧ s.slotOf e.1 = slot then
        (e.1, { e.2 with h := e.2.h.map fun (x : Handle) =>
          if (x.st = .valid ∨ x.st = .pending) ∧ meets x then { x with st := .stale } else x })
      else e }

/-- An access of a core issued below a number, through a page that the range overlaps, that is neither performed nor visible. -/
def Core.usesRange (k : Core) (mark start n : Nat) : Bool :=
  let meets (va : X64) (span : Nat) : Bool := span != 0 && rangesMeet (va.toNat - va.toNat % span) span start n
  (k.cReads.any fun (r : Read) => decide (r.no < mark) && r.value.isNone && meets r.va r.span) ||
  (k.cStores.any fun (e : Store) => decide (e.no < mark) && meets e.va e.span)

/-- hshoot xa, xb (R387), at P1. -/
def execHshoot (a b : BitVec 5) (s : State) : Out :=
  let c := s.me
  let start := bitsNat (s.x a) 55 0
  let slot : Slot := fld (s.x b) 0 8
  let pages := bitsNat (s.x b) 47 16
  let n := Nat.min (pages * 0x10000) (2 ^ 56 - start)
  .next (s.finish
    (if !s.isP1 c then .trap (s.privTrap 0)
     else if start % 0x10000 ≠ 0 then .trap { cause := cMISALIGN, addr := BitVec.ofNat 64 start }
     else if pages = 0 then .ok s
     else match (s.core c).cmd with
       | some (.hshoot items blocks marks) =>
         if (s.items.any fun (i : Item) => items.contains i.id || (i.st == .queued && blocks.contains i.id)) ||
             marks.any (fun m => (s.core m.1).usesRange m.2 start n) then .wait s .other
         else .ok (s.modCore c fun k => { k with cmd := none })
       | _ =>
         if !s.fenceRel 5 then .wait s .fence
         else
           let held := s.items.filter fun (i : Item) => i.ctx == slot && i.pages.any fun p => rangesMeet p.1 p.2 start n
           let items := (held.filter fun (i : Item) => i.st != .queued).map (·.id)
           let blocks := (held.filter fun (i : Item) => i.st == .queued).map (·.id)
           let marks := (s.cores.filter fun (e : Nat × Core) => (s.taskOf e.1).isSome && s.slotOf e.1 == slot).map
             fun (e : Nat × Core) => (e.1, e.2.accNo)
           .wait ((s.shoot slot start n).modCore c fun k => { k with cmd := some (.hshoot items blocks marks) }) .other))

/-! ### The shared pool -/

/-- A pool slot with the fields that the hub reads from its entry (Table 14.8). -/
def State.poolSlot (s : State) (n : Nat) : PoolSlot :=
  let e := s.poolEntry n
  { (look n s.pool).getD {} with
    pa := s.get e 8, back := s.get (e + 8) 8, repl := s.get (e + 16) 8, pinned := s.get (e + 24) 1 % 2 = 1 }

/-- The code of a slot's state (Table 14.8). -/
def PState.code : PState → Nat
  | .empty => 0 | .filling => 1 | .resident => 2 | .draining => 3 | .poisoned => 4

/-- A pool slot changed, with its hub fields written back (R391). -/
def State.setPool (s : State) (n : Nat) (x : PoolSlot) : State :=
  let s := { s with pool := put n x s.pool }
  s.hubPut (s.poolEntry n + 25) [BitVec.ofNat 8 x.st.code, if x.dirty then 1 else 0]

/-- The completion action of a move-up (R397): a SeqAdd with the overflow of R370. -/
def State.poolAdd (s : State) (r : Nat × X64 × Slot × CoreId × VAddr) : State :=
  let t := s.taskOf r.2.2.2.1.toNat
  s.hubAdd r.2.2.1
    { key := r.1, addr := r.2.1, who := some r.2.2.2, queue := (t.map fun x => BitVec.ofNat 18 x.queue).getD 0
      card := (t.map (·.cardNo)).getD 0 }

/-- Eviction by Table 14.9. That of a POISONED slot ends a replica refetch in progress, whose counters are then added.
(DEDUCED: log entry 109.) -/
def State.poolEvict (s : State) (n : Nat) (x : PoolSlot) : State :=
  if x.pinned then s.setPool n x
  else match x.st with
    | .filling => s.setPool n { x with evict := true }
    | .resident => s.setPool n { x with st := .draining }
    | .poisoned => x.ctrs.foldl State.poolAdd (s.setPool n { x with st := .empty, refetch := false, ctrs := [] })
    | _ => s.setPool n x

/-- A page that a fill or a drain reads or writes is memory that is there: an unmapped one, or one of a retired layer, is neither read nor
written (R107). -/
def State.backed (s : State) (pa : Nat) : Bool := match regionOf pa with
  | .second _ | .host => true
  | .tower k col _ => layerIn s.layeravail (stackOf col) k
  | .hub | .unmapped => false

/-- A fill starts, or is refused when the slot's addresses do not lie where they must (R107, R397). -/
def State.poolFill (s : State) (n : Nat) (x : PoolSlot) (slot : Slot) (core : CoreId) (pc : VAddr) : State :=
  let okPa := match regionOf x.pa with | .tower .. => s.backed x.pa | _ => false
  let okBack := match regionOf x.back with | .second _ => true | _ => false
  if okPa && okBack then s.setPool n { x with st := .filling, moveup := none, refetch := false }
  else
    (s.setPool n { x with st := .empty, moveup := none, ctrs := [] }).async slot
      { cause := cENGINE_FAULT, addr := BitVec.ofNat 64 (if okPa then x.back else x.pa) } core.toNat pc .c
      (s.taskOf core.toNat)

/-- A move-up by Table 14.9 (R392, R393, R397). -/
def State.poolMoveUp (s : State) (n : Nat) (ctr : Option (Nat × X64)) : State :=
  let x := s.poolSlot n
  let slot := s.slotOf s.me
  let pc := (s.seq s.me .c).pc
  let mine := match ctr with
    | some k => [(k.1, k.2, slot, s.about.core, pc)]
    | none => []
  match x.st with
  | .empty => s.poolFill n { x with ctrs := mine } slot s.about.core pc
  | .filling => s.setPool n { x with ctrs := x.ctrs ++ mine }
  | .resident => mine.foldl State.poolAdd (s.setPool n x)
  | .draining =>
    s.setPool n { x with moveup := x.moveup.or (some (slot, s.about.core, pc)), ctrs := x.ctrs ++ mine }
  | .poisoned =>
    if x.repl = 0 then mine.foldl State.poolAdd (s.setPool n x)
    else s.setPool n { x with refetch := true, ctrs := x.ctrs ++ mine }

/-- PAGE_ABSENT of a slot at or beyond PLCOUNT (R397). -/
def State.poolAbsent (s : State) (n : Nat) : Trap := { cause := cPAGE_ABSENT, addr := BitVec.ofNat 64 (s.poolEntry n) }

/-- poolup xa, xb (R397), at P1. -/
def execPoolup (a b : BitVec 5) (s : State) : Out :=
  let n := bitsNat (s.x a) 14 0
  let v := s.x b
  .next (s.finish
    (if !s.isP1 s.me then .trap (s.privTrap 0)
     else if s.hub.plcount.toNat ≤ n then .trap (s.poolAbsent n)
     else if v = 0 then (if s.fenceRel 0 then .ok (s.poolMoveUp n none) else .wait s .fence)
     else match s.object v 8 2 with
       | .trap t s' => .after s' t
       | .hold s' => .hold s'
       | .key k _ s' => if s'.fenceRel 0 then .ok (s'.poolMoveUp n (some (k, v))) else .wait s' .fence
       | .hub _ _ s' | .remote _ _ _ s' => .after s' { cause := cPAGE_PERM, addr := v }))

/-- poolev xa (R398), at P1. -/
def execPoolev (a : BitVec 5) (s : State) : Out :=
  let n := bitsNat (s.x a) 14 0
  .next (s.finish
    (if !s.isP1 s.me then .trap (s.privTrap 0)
     else if s.hub.plcount.toNat ≤ n then .trap (s.poolAbsent n)
     else .ok (s.poolEvict n (s.poolSlot n))))

/-- Insertion into a list of (age, slot) by descending age, then ascending slot (R399). -/
def ageIns (x : Nat × Nat) : List (Nat × Nat) → List (Nat × Nat)
  | [] => [x]
  | y :: t => if y.1 < x.1 then x :: y :: t else y :: ageIns x t

/-- The `n` oldest RESIDENT unpinned slots (R399). -/
def State.poolOldest (s : State) (n : Nat) : List Nat :=
  let live := s.pool.filter fun e => decide (e.1 < s.hub.plcount.toNat) && (s.poolSlot e.1).st == .resident &&
    !(s.poolSlot e.1).pinned
  ((live.foldl (fun l e => ageIns (e.2.age.toNat, e.1) l) []).map (·.2)).take n

/-- Every slot's entry is read (R139, R399). -/
def State.poolNamed (s : State) : State :=
  { s with pool := (List.range s.hub.plcount.toNat).foldl (fun l n => put n (s.poolSlot n) l) s.pool }

/-- poolscan xd, xa (R399), at P1. -/
def execPoolscan (d a : BitVec 5) (s : State) : Out :=
  let v := s.x a
  let n := Nat.min 64 (bitsNat v 39 32)
  let p : PlaceAddr := fld v 0 32
  .next (s.finish
    (if !s.isP1 s.me then .trap (s.privTrap 0)
     else match s.place s.me p (offOf p) (4 * n) 64 with
       | .error t => .trap t
       | .ok key =>
         if !s.fenceRel 0 then .wait s .fence
         else
           let s := s.poolNamed
           let l := s.poolOldest n
           let slot := s.slotOf s.me
           match s.commit slot (s.plogKey slot key) key (l.flatMap fun i => natBytes i 4) with
           | none => .hold (s.logFull slot s.me (s.seq s.me .c).pc .c)
           | some s' => .ok (s'.setX d (BitVec.ofNat 64 l.length))))

/-- A line that a fill or a refetch reads returns uncorrectable: it is poisoned, or an uncorrectable error is found in it now, as
`about.nats` says of BACK's lines by number and, from 1024 on, of the replica's (R108, R393), or it cannot be read (R107).
(DESIGN CHOICE: log entry 60.) -/
def State.lineBad (s : State) (line i : Nat) : Bool :=
  s.poison.contains line || s.about.nats.contains i || !s.backed (64 * line)

/-- One line of a fill (R393): from BACK, or once from the replica when BACK's is uncorrectable; poisoned when neither is good. -/
def State.fillLine (s : State) (x : PoolSlot) (i : Nat) : State :=
  let src := x.back + 64 * i
  let rep := x.repl + 64 * i
  let dst := x.pa + 64 * i
  if !s.backed dst then s
  else if !s.lineBad (src / 64) i then s.write dst (s.bytesAt src 64)
  else if x.repl ≠ 0 ∧ !s.lineBad (rep / 64) (1024 + i) then s.write dst (s.bytesAt rep 64)
  else s.poisonLine (dst / 64)

/-- A poisoned line refetched once from the replica (R393). -/
def State.refetchLine (s : State) (x : PoolSlot) (i : Nat) : State :=
  let rep := x.repl + 64 * i
  let dst := x.pa + 64 * i
  if s.backed dst ∧ s.poison.contains (dst / 64) ∧ !s.lineBad (rep / 64) (1024 + i) then s.write dst (s.bytesAt rep 64) else s

/-- POOL_FILL_END: the fill or replica refetch of slot `about.k` ends (R392, R393, R397), then a deferred eviction. -/
def execPoolFillEnd (s : State) : Out :=
  let n := s.about.k
  match look n s.pool with
  | none => .next s
  | some x =>
    if x.st = .filling ∨ (x.st = .poisoned ∧ x.refetch) then
      let lines := List.range 1024
      let s := if x.st = .filling then lines.foldl (fun s i => s.fillLine x i) s
        else lines.foldl (fun s i => s.refetchLine x i) s
      let bad := lines.any fun i => s.poison.contains (x.pa / 64 + i)
      let x' : PoolSlot := { x with
        st := if bad then .poisoned else .resident, refetch := false, ctrs := [], evict := false
        dirty := if x.st = .filling then false else x.dirty, age := 0 }
      let s := x.ctrs.foldl State.poolAdd (s.setPool n x')
      .next (if x.evict then s.poolEvict n x' else s)
    else .next s

/-- POOL_DRAIN_END: the drain of slot `about.k` ends (R394); a move-up that waits starts its refill. -/
def execPoolDrainEnd (s : State) : Out :=
  let n := s.about.k
  match look n s.pool with
  | none => .next s
  | some x =>
    if x.st = .draining then
      let s := if x.dirty then
          (List.range 1024).foldl (fun s i =>
            let src := x.pa + 64 * i
            let dst := x.back + 64 * i
            if !s.backed src then s else if s.poison.contains (src / 64) then s.poisonLine (dst / 64) else s.write dst (rdBytes s.mem src 64)) s
        else s
      let x' : PoolSlot := { x with st := .empty }
      match x.moveup with
      | some who => .next (s.poolFill n x' who.1 who.2.1 who.2.2)
      | none => .next (s.setPool n x')
    else .next s

/-- Cycles of 100 µs of package time (R396). -/
def ageCycles : Nat := 70000

/-- POOL_AGE_TICK: 100 µs of package time have passed since the last one (R396). -/
def execPoolAgeTick (s : State) : Out :=
  if s.cycle / ageCycles ≤ s.poolAges then .next s
  else .next { s with
    poolAges := s.poolAges + 1
    pool := s.pool.map fun e => (e.1, { e.2 with age := if e.2.age = 255 then 255 else e.2.age + 1 }) }

end Sys2Proof.Machine
end

