-- ==== Sys2Proof/Machine/Control.lean ====
section
/-! DEFINITION. Steer registers, transfers and hardware loops of every stream (R182 to R197, R228, R229, R259). -/

namespace Sys2Proof.Machine

/-! ### Steer registers -/

/-- A new target: the prefetch starts, an earlier one is abandoned (Table 6.5, R184). -/
def Steer.prepare (j : Steer) (t : VAddr) : Steer := { j with target := t, st := .fetching, buf := {} }

/-- The condition half written (Table 6.5). -/
def Steer.setCond (j : Steer) (b : Bool) : Steer := { j with cond := if b then .true else .false }

/-- An engine's delivery (Table 6.5). -/
def Steer.deliver (j : Steer) (t : VAddr) : Steer := { j.prepare t with cond := .unset }

/-- Steer register j of the issuing stream. -/
def State.myJ (s : State) (j : Nat) : Steer := s.steer s.me s.st j

/-- The state with steer register j of the issuing stream changed. -/
def State.modJ (s : State) (j : Nat) (f : Steer → Steer) : State := s.modSteer s.me s.st j f

/-- The value that jrd writes (Table 6.6). -/
def Steer.word (j : Steer) : X64 :=
  let c : BitVec 2 := match j.cond with | .unset => 0 | .true => 1 | .false => 2
  let t : BitVec 2 := match j.st with | .empty => 0 | .fetching => 1 | .ready => 2 | .stale => 3
  c ++ t ++ (0 : BitVec 4) ++ (if j.st = .empty then (0 : VAddr) else j.target)

/-- A steer register made FETCHING at `t`; a target that is no multiple of 4 raises MISALIGN (R184). -/
def State.prepTo (s : State) (j : Nat) (t : VAddr) : Res :=
  if t.toNat % 4 ≠ 0 then .trap { cause := cMISALIGN, addr := t.setWidth 64 }
  else .ok (s.modJ j (·.prepare t))

/-- The program counter of the issuing stream. -/
def State.pc (s : State) : VAddr := (s.seq s.me s.st).pc

/-- A prepared transfer that is decided: it waits for READY, refetching a STALE register, then sets Pending and opens
its delay slot (R187, R188). -/
def State.takeXfer (s : State) (j : Nat) : Res :=
  let r := s.myJ j
  match r.st with
  | .stale => .wait (s.modJ j (fun r => { r with st := .fetching, buf := {} })) .other
  | .fetching | .empty => .wait s .other
  | .ready => .ok (s.modSeq s.me s.st fun q => { q with pending := some (r.target, r.buf) })

/-- STEER_EMPTY or COND_UNSET of a transfer (Table 15.7). -/
def xferTrap (cause : BitVec 8) (r : Steer) (j kind : Nat) : Trap :=
  { cause := cause, addr := if r.st = .empty then 0 else r.target.setWidth 64, detail := BitVec.ofNat 64 (j + 16 * kind) }

/-- Xfer (R187), less the delay slot: `kind` is 0 for .a, 1 for .t, 2 for .f, and `c` is the condition tested. A payload
takes the place of the condition half (R229). -/
def State.xfer (s : State) (kind j : Nat) (payload : Option Bool) : Res :=
  let r := s.myJ j
  let c : Cond := match payload with
    | some b => if b then .true else .false
    | none => r.cond
  if s.inSlot then .trap (s.illegal false)
  else if r.st = .empty then .trap (xferTrap cSTEER_EMPTY r j kind)
  else if kind ≠ 0 ∧ c = .unset then .trap (xferTrap cCOND_UNSET r j kind)
  else if kind = 0 ∨ (kind = 1 ∧ c = .true) ∨ (kind = 2 ∧ c = .false) then s.takeXfer j
  else .ok s

/-- The next instruction of the issuing stream stands in a delay slot (R188). -/
def State.openSlot (s : State) : State := s.modSeq s.me s.st fun q => { q with slot := true }

/-- The outcome of a transfer: its stream goes on into the delay slot (R188). -/
def State.finishX (s : State) (r : Res) : State :=
  match r with
  | .ok s' => s'.advance.openSlot
  | r => s.finish r

/-! ### Loop levels -/

def State.level (s : State) (lp : Nat) : Option Level := vget (s.seq s.me s.st).lp lp none

def State.setLevel (s : State) (lp : Nat) (l : Option Level) : State :=
  s.modSeq s.me s.st fun q => { q with lp := vset q.lp lp l }

/-- Loop (R195). -/
def State.loop (s : State) (lp : Nat) (n : X64) (skip : Nat) : Res :=
  let a := s.pc
  if s.inSlot then .trap (s.illegal false)
  else if n = 0 then .go s (a + BitVec.ofNat 56 (4 * skip))
  else .ok (s.setLevel lp (some (.count (a + 4) (a + BitVec.ofNat 56 (4 * (skip - 1))) n)))

/-- loopc (R196). -/
def State.loopc (s : State) (lp j max : Nat) : Res :=
  if s.inSlot then .trap (s.illegal false)
  else .ok (s.setLevel lp (some (.cond (s.pc + 4) none 1 j max)))

/-- Lend (R197); a payload gives the exit condition of a conditional level (R228). -/
def State.lend (s : State) (lp : Nat) (payload : Option Bool) : Res :=
  let e := s.pc
  if s.inSlot then .trap (s.illegal false)
  else match s.level lp with
  | none => .trap (s.illegal false)
  | some (.count start stop left) =>
    if stop ≠ e then .trap (s.illegal false)
    else if left - 1 ≠ 0 then .go (s.setLevel lp (some (.count start stop (left - 1)))) start
    else .ok (s.setLevel lp none)
  | some (.cond start stop trip j max) =>
    if stop.isSome ∧ stop ≠ some e then .trap (s.illegal false)
    else
      let r := s.myJ j
      let c : Cond := match payload with
        | some b => if b then .true else .false
        | none => r.cond
      match c with
      | .unset =>
        .trap { cause := cCOND_UNSET, addr := if r.st = .empty then 0 else r.target.setWidth 64
                detail := BitVec.ofNat 64 (j + 64 + 256 * lp) }
      | .true => .ok ((s.modJ j fun r => { r with cond := .unset }).setLevel lp none)
      | .false =>
        if trip = max then
          .trap { cause := cLOOP_LIMIT, addr := (start - 4).setWidth 64, detail := BitVec.ofNat 64 lp }
        else
          .go ((s.modJ j fun r => { r with cond := .unset }).setLevel lp (some (.cond start (some e) (trip + 1) j max))) start

/-! ### C-stream instructions -/

/-- cmp.cc j, xa, xb (R185). -/
def execCmp (cc a b : BitVec 5) (j : BitVec 4) (s : State) : Out :=
  .next (s.finish (.ok (s.modJ j.toNat (·.setCond (condHolds cc (s.x a) (s.x b))))))

/-- cmpi.cc j, xa, imm12 (R156, R185). -/
def execCmpi (cc a : BitVec 5) (imm : BitVec 12) (j : BitVec 4) (s : State) : Out :=
  .next (s.finish (.ok (s.modJ j.toNat (·.setCond (condHolds cc (s.x a) (sx imm))))))

/-- Two conditions combined; UNSET when either is UNSET (R185). -/
def condBin (f : Bool → Bool → Bool) (a b : Cond) : Cond :=
  if a = .unset ∨ b = .unset then .unset else if f (a == .true) (b == .true) then .true else .false

/-- jand j, ja, jb (R185). -/
def execJand (j ja jb : BitVec 4) (s : State) : Out :=
  let c := condBin and (s.myJ ja.toNat).cond (s.myJ jb.toNat).cond
  .next (s.finish (.ok (s.modJ j.toNat fun r => { r with cond := c })))

/-- jor j, ja, jb (R185). -/
def execJor (j ja jb : BitVec 4) (s : State) : Out :=
  let c := condBin or (s.myJ ja.toNat).cond (s.myJ jb.toNat).cond
  .next (s.finish (.ok (s.modJ j.toNat fun r => { r with cond := c })))

/-- jmov j, ja (R185, Table 6.5). -/
def execJmov (j ja : BitVec 4) (s : State) : Out :=
  let a := s.myJ ja.toNat
  .next (s.finish (.ok
    (if j = ja then s
     else s.modJ j.toNat fun r => if a.st = .empty then {} else { r.prepare a.target with cond := a.cond })))

/-- jclr j (R185, Table 6.5). -/
def execJclr (j : BitVec 4) (s : State) : Out := .next (s.finish (.ok (s.modJ j.toNat fun _ => {})))

/-- prep j, label (R184). -/
def execPrep (j : BitVec 4) (off : BitVec 22) (s : State) : Out :=
  .next (s.finish (s.prepTo j.toNat (s.pc + (off.signExtend 56) * 4)))

/-- prepx j, xa (R184). -/
def execPrepx (j : BitVec 4) (a : BitVec 5) (s : State) : Out := .next (s.finish (s.prepTo j.toNat (fld (s.x a) 0 56)))

/-- xfer.a j (R187). -/
def execXferA (j : BitVec 4) (s : State) : Out := .next (s.finishX (s.xfer 0 j.toNat none))

/-- xfer.t j (R187). -/
def execXferT (j : BitVec 4) (s : State) : Out := .next (s.finishX (s.xfer 1 j.toNat none))

/-- xfer.f j (R187). -/
def execXferF (j : BitVec 4) (s : State) : Out := .next (s.finishX (s.xfer 2 j.toNat none))

/-- xferl j, ja (R191): an always-taken transfer that also prepares the return address. -/
def execXferl (j ja : BitVec 4) (s : State) : Out :=
  let r := s.myJ j.toNat
  .next (s.finishX
    (if s.inSlot then .trap (s.illegal false)
     else if r.st = .empty then .trap (xferTrap cSTEER_EMPTY r j.toNat 3)
     else match s.takeXfer j.toNat with
       | .ok s' => .ok (s'.modJ ja.toNat (·.prepare (s.pc + 8)))
       | r => r))

/-- jrd xd, j (R186). -/
def execJrd (d : BitVec 5) (j : BitVec 4) (s : State) : Out := s.setAdv d (s.myJ j.toNat).word

/-- loop lp, xa, end (R195). -/
def execLoop (lp : BitVec 2) (a : BitVec 5) (skip : BitVec 16) (s : State) : Out :=
  .next (s.finish (s.loop lp.toNat (s.x a) skip.toNat))

/-- loopc lp, j, max (R196). -/
def execLoopc (lp : BitVec 2) (j : BitVec 4) (max : BitVec 20) (s : State) : Out :=
  .next (s.finish (s.loopc lp.toNat j.toNat max.toNat))

/-- lend lp (R197). -/
def execLend (lp : BitVec 2) (s : State) : Out := .next (s.finish (s.lend lp.toNat none))

/-! ### The forms of the L-, S- and A-stream (Table 5.6, R228, R229, R259) -/

/-- loop lp, count, end: the count, or the C-stream payload, is the trip count (R228). -/
def execLoopDA (lp : BitVec 2) (skip : BitVec 8) (count : BitVec 12) (tok : Tok) (s : State) : Out :=
  .next (s.finish (s.tokRun tok false fun p => s.loop lp.toNat (p.getD (count.setWidth 64)) skip.toNat))

/-- loopc lp, j, max (R228). -/
def execLoopcDA (lp : BitVec 2) (j : BitVec 2) (max : BitVec 18) (tok : Tok) (s : State) : Out :=
  .next (s.finish (s.tokRun tok false fun _ => s.loopc lp.toNat j.toNat max.toNat))

/-- lend lp (R228): bit 0 of a payload is the exit condition of a conditional level. -/
def execLendDA (lp : BitVec 2) (tok : Tok) (s : State) : Out :=
  .next (s.finish (s.tokRun tok false fun p => s.lend lp.toNat (p.map (·.getLsbD 0))))

/-- The rotation bases step (R239). -/
def State.rotate (s : State) : State :=
  s.modCore s.me fun k => { k with vrot := k.vrot - 1, prot := k.prot - 1 }

/-- lend.r lp, of the A-stream (R239, R259): a lend that completes also steps the rotation bases. -/
def execLendR (lp : BitVec 2) (tok : Tok) (s : State) : Out :=
  .next (s.finish (s.tokRun tok false fun p =>
    match s.lend lp.toNat (p.map (·.getLsbD 0)) with
    | .ok s' => .ok s'.rotate
    | .go s' a => .go s'.rotate a
    | r => r))

/-- prep j, label (R229): bits [55:0] of a payload are the target. -/
def execPrepDA (j : BitVec 2) (off : BitVec 20) (tok : Tok) (s : State) : Out :=
  .next (s.finish (s.tokRun tok false fun p =>
    s.prepTo j.toNat (match p with
      | some v => fld v 0 56
      | none => s.pc + (off.signExtend 56) * 4)))

/-- xfer.a j (R229); a payload is discarded. -/
def execXferADA (j : BitVec 2) (tok : Tok) (s : State) : Out :=
  .next (s.finishX (s.tokRun tok false fun _ => s.xfer 0 j.toNat none))

/-- xfer.t j (R229). -/
def execXferTDA (j : BitVec 2) (tok : Tok) (s : State) : Out :=
  .next (s.finishX (s.tokRun tok false fun p => s.xfer 1 j.toNat (p.map (·.getLsbD 0))))

/-- xfer.f j (R229): bit 0 of a payload is the condition tested, and the transfer is taken when it is FALSE. -/
def execXferFDA (j : BitVec 2) (tok : Tok) (s : State) : Out :=
  .next (s.finishX (s.tokRun tok false fun p => s.xfer 2 j.toNat (p.map (·.getLsbD 0))))

/-- nop of a data stream or of the A-stream (R150): only its tokens move. -/
def execNopDA (tok : Tok) (s : State) : Out := .next (s.finish (s.tokRun tok false fun _ => .ok s))

/-- nop of the C-stream (R150). -/
def execNop (s : State) : Out := .next (s.finish (.ok s))

/-! ### Events of steer registers -/

/-- PREFETCH_COMPLETE: the prefetch of register `about.n` of stream `about.stream` of core `about.core` ends; its target
buffer holds the four lines from the target's line on (R182, R183, Table 6.5). A prefetch never traps. -/
def execPrefetchComplete (s : State) : Out :=
  let r := s.myJ s.about.n
  if r.st = .fetching then
    let base : VAddr := r.target &&& ~~~ 63
    let words := (List.range 64).map fun i => s.fetchAt s.me (base + BitVec.ofNat 56 (4 * i))
    .next (s.modJ s.about.n fun r => { r with st := .ready, buf := { base := base, words := words } })
  else .next s

/-- STEER_DELIVERY: delivery number `about.k` of those outstanding lands (R193, R28); deliveries to one register land in
order. -/
def execSteerDelivery (s : State) : Out :=
  match s.deliveries[s.about.k]? with
  | some d =>
    if (s.deliveries.take s.about.k).any fun e => e.core = d.core ∧ e.stream = d.stream ∧ e.j = d.j then .next s
    else
      .next { s.modSteer d.core.toNat d.stream d.j (·.deliver d.target) with
              deliveries := s.deliveries.eraseIdx s.about.k }
  | none => .next s

end Sys2Proof.Machine
end

