-- ==== Sys2Proof/Machine/Vector.lean ====
section
/-! DEFINITION. The vector instructions of the A-stream (R235 to R258): integer, shift, logic, permutation, floating-point,
compare, conversion, packed-pixel, reduction and predicate instructions, VTYPE and VCMPJ, and the write of a delayed
result. -/

namespace Sys2Proof.Machine

/-! ### Integer (Table 8.8) -/

/-- What vadd computes (R247; a + b). -/
def runVadd (f : V3) : VRun :=
  runInt3 f fun k _ a b => k.wrap (a + b)

/-- vadd vd, va, vb (R247). -/
def execVadd (f : V3) (s : State) : Out := s.vec f.tok 1 f.t (runVadd f)

/-- What vsub computes (R247; a − b). -/
def runVsub (f : V3) : VRun :=
  runInt3 f fun k _ a b => k.wrap (a - b)

/-- vsub vd, va, vb (R247). -/
def execVsub (f : V3) (s : State) : Out := s.vec f.tok 1 f.t (runVsub f)

/-- What vadds computes (R247; Sat(a + b)). -/
def runVadds (f : V3) : VRun :=
  runInt3 f fun k _ a b => k.sat (a + b)

/-- vadds vd, va, vb (R247). -/
def execVadds (f : V3) (s : State) : Out := s.vec f.tok 1 f.t (runVadds f)

/-- What vsubs computes (R247; Sat(a − b)). -/
def runVsubs (f : V3) : VRun :=
  runInt3 f fun k _ a b => k.sat (a - b)

/-- vsubs vd, va, vb (R247). -/
def execVsubs (f : V3) (s : State) : Out := s.vec f.tok 1 f.t (runVsubs f)

/-- What vavg computes (R247; RoundShift(a + b, 1)). -/
def runVavg (f : V3) : VRun :=
  runInt3 f fun k _ a b => k.wrap (roundShift (a + b) 1)

/-- vavg vd, va, vb (R247). -/
def execVavg (f : V3) (s : State) : Out := s.vec f.tok 1 f.t (runVavg f)

/-- What vmul computes (R247; a · b). -/
def runVmul (f : V3) : VRun :=
  runInt3 f fun k _ a b => k.wrap (a * b)

/-- vmul vd, va, vb (R247). -/
def execVmul (f : V3) (s : State) : Out := s.vec f.tok 2 f.t (runVmul f)

/-- What vmulh computes (R247; the high half of a · b). -/
def runVmulh (f : V3) : VRun :=
  runInt3 f fun k _ a b => k.wrap (a * b / 2 ^ k.w)

/-- vmulh vd, va, vb (R247). -/
def execVmulh (f : V3) (s : State) : Out := s.vec f.tok 2 f.t (runVmulh f)

/-- What vmulq computes (R247; Sat(RoundShift(a · b, w − 1))). -/
def runVmulq (f : V3) : VRun :=
  runInt3 f fun k _ a b => k.sat (roundShift (a * b) (k.w - 1))

/-- vmulq vd, va, vb (R247). -/
def execVmulq (f : V3) (s : State) : Out := s.vec f.tok 2 f.t (runVmulq f)

/-- What vmac computes (R247; the old lane of vd + a · b). -/
def runVmac (f : V3) : VRun :=
  runInt3 f fun k d a b => k.wrap (d + a * b)

/-- vmac vd, va, vb (R247). -/
def execVmac (f : V3) (s : State) : Out := s.vec f.tok 2 f.t (runVmac f)

/-- What vabd computes (R247; |a − b|). -/
def runVabd (f : V3) : VRun :=
  runInt3 f fun k _ a b => k.wrap (a - b).natAbs

/-- vabd vd, va, vb (R247). -/
def execVabd (f : V3) (s : State) : Out := s.vec f.tok 1 f.t (runVabd f)

/-- What vmin computes (R247; the smaller of a and b). -/
def runVmin (f : V3) : VRun :=
  runInt3 f fun k _ a b => k.wrap (min a b)

/-- vmin vd, va, vb (R247). -/
def execVmin (f : V3) (s : State) : Out := s.vec f.tok 1 f.t (runVmin f)

/-- What vmax computes (R247; the larger of a and b). -/
def runVmax (f : V3) : VRun :=
  runInt3 f fun k _ a b => k.wrap (max a b)

/-- vmax vd, va, vb (R247). -/
def execVmax (f : V3) (s : State) : Out := s.vec f.tok 1 f.t (runVmax f)

/-- What vabs computes (R247; |a|). -/
def runVabs (f : V2) : VRun :=
  runBits2 f fun k a => wrapTo k.w (intOf k.signed k.w a).natAbs

/-- vabs vd, va (R247). -/
def execVabs (f : V2) (s : State) : Out := s.vec f.tok 1 f.t (runVabs f)

/-- What vclz computes (R247; leading zero bits). -/
def runVclz (f : V2) : VRun :=
  runBits2 f fun k a => if a = 0 then k.w else k.w - 1 - a.log2

/-- vclz vd, va (R247). -/
def execVclz (f : V2) (s : State) : Out := s.vec f.tok 1 f.t (runVclz f)

/-- What vpopc computes (R247; one bits). -/
def runVpopc (f : V2) : VRun :=
  runBits2 f fun k a => (List.range k.w).foldl (fun n i => n + a / 2 ^ i % 2) 0

/-- vpopc vd, va (R247). -/
def execVpopc (f : V2) (s : State) : Out := s.vec f.tok 1 f.t (runVpopc f)

/-! ### Shifts (Table 8.9) -/

/-- The shift count of a lane: the lower of the count and the width (R248). -/
def shiftOf (w c : Nat) : Nat := Nat.min c w

/-- What vshl computes (R248; a · 2^m modulo 2^w). -/
def runVshl (f : V3) : VRun :=
  runBits3 f fun k a b i => lane a k.w i * 2 ^ shiftOf k.w (lane b k.w i) % 2 ^ k.w

/-- vshl vd, va, vb (R248). -/
def execVshl (f : V3) (s : State) : Out := s.vec f.tok 1 f.t (runVshl f)

/-- What vshr computes (R248; zeros enter). -/
def runVshr (f : V3) : VRun :=
  runBits3 f fun k a b i => lane a k.w i / 2 ^ shiftOf k.w (lane b k.w i)

/-- vshr vd, va, vb (R248). -/
def execVshr (f : V3) (s : State) : Out := s.vec f.tok 1 f.t (runVshr f)

/-- What vsar computes (R248; sign bits enter). -/
def runVsar (f : V3) : VRun :=
  runBits3 f fun k a b i => wrapTo k.w (intOf true k.w (lane a k.w i) / 2 ^ shiftOf k.w (lane b k.w i))

/-- vsar vd, va, vb (R248). -/
def execVsar (f : V3) (s : State) : Out := s.vec f.tok 1 f.t (runVsar f)

/-- What vshrr computes (R248; RoundShift(a, m)). -/
def runVshrr (f : V3) : VRun :=
  runBits3 f fun k a b i => wrapTo k.w (roundShift (k.ilane a i) (shiftOf k.w (lane b k.w i)))

/-- vshrr vd, va, vb (R248). -/
def execVshrr (f : V3) (s : State) : Out := s.vec f.tok 1 f.t (runVshrr f)

/-- What vshls computes (R248; Sat(a · 2^m)). -/
def runVshls (f : V3) : VRun :=
  runInt3 f fun k _ a b => k.sat (a * 2 ^ shiftOf k.w (wrapTo k.w b))

/-- vshls vd, va, vb (R248). -/
def execVshls (f : V3) (s : State) : Out := s.vec f.tok 1 f.t (runVshls f)

/-! ### Logic, selection and permutation (Table 8.10) -/

/-- What vand computes (R249; bitwise and). -/
def runVand (f : V3) : VRun :=
  runBits3 f fun k a b i => lane a k.w i &&& lane b k.w i

/-- vand vd, va, vb (R249). -/
def execVand (f : V3) (s : State) : Out := s.vec f.tok 1 f.t (runVand f)

/-- What vor computes (R249; bitwise or). -/
def runVor (f : V3) : VRun :=
  runBits3 f fun k a b i => lane a k.w i ||| lane b k.w i

/-- vor vd, va, vb (R249). -/
def execVor (f : V3) (s : State) : Out := s.vec f.tok 1 f.t (runVor f)

/-- What vxor computes (R249; bitwise exclusive-or). -/
def runVxor (f : V3) : VRun :=
  runBits3 f fun k a b i => lane a k.w i ^^^ lane b k.w i

/-- vxor vd, va, vb (R249). -/
def execVxor (f : V3) (s : State) : Out := s.vec f.tok 1 f.t (runVxor f)

/-- What vnot computes (R249; bitwise complement). -/
def runVnot (f : V2) : VRun :=
  runBits2 f fun k a => 2 ^ k.w - 1 - a

/-- vnot vd, va (R249). -/
def execVnot (f : V2) (s : State) : Out := s.vec f.tok 1 f.t (runVnot f)

/-- What vsel computes (R249; every lane is written). -/
def runVsel (f : V3) : VRun :=
  fun k =>
  let p := k.pred f.p
  some (k.toRow f.vd (packRow k.w ((List.range (lanesIn k.w)).map fun i =>
    if active p k.w i then lane (k.vrow f.va) k.w i else lane (k.vrow f.vb) k.w i), 0))

/-- vsel vd, va, vb (R249). -/
def execVsel (f : V3) (s : State) : Out := s.vec f.tok 1 f.t (runVsel f)

/-- What vperm computes (R249; lanes of va by the lanes of vb). -/
def runVperm (f : V3) : VRun :=
  runBits3 f fun k a b i =>
    let u := lane b k.w i
    let src := if 16 ≤ k.w then u % lanesIn k.w else 16 * (i / 16) + u % 16
    if src < lanesIn k.w then lane a k.w src else 0

/-- vperm vd, va, vb (R249). -/
def execVperm (f : V3) (s : State) : Out := s.vec f.tok 1 f.t (runVperm f)

/-- What vzip computes (R249; lanes of va and vb in turn). -/
def runVzip (f : V3) : VRun :=
  runBits3 f fun k a b i => if i % 2 = 0 then lane a k.w (i / 2) else lane b k.w (i / 2)

/-- vzip vd, va, vb (R249). -/
def execVzip (f : V3) (s : State) : Out := s.vec f.tok 1 f.t (runVzip f)

/-- What vunzip computes (R249; the even lanes of va and vb). -/
def runVunzip (f : V3) : VRun :=
  runBits3 f fun k a b i =>
    if 2 * i < lanesIn k.w then lane a k.w (2 * i) else lane b k.w (2 * i - lanesIn k.w)

/-- vunzip vd, va, vb (R249). -/
def execVunzip (f : V3) (s : State) : Out := s.vec f.tok 1 f.t (runVunzip f)

/-- What vslide computes (R249; lane i + n of va). -/
def runVslide (f : VI) : VRun :=
  runBitsI f fun k a i =>
    if i + f.n.toNat < lanesIn k.w then lane a k.w (i + f.n.toNat) else 0

/-- vslide vd, va, n (R249). -/
def execVslide (f : VI) (s : State) : Out := s.vec f.tok 1 f.t (runVslide f)

/-- What vbcast computes (R249; lane n of va). -/
def runVbcast (f : VI) : VRun :=
  runBitsI f fun k a _ => lane a k.w f.n.toNat

/-- vbcast vd, va, n (R249). -/
def execVbcast (f : VI) (s : State) : Out := s.vec f.tok 1 f.t (runVbcast f)

/-! ### Floating point (Table 8.11) -/

/-- What fadd computes (R250; a + b). -/
def runFadd (f : V3) : VRun :=
  runFp3 f fun k ff d a b =>
    k.roundF ff (addVal (ff.decode a) (ff.decode b) k.rm) d

/-- fadd vd, va, vb (R250). -/
def execFadd (f : V3) (s : State) : Out := s.vec f.tok 3 f.t (runFadd f)

/-- What fsub computes (R250; a − b). -/
def runFsub (f : V3) : VRun :=
  runFp3 f fun k ff d a b =>
    k.roundF ff (addVal (ff.decode a) (negVal (ff.decode b)) k.rm) d

/-- fsub vd, va, vb (R250). -/
def execFsub (f : V3) (s : State) : Out := s.vec f.tok 3 f.t (runFsub f)

/-- What fmul computes (R250; a · b). -/
def runFmul (f : V3) : VRun :=
  runFp3 f fun k ff d a b =>
    k.roundF ff (mulVal (ff.decode a) (ff.decode b)) d

/-- fmul vd, va, vb (R250). -/
def execFmul (f : V3) (s : State) : Out := s.vec f.tok 3 f.t (runFmul f)

/-- What ffma computes (R250; a · b + the old lane of vd, .sr taken as .rne). -/
def runFfma (f : V3) : VRun :=
  runFp3 f fun k ff d a b =>
    ff.finish (fmaVal (ff.decode a) (ff.decode b) (ff.decode d) k.rmNoSr) k.rmNoSr 0 0

/-- ffma vd, va, vb (R250). -/
def execFfma (f : V3) (s : State) : Out := s.vec f.tok 3 f.t (runFfma f)

/-- What fmin computes (R251; the smaller of a and b). -/
def runFmin (f : V3) : VRun :=
  runFp3 f fun _ ff _ a b => (ff.minMax false a b % 2 ^ (1 + ff.e + ff.m), 0)

/-- fmin vd, va, vb (R251). -/
def execFmin (f : V3) (s : State) : Out := s.vec f.tok 1 f.t (runFmin f)

/-- What fmax computes (R251; the larger of a and b). -/
def runFmax (f : V3) : VRun :=
  runFp3 f fun _ ff _ a b => (ff.minMax true a b % 2 ^ (1 + ff.e + ff.m), 0)

/-- fmax vd, va, vb (R251). -/
def execFmax (f : V3) (s : State) : Out := s.vec f.tok 1 f.t (runFmax f)

/-- What fabs computes (R251; the sign bit cleared). -/
def runFabs (f : V2) : VRun :=
  runFp2 f fun ff a => if ff.decode a = .nan then ff.canonNan else a % 2 ^ (ff.e + ff.m)

/-- fabs vd, va (R251). -/
def execFabs (f : V2) (s : State) : Out := s.vec f.tok 1 f.t (runFabs f)

/-- What fneg computes (R251; the sign bit inverted). -/
def runFneg (f : V2) : VRun :=
  runFp2 f fun ff a =>
    if ff.decode a = .nan then ff.canonNan else a % 2 ^ (1 + ff.e + ff.m) ^^^ 2 ^ (ff.e + ff.m)

/-- fneg vd, va (R251). -/
def execFneg (f : V2) (s : State) : Out := s.vec f.tok 1 f.t (runFneg f)

/-! ### Comparison -/

/-- What vcmp computes (R252; in the integer view). -/
def runVcmp (f : VC) : VRun :=
  runCmp f fun k a b => laneCond f.cc (intOf k.signed k.w a) (intOf k.signed k.w b)

/-- vcmp.cc pd, va, vb (R252). -/
def execVcmp (f : VC) (s : State) : Out := s.vec f.tok 1 0 (runVcmp f)

/-- What fcmp computes (R252; in the float view). -/
def runFcmp (f : VC) : VRun :=
  fun k => (floatFmt k.fmt).bind fun ff => runCmp f (fun _ a b => fCond f.cc (ff.decode a) (ff.decode b)) k

/-- fcmp.cc pd, va, vb (R252). -/
def execFcmp (f : VC) (s : State) : Out := s.vec f.tok 1 0 (runFcmp f)

/-- The value of vcmpj: some lane, or every lane, of pa is active (R253). -/
def Core.anyAll (k : Core) (pa : BitVec 3) (all : Bool) : Bool :=
  let p := k.pred pa
  let l := List.range (lanesIn k.w)
  if all then l.all (active p k.w) else l.any (active p k.w)

/-- vcmpj.any j, pa (R253). -/
def execVcmpjAny (j : BitVec 2) (pa : BitVec 3) (tok : Tok) (s : State) : Out :=
  .next (s.finish (s.tokRun tok false fun _ => .ok (s.modJ j.toNat (·.setCond ((s.core s.me).anyAll pa false)))))

/-- vcmpj.all j, pa (R253). -/
def execVcmpjAll (j : BitVec 2) (pa : BitVec 3) (tok : Tok) (s : State) : Out :=
  .next (s.finish (s.tokRun tok false fun _ => .ok (s.modJ j.toNat (·.setCond ((s.core s.me).anyAll pa true)))))

/-! ### Conversions (Table 8.12) and packed pixels (R256) -/

/-- What vcvtRne computes (R255; a fmt as wide as VT's). -/
def runVcvtRne (f : VF) : VRun :=
  fun k =>
  if laneBits f.fmt.toNat = k.w then runConvert f (fun _ => 0) true (fun k => lanesIn k.w) k else none

/-- vcvtRne vd, va, fmt (R255). -/
def execVcvtRne (f : VF) (s : State) : Out := s.vec f.tok 3 f.t (runVcvtRne f)

/-- What vcvtRz computes (R255; a fmt as wide as VT's). -/
def runVcvtRz (f : VF) : VRun :=
  fun k =>
  if laneBits f.fmt.toNat = k.w then runConvert f (fun _ => 1) true (fun k => lanesIn k.w) k else none

/-- vcvtRz vd, va, fmt (R255). -/
def execVcvtRz (f : VF) (s : State) : Out := s.vec f.tok 3 f.t (runVcvtRz f)

/-- What vcvtRu computes (R255; a fmt as wide as VT's). -/
def runVcvtRu (f : VF) : VRun :=
  fun k =>
  if laneBits f.fmt.toNat = k.w then runConvert f (fun _ => 2) true (fun k => lanesIn k.w) k else none

/-- vcvtRu vd, va, fmt (R255). -/
def execVcvtRu (f : VF) (s : State) : Out := s.vec f.tok 3 f.t (runVcvtRu f)

/-- What vcvtRd computes (R255; a fmt as wide as VT's). -/
def runVcvtRd (f : VF) : VRun :=
  fun k =>
  if laneBits f.fmt.toNat = k.w then runConvert f (fun _ => 3) true (fun k => lanesIn k.w) k else none

/-- vcvtRd vd, va, fmt (R255). -/
def execVcvtRd (f : VF) (s : State) : Out := s.vec f.tok 3 f.t (runVcvtRd f)

/-- What vcvtSr computes (R255; a fmt as wide as VT's). -/
def runVcvtSr (f : VF) : VRun :=
  fun k =>
  if laneBits f.fmt.toNat = k.w then runConvert f (fun _ => 4) true (fun k => lanesIn k.w) k else none

/-- vcvtSr vd, va, fmt (R255). -/
def execVcvtSr (f : VF) (s : State) : Out := s.vec f.tok 3 f.t (runVcvtSr f)

/-- What vnarrow computes (R255; a narrower fmt). -/
def runVnarrow (f : VF) : VRun :=
  fun k =>
  if laneBits f.fmt.toNat < k.w then runConvert f Core.rm (f.sat == 1) (fun k => lanesIn k.w) k else none

/-- vnarrow vd, va, fmt (R255). -/
def execVnarrow (f : VF) (s : State) : Out := s.vec f.tok 3 f.t (runVnarrow f)

/-- What vwiden computes (R255; a wider fmt). -/
def runVwiden (f : VF) : VRun :=
  fun k =>
  if k.w < laneBits f.fmt.toNat then runConvert f Core.rm true (fun _ => lanesIn (laneBits f.fmt.toNat)) k else none

/-- vwiden vd, va, fmt (R255). -/
def execVwiden (f : VF) (s : State) : Out := s.vec f.tok 3 f.t (runVwiden f)

/-- Bits of a packed sample (R48). -/
def pxBits (fmt : BitVec 5) : Nat := 2 * (fmt.toNat - 0x19) + 10

/-- What pxunp computes (R256; samples into n16 lanes). -/
def runPxunp (f : VF) : VRun :=
  fun k =>
  let d := k.vrow f.vd
  let a := k.vrow f.va
  some (k.toRow f.vd (mapLanes 16 224 (k.pred f.p) d fun i => (lane a (pxBits f.fmt) i, 0)))

/-- pxunp vd, va, fmt (R256). -/
def execPxunp (f : VF) (s : State) : Out := s.vec f.tok 3 f.t (runPxunp f)

/-- What pxpak computes (R256; n16 lanes into samples). -/
def runPxpak (f : VF) : VRun :=
  fun k =>
  let d := k.vrow f.vd
  let a := k.vrow f.va
  let p := k.pred f.p
  let w := pxBits f.fmt
  let l := (List.range 224).map fun i =>
    if active p 16 i then (Nat.min (lane a 16 i) (2 ^ w - 1), flagIf (decide (2 ^ w ≤ lane a 16 i)) fSI) else (lane d w i, 0)
  some (k.toRow f.vd (packRow w (l.map (·.1)), l.foldl (fun x y => x ||| y.2) 0))

/-- pxpak vd, va, fmt (R256). -/
def execPxpak (f : VF) (s : State) : Out := s.vec f.tok 3 f.t (runPxpak f)

/-! ### Reductions (Table 8.15) -/

/-- A horizontal sum of two encodings (R257). -/
def sumOp (k : Core) (x y : Nat × Flags) : Nat × Flags :=
  match floatFmt k.fmt with
  | some ff =>
    let r := ff.finish (addVal (ff.decode x.1) (ff.decode y.1) k.rmNoSr) k.rmNoSr 0 0
    (r.1, x.2 ||| y.2 ||| r.2)
  | none => ((x.1 + y.1) % 2 ^ k.w, 0)

/-- A horizontal minimum or maximum of two encodings (R257). -/
def extOp (isMax : Bool) (k : Core) (x y : Nat × Flags) : Nat × Flags :=
  match floatFmt k.fmt with
  | some ff => (ff.minMax isMax x.1 y.1 % 2 ^ (1 + ff.e + ff.m), 0)
  | none =>
    let a := intOf k.signed k.w x.1
    let b := intOf k.signed k.w y.1
    (wrapTo k.w (if isMax then max a b else min a b), 0)

/-- The identity of a sum: −0, or 0. -/
def sumId (k : Core) : Nat := match floatFmt k.fmt with
  | some ff => ff.signBit true
  | none => 0

/-- The identity of a maximum, or of a minimum. -/
def extId (isMax : Bool) (k : Core) : Nat := match floatFmt k.fmt with
  | some ff => ff.infBits isMax
  | none => wrapTo k.w (if isMax then k.lo else k.hi)

/-- What vrsum computes (R257; the sum of all lanes into lane 0). -/
def runVrsum (f : V2) : VRun :=
  runReduce f sumId sumOp

/-- vrsum vd, va (R257). -/
def execVrsum (f : V2) (s : State) : Out := s.vec f.tok 8 0 (runVrsum f)

/-- What vrmax computes (R257; the largest lane into lane 0). -/
def runVrmax (f : V2) : VRun :=
  runReduce f (extId true) (extOp true)

/-- vrmax vd, va (R257). -/
def execVrmax (f : V2) (s : State) : Out := s.vec f.tok 8 0 (runVrmax f)

/-- What vrmin computes (R257; the smallest lane into lane 0). -/
def runVrmin (f : V2) : VRun :=
  runReduce f (extId false) (extOp false)

/-- vrmin vd, va (R257). -/
def execVrmin (f : V2) (s : State) : Out := s.vec f.tok 8 0 (runVrmin f)

/-! ### Predicates (Table 8.16) and VTYPE -/

/-- A predicate instruction that writes pd (R258). -/
def runPred (pd : BitVec 3) (g : Core → PredBits) : VRun := fun k => some { pred := some (rotP k.prot pd.toNat, g k) }

/-- pand pd, pa, pb (R258). -/
def execPand (pd pa pb : BitVec 3) (tok : Tok) (s : State) : Out :=
  s.vec tok 1 0 (runPred pd fun k => k.pred pa &&& k.pred pb)

/-- por pd, pa, pb (R258). -/
def execPor (pd pa pb : BitVec 3) (tok : Tok) (s : State) : Out :=
  s.vec tok 1 0 (runPred pd fun k => k.pred pa ||| k.pred pb)

/-- pxor pd, pa, pb (R258). -/
def execPxor (pd pa pb : BitVec 3) (tok : Tok) (s : State) : Out :=
  s.vec tok 1 0 (runPred pd fun k => k.pred pa ^^^ k.pred pb)

/-- pnot pd, pa (R258). -/
def execPnot (pd pa : BitVec 3) (tok : Tok) (s : State) : Out := s.vec tok 1 0 (runPred pd fun k => ~~~ k.pred pa)

/-- The number of active lanes of a predicate under VT. -/
def Core.activeCount (k : Core) (p : PredBits) : Nat := ((List.range (lanesIn k.w)).filter (active p k.w)).length

/-- pcnt vd, pa (R258): bits [31:0] of vd. -/
def execPcnt (vd : BitVec 6) (pa : BitVec 3) (tok : Tok) (s : State) : Out :=
  s.vec tok 1 0 fun k =>
    let d := k.vrow vd
    some (k.toRow vd (BitVec.ofNat 3584 (d.toNat - lane d 32 0 + k.activeCount (k.pred pa)), 0))

/-- pfirst pd, pa (R258): the bits of the lowest active lane, or of its byte when lanes have 4 bits. -/
def execPfirst (pd pa : BitVec 3) (tok : Tok) (s : State) : Out :=
  s.vec tok 1 0 (runPred pd fun k =>
    match (List.range (lanesIn k.w)).find? (active (k.pred pa) k.w) with
    | some i => predOf fun b => (lanesOfBit k.w b).contains i
    | none => 0)

/-- pset pd, n (R258). -/
def execPset (pd : BitVec 3) (n : BitVec 6) (tok : Tok) (s : State) : Out :=
  s.vec tok 1 0 (runPred pd fun k =>
    if n = 63 then BitVec.allOnes 448 else predOf fun b => (lanesOfBit k.w b).all fun i => decide (i < n.toNat))

/-- vtype fmt, rm (R236). -/
def execVtype (fmt : BitVec 5) (rm : BitVec 3) (tok : Tok) (s : State) : Out :=
  .next (s.finish (s.tokRun tok false fun _ =>
    .ok (s.modCore s.me fun k => { k with vt := (0 : BitVec 24) ++ rm ++ fmt })))

/-! ### Delayed writes -/

/-- A delayed write of the A-stream may be made in cycle `now`: that of its latency or a later one; every older one takes longer (R240). -/
def Core.aCanWrite (k : Core) (now i : Nat) (p : APend) : Bool :=
  decide (p.at_ + p.lat ≤ now + 1) && (k.aPend.take i).all fun q => decide (p.lat < q.lat)

/-- A_STREAM_WRITE: outstanding write `about.k` of core `about.core` is made, with its flags and its push (R240, R241); a full queue
stalls its stream (R24). A transient whose window has ended is not written. -/
def execAStreamWrite (s : State) : Out :=
  let k := s.core s.me
  match k.aPend[s.about.k]? with
  | none => .next s
  | some p =>
    if !k.aCanWrite s.cycle s.about.k p then .next s
    else if !k.tokRoom .a p.push then .next (s.setCore s.me (k.owe .a p.push p.pc))
    else
      let k := { k with aPend := k.aPend.eraseIdx s.about.k }.setFlags p.flags
      let k := match p.wr with
        | .row r v => k.writeRow false 0 r v
        | .transient r v => if p.left = 0 then k else k.writeRow true p.left r v
      .next (s.setCore s.me (k.pushLate .a p.push p.pc p.mark)).pumpAll

/-- TRANSIENT_WINDOW_END: bypass entry `about.k` of core `about.core`, whose window has ended, is gone (R241). -/
def execTransientWindowEnd (s : State) : Out :=
  match (s.core s.me).bypass[s.about.k]? with
  | some b =>
    if b.left = 0 then .next (s.modCore s.me fun k => { k with bypass := k.bypass.eraseIdx s.about.k }) else .next s
  | none => .next s

end Sys2Proof.Machine
end

