-- ==== Sys2Proof/Machine/Rep.lean ====
section
/-! DEFINITION. The REP prefix (R243 to R246) and its repetitions. -/

namespace Sys2Proof.Machine

/-- What a repetition executes: the latency, the transient bit, the tokens and the computation of a target. -/
structure Rept where
  lat : Nat
  t : BitVec 1
  tok : Tok
  run : VRun

/-- The step that a code stands for (R165). -/
def stepOf (c : BitVec 2) : Int := match c.toNat with
  | 0 => 0
  | 1 => 1
  | 2 => 2
  | _ => -1

/-- Row number `n` of repetition `k` (R243). -/
def stepped (n : BitVec 6) (k : Nat) (c : BitVec 2) : BitVec 6 := BitVec.ofInt 6 (n.toNat + k * stepOf c)

def V3.at (f : V3) (r : Reps) (k : Nat) : V3 :=
  { f with vd := stepped f.vd k r.sd, va := stepped f.va k r.sa, vb := stepped f.vb k r.sb }
def V2.at (f : V2) (r : Reps) (k : Nat) : V2 := { f with vd := stepped f.vd k r.sd, va := stepped f.va k r.sa }
def VF.at (f : VF) (r : Reps) (k : Nat) : VF := { f with vd := stepped f.vd k r.sd, va := stepped f.va k r.sa }
def VI.at (f : VI) (r : Reps) (k : Nat) : VI := { f with vd := stepped f.vd k r.sd, va := stepped f.va k r.sa }

/-- The target of a rep with the register numbers of repetition `k` (R243). -/
def stepInstr (r : Reps) (k : Nat) : Instr → Instr
  | .vadd f => .vadd (V3.at f r k)
  | .vsub f => .vsub (V3.at f r k)
  | .vadds f => .vadds (V3.at f r k)
  | .vsubs f => .vsubs (V3.at f r k)
  | .vavg f => .vavg (V3.at f r k)
  | .vmul f => .vmul (V3.at f r k)
  | .vmulh f => .vmulh (V3.at f r k)
  | .vmulq f => .vmulq (V3.at f r k)
  | .vmac f => .vmac (V3.at f r k)
  | .vabd f => .vabd (V3.at f r k)
  | .vmin f => .vmin (V3.at f r k)
  | .vmax f => .vmax (V3.at f r k)
  | .vand f => .vand (V3.at f r k)
  | .vor f => .vor (V3.at f r k)
  | .vxor f => .vxor (V3.at f r k)
  | .vshl f => .vshl (V3.at f r k)
  | .vshr f => .vshr (V3.at f r k)
  | .vsar f => .vsar (V3.at f r k)
  | .vshrr f => .vshrr (V3.at f r k)
  | .vshls f => .vshls (V3.at f r k)
  | .vsel f => .vsel (V3.at f r k)
  | .vperm f => .vperm (V3.at f r k)
  | .vzip f => .vzip (V3.at f r k)
  | .vunzip f => .vunzip (V3.at f r k)
  | .fadd f => .fadd (V3.at f r k)
  | .fsub f => .fsub (V3.at f r k)
  | .fmul f => .fmul (V3.at f r k)
  | .ffma f => .ffma (V3.at f r k)
  | .fmin f => .fmin (V3.at f r k)
  | .fmax f => .fmax (V3.at f r k)
  | .vabs f => .vabs (V2.at f r k)
  | .vnot f => .vnot (V2.at f r k)
  | .vclz f => .vclz (V2.at f r k)
  | .vpopc f => .vpopc (V2.at f r k)
  | .fabs f => .fabs (V2.at f r k)
  | .fneg f => .fneg (V2.at f r k)
  | .vrsum f => .vrsum (V2.at f r k)
  | .vrmax f => .vrmax (V2.at f r k)
  | .vrmin f => .vrmin (V2.at f r k)
  | .vcvtRne f => .vcvtRne (VF.at f r k)
  | .vcvtRz f => .vcvtRz (VF.at f r k)
  | .vcvtRu f => .vcvtRu (VF.at f r k)
  | .vcvtRd f => .vcvtRd (VF.at f r k)
  | .vcvtSr f => .vcvtSr (VF.at f r k)
  | .vnarrow f => .vnarrow (VF.at f r k)
  | .vwiden f => .vwiden (VF.at f r k)
  | .pxunp f => .pxunp (VF.at f r k)
  | .pxpak f => .pxpak (VF.at f r k)
  | .vslide f => .vslide (VI.at f r k)
  | .vbcast f => .vbcast (VI.at f r k)
  | i => i

/-- What a legal target of a rep executes: a V3, V2, VF or VI instruction, or nop (R165). -/
def repOf : Instr → Option Rept
  | .vadd f => some ⟨1, f.t, f.tok, runVadd f⟩
  | .vsub f => some ⟨1, f.t, f.tok, runVsub f⟩
  | .vadds f => some ⟨1, f.t, f.tok, runVadds f⟩
  | .vsubs f => some ⟨1, f.t, f.tok, runVsubs f⟩
  | .vavg f => some ⟨1, f.t, f.tok, runVavg f⟩
  | .vmul f => some ⟨2, f.t, f.tok, runVmul f⟩
  | .vmulh f => some ⟨2, f.t, f.tok, runVmulh f⟩
  | .vmulq f => some ⟨2, f.t, f.tok, runVmulq f⟩
  | .vmac f => some ⟨2, f.t, f.tok, runVmac f⟩
  | .vabd f => some ⟨1, f.t, f.tok, runVabd f⟩
  | .vmin f => some ⟨1, f.t, f.tok, runVmin f⟩
  | .vmax f => some ⟨1, f.t, f.tok, runVmax f⟩
  | .vand f => some ⟨1, f.t, f.tok, runVand f⟩
  | .vor f => some ⟨1, f.t, f.tok, runVor f⟩
  | .vxor f => some ⟨1, f.t, f.tok, runVxor f⟩
  | .vshl f => some ⟨1, f.t, f.tok, runVshl f⟩
  | .vshr f => some ⟨1, f.t, f.tok, runVshr f⟩
  | .vsar f => some ⟨1, f.t, f.tok, runVsar f⟩
  | .vshrr f => some ⟨1, f.t, f.tok, runVshrr f⟩
  | .vshls f => some ⟨1, f.t, f.tok, runVshls f⟩
  | .vsel f => some ⟨1, f.t, f.tok, runVsel f⟩
  | .vperm f => some ⟨1, f.t, f.tok, runVperm f⟩
  | .vzip f => some ⟨1, f.t, f.tok, runVzip f⟩
  | .vunzip f => some ⟨1, f.t, f.tok, runVunzip f⟩
  | .fadd f => some ⟨3, f.t, f.tok, runFadd f⟩
  | .fsub f => some ⟨3, f.t, f.tok, runFsub f⟩
  | .fmul f => some ⟨3, f.t, f.tok, runFmul f⟩
  | .ffma f => some ⟨3, f.t, f.tok, runFfma f⟩
  | .fmin f => some ⟨1, f.t, f.tok, runFmin f⟩
  | .fmax f => some ⟨1, f.t, f.tok, runFmax f⟩
  | .vabs f => some ⟨1, f.t, f.tok, runVabs f⟩
  | .vnot f => some ⟨1, f.t, f.tok, runVnot f⟩
  | .vclz f => some ⟨1, f.t, f.tok, runVclz f⟩
  | .vpopc f => some ⟨1, f.t, f.tok, runVpopc f⟩
  | .fabs f => some ⟨1, f.t, f.tok, runFabs f⟩
  | .fneg f => some ⟨1, f.t, f.tok, runFneg f⟩
  | .vrsum f => some ⟨8, 0, f.tok, runVrsum f⟩
  | .vrmax f => some ⟨8, 0, f.tok, runVrmax f⟩
  | .vrmin f => some ⟨8, 0, f.tok, runVrmin f⟩
  | .vcvtRne f => some ⟨3, f.t, f.tok, runVcvtRne f⟩
  | .vcvtRz f => some ⟨3, f.t, f.tok, runVcvtRz f⟩
  | .vcvtRu f => some ⟨3, f.t, f.tok, runVcvtRu f⟩
  | .vcvtRd f => some ⟨3, f.t, f.tok, runVcvtRd f⟩
  | .vcvtSr f => some ⟨3, f.t, f.tok, runVcvtSr f⟩
  | .vnarrow f => some ⟨3, f.t, f.tok, runVnarrow f⟩
  | .vwiden f => some ⟨3, f.t, f.tok, runVwiden f⟩
  | .pxunp f => some ⟨3, f.t, f.tok, runPxunp f⟩
  | .pxpak f => some ⟨3, f.t, f.tok, runPxpak f⟩
  | .vslide f => some ⟨1, f.t, f.tok, runVslide f⟩
  | .vbcast f => some ⟨1, f.t, f.tok, runVbcast f⟩
  | .nopDA tok => some ⟨1, 0, tok, fun _ => some {}⟩
  | _ => none

/-- The row fields of a target: vd, va and vb with their steps (R243, R244). -/
def repRows (r : Reps) : Instr → List (BitVec 6 × BitVec 2)
  | .vadd f => [(f.vd, r.sd), (f.va, r.sa), (f.vb, r.sb)]
  | .vsub f => [(f.vd, r.sd), (f.va, r.sa), (f.vb, r.sb)]
  | .vadds f => [(f.vd, r.sd), (f.va, r.sa), (f.vb, r.sb)]
  | .vsubs f => [(f.vd, r.sd), (f.va, r.sa), (f.vb, r.sb)]
  | .vavg f => [(f.vd, r.sd), (f.va, r.sa), (f.vb, r.sb)]
  | .vmul f => [(f.vd, r.sd), (f.va, r.sa), (f.vb, r.sb)]
  | .vmulh f => [(f.vd, r.sd), (f.va, r.sa), (f.vb, r.sb)]
  | .vmulq f => [(f.vd, r.sd), (f.va, r.sa), (f.vb, r.sb)]
  | .vmac f => [(f.vd, r.sd), (f.va, r.sa), (f.vb, r.sb)]
  | .vabd f => [(f.vd, r.sd), (f.va, r.sa), (f.vb, r.sb)]
  | .vmin f => [(f.vd, r.sd), (f.va, r.sa), (f.vb, r.sb)]
  | .vmax f => [(f.vd, r.sd), (f.va, r.sa), (f.vb, r.sb)]
  | .vand f => [(f.vd, r.sd), (f.va, r.sa), (f.vb, r.sb)]
  | .vor f => [(f.vd, r.sd), (f.va, r.sa), (f.vb, r.sb)]
  | .vxor f => [(f.vd, r.sd), (f.va, r.sa), (f.vb, r.sb)]
  | .vshl f => [(f.vd, r.sd), (f.va, r.sa), (f.vb, r.sb)]
  | .vshr f => [(f.vd, r.sd), (f.va, r.sa), (f.vb, r.sb)]
  | .vsar f => [(f.vd, r.sd), (f.va, r.sa), (f.vb, r.sb)]
  | .vshrr f => [(f.vd, r.sd), (f.va, r.sa), (f.vb, r.sb)]
  | .vshls f => [(f.vd, r.sd), (f.va, r.sa), (f.vb, r.sb)]
  | .vsel f => [(f.vd, r.sd), (f.va, r.sa), (f.vb, r.sb)]
  | .vperm f => [(f.vd, r.sd), (f.va, r.sa), (f.vb, r.sb)]
  | .vzip f => [(f.vd, r.sd), (f.va, r.sa), (f.vb, r.sb)]
  | .vunzip f => [(f.vd, r.sd), (f.va, r.sa), (f.vb, r.sb)]
  | .fadd f => [(f.vd, r.sd), (f.va, r.sa), (f.vb, r.sb)]
  | .fsub f => [(f.vd, r.sd), (f.va, r.sa), (f.vb, r.sb)]
  | .fmul f => [(f.vd, r.sd), (f.va, r.sa), (f.vb, r.sb)]
  | .ffma f => [(f.vd, r.sd), (f.va, r.sa), (f.vb, r.sb)]
  | .fmin f => [(f.vd, r.sd), (f.va, r.sa), (f.vb, r.sb)]
  | .fmax f => [(f.vd, r.sd), (f.va, r.sa), (f.vb, r.sb)]
  | .vabs f => [(f.vd, r.sd), (f.va, r.sa)]
  | .vnot f => [(f.vd, r.sd), (f.va, r.sa)]
  | .vclz f => [(f.vd, r.sd), (f.va, r.sa)]
  | .vpopc f => [(f.vd, r.sd), (f.va, r.sa)]
  | .fabs f => [(f.vd, r.sd), (f.va, r.sa)]
  | .fneg f => [(f.vd, r.sd), (f.va, r.sa)]
  | .vrsum f => [(f.vd, r.sd), (f.va, r.sa)]
  | .vrmax f => [(f.vd, r.sd), (f.va, r.sa)]
  | .vrmin f => [(f.vd, r.sd), (f.va, r.sa)]
  | .vcvtRne f => [(f.vd, r.sd), (f.va, r.sa)]
  | .vcvtRz f => [(f.vd, r.sd), (f.va, r.sa)]
  | .vcvtRu f => [(f.vd, r.sd), (f.va, r.sa)]
  | .vcvtRd f => [(f.vd, r.sd), (f.va, r.sa)]
  | .vcvtSr f => [(f.vd, r.sd), (f.va, r.sa)]
  | .vnarrow f => [(f.vd, r.sd), (f.va, r.sa)]
  | .vwiden f => [(f.vd, r.sd), (f.va, r.sa)]
  | .pxunp f => [(f.vd, r.sd), (f.va, r.sa)]
  | .pxpak f => [(f.vd, r.sd), (f.va, r.sa)]
  | .vslide f => [(f.vd, r.sd), (f.va, r.sa)]
  | .vbcast f => [(f.vd, r.sd), (f.va, r.sa)]
  | _ => []

/-- A tile that the kernel's header declares (R294, Table 10.1). REP (R244) and the matrix words (R269) check it; a vector word outside a
repetition executes on a row of a tile that is not declared, for which the spec names no trap.
(DESIGN CHOICE: log entry 114.) -/
def State.declared (s : State) (c : Nat) (tile : Nat) : Bool := (s.copyOf c).flags.getLsbD (1 + tile)

/-- Why a row number of a repetition is out of range, if it is (R244). -/
def State.repBad (s : State) (c : Nat) (n : BitVec 6) (step : BitVec 2) (k : Nat) : Bool :=
  let v : Int := n.toNat + k * stepOf step
  decide (v < 0) || decide (63 < v) || !s.declared c (rot (s.core c).vrot v.toNat / 32)

/-- The first repetition and operand that fail (R244). -/
def State.repCheck (s : State) (c : Nat) (rows : List (BitVec 6 × BitVec 2)) (count : Nat) : Option (Nat × Nat) :=
  (List.range count).findSome? fun k =>
    (rows.zipIdx.find? fun e => s.repBad c e.1.1 e.1.2 k).map fun e => (k, e.2)

/-- The target word of the rep at the program counter of core `c`'s A-stream, or what happens instead. -/
inductive Target where
  | instr (i : Instr)
  | trap (t : Trap)
  | fault (kind : BitVec 8)

/-- The target word of a rep (R165, R243): its fetch, and whether it is a legal target. -/
def State.repTarget (s : State) (c : Nat) : Target :=
  let q := s.seq c .a
  let a := q.pc + 4
  let bad : Trap := { cause := cILLEGAL_OP, addr := a.setWidth 64, detail := s.word.setWidth 64 }
  match s.fetchOf c .a a with
  | .word w => match decode .a w with
    | some i => if (repOf i).isSome then .instr i else .trap bad
    | none => .trap bad
  | .perm => .trap { cause := cPAGE_PERM, addr := a.setWidth 64 }
  | .absent => .fault (match s.walk (s.slotOf c) a with
    | .error => 0x83
    | _ => 3)

/-- A rep whose target cannot be fetched or executed: a trap, or a page fault of the target's address. -/
def State.repFault (s : State) (c : Nat) (kind : BitVec 8) : State :=
  let a : X64 := ((s.seq c .a).pc + 4).setWidth 64
  match (s.core c).task with
  | some t => s.pageFault c kind a a (.fetch .a) t (s.slotOf c)
  | none => s

/-- The A-stream goes on behind the target of a rep. -/
def State.pastRep (s : State) (c : Nat) : State :=
  (s.modSeq c .a fun q => { q with pc := q.pc + 8, stall := none, released := false, last := some s.cycle }).stopAtEnd c .a

/-- rep count, sd, sa, sb (R243 to R246).
(DEDUCED: log entry 23.) -/
def execRep (count : BitVec 7) (sd sa sb : BitVec 2) (s : State) : Out :=
  let c := s.me
  let r : Reps := { active := true, sd := sd, sa := sa, sb := sb, count := count }
  if s.inSlot || (s.seq c .a).pc + 4 == s.sectionEnd c .a then .next (s.finish (.trap (s.illegal false)))
  else match s.repTarget c with
    | .trap t => .next (s.finish (.trap t))
    | .fault kind => .next (s.repFault c kind)
    | .instr i =>
      let tok := ((repOf i).map (·.tok)).getD ⟨0, 0⟩
      if count = 0 then
        match s.tokWait tok false with
        | some w => .next (s.stallOn w)
        | none => .next ((s.modCore c fun k => (k.tokPop .a tok).tokPush .a tok.push k.matNo).pastRep c)
      else match s.repCheck c (repRows r i) count.toNat with
        | some (k, o) =>
          .next (s.finish (.trap { cause := cREP_RANGE, detail := BitVec.ofNat 64 (k + 256 * o) }))
        | none =>
          .next ((s.modCore c fun k => { k with reps := r }).modSeq c .a fun q => { q with stall := none, last := some s.cycle })

/-- A core whose rep is in progress may issue a repetition (R340). -/
def State.mayRepeat (s : State) (c : Nat) : Bool :=
  (s.core c).reps.active && (s.modCore c fun k => { k with reps := {} }).mayIssue c .a

/-- The pop step of a rep's target has taken place (R245), or why it waits. -/
def State.repPop (s : State) (c : Nat) (tok : Tok) : State ⊕ Why :=
  if (s.core c).reps.popped then .inl s
  else match (if tok.pop = 0 then none else s.popWait c (tokOther .a tok.pop) 2) with
    | some w => .inr w
    | none => .inl (s.modCore c fun k => { k.tokPop .a tok with reps := { k.reps with popped := true } })

/-- The repetition that is due executes (R243, R245, R246); `i` is it, and `x` what it executes. -/
def State.repeatOnce (s : State) (c : Nat) (i : Instr) (x : Rept) : State :=
  let k := s.core c
  let last := k.reps.done + 1 = k.reps.count
  if !k.aReadyFor i then s.modSeq c .a fun q => { q with stall := none }
  else if last ∧ x.lat ≤ 1 ∧ !k.tokRoom .a x.tok.push then s.stallOn (.token 2 (tokOther .a x.tok.push))
  else match x.run k with
    | none => s.raise c .a (s.illegal true)
    | some e =>
      let push := if last then x.tok.push else 0
      let s := s.modCore c fun k =>
        let k := (k.emit s.cycle x.lat (x.t == 1) push (s.seq c .a).pc e).age
        let k := if x.lat ≤ 1 then k.tokPush .a push k.matNo else k
        { k with reps := if last then {} else { k.reps with done := k.reps.done + 1 } }
      if last then s.pastRep c else s.modSeq c .a fun q => { q with stall := none, last := some s.cycle }

/-- REP_REPETITION: the next repetition of the rep in progress on core `about.core` (R243, R245, R246). -/
def execRepRepetition (s : State) : Out :=
  let c := s.me
  let s := { s with about := { core := s.about.core, stream := .a } }
  if !s.mayRepeat c then .next s
  else
    let s := match s.fetch c .a with
      | .word w => { s with word := w }
      | _ => s
    match s.repTarget c with
    | .trap t => .next (s.raise c .a t)
    | .fault kind => .next (s.repFault c kind)
    | .instr i =>
      let tok := ((repOf i).map (·.tok)).getD ⟨0, 0⟩
      match s.repPop c tok with
      | .inr w => .next (s.stallOn w)
      | .inl s =>
        let i := stepInstr (s.core c).reps (s.core c).reps.done.toNat i
        match repOf i with
        | some x => .next (s.repeatOnce c i x)
        | none => .next s

end Sys2Proof.Machine
end

