-- ==== Sys2Proof/Machine/Matrix.lean ====
section
/-! DEFINITION. The matrix words of the A-stream and the events of the array (R262 to R275). An MMA takes its weights, its
scales and its formats as it issues, reads A piece by piece while it streams, and writes its rows later; an MWL reads its tiles while
it loads. -/

namespace Sys2Proof.Machine

/-! ### Descriptors (Table 9.3) -/

def dHalf (d : X64) : Nat := bitsNat d 41 41
def dKlen (d : X64) : Nat := bitsNat d 40 32
def dStride (d : X64) : Nat := bitsNat d 29 20
def dOff (d : X64) : Nat := bitsNat d 18 0

/-- L0 offset of tile `t` of a descriptor (R266). -/
def dTile (d : X64) (t : Nat) : Nat := dOff d + 512 * dStride d * t

/-- The place checks of the tiles that a descriptor covers (check 4). -/
def State.tileCheck (s : State) (c : Nat) (d : X64) (bytes : Nat) : List Nat → Option Trap
  | [] => none
  | t :: r =>
    match s.placeCheck c 0 (dTile d t) bytes false with
    | .error e => some (placeTrap 0 (dTile d t) e 0)
    | .ok _ => s.tileCheck c d bytes r

/-- Checks 2 to 4 of a descriptor that covers `n` tiles of `bytes` bytes (R266).
(DEDUCED: log entry 20.) -/
def State.descCheck (s : State) (c : Nat) (d : X64) (bytes n : Nat) : Option Trap :=
  if dStride d = 0 then some (s.illegal true)
  else if dOff d % 512 ≠ 0 then some { cause := cMISALIGN, addr := placeRec 0 (dOff d) }
  else s.tileCheck c d bytes (List.range n)

/-- The tiles that a descriptor covers, as a read of this cycle sees them in L0 (R79); a tile beyond `n` is zeros. A matrix word never
meets POISON (R260, Table 9.4): it takes the bytes of a poisoned line as they stand.
(DESIGN CHOICE: log entry 115.) -/
def State.tiles (s : State) (c : Nat) (d : X64) (f n : Nat) : Vector (BitVec 139264) 4 :=
  Vector.ofFn fun t =>
    if t.val < n then BitVec.ofNat 139264 (bytesNat (s.seen (keyL0 c (dTile d t.val)) (tileBytes (elemFmt f)))) else 0

/-- The tiles `v` with piece `p` as in `w`: the pieces are numbered tile by tile. -/
def takePiece (f : Nat) (w v : Vector (BitVec 139264) 4) (p : Nat) : Vector (BitVec 139264) 4 :=
  let t := p / tilePieces f
  let i := p % tilePieces f
  let mask : BitVec 139264 := BitVec.ofNat 139264 (2 ^ 128 - 1) <<< (128 * i)
  vset v t ((vget v t 0 &&& ~~~ mask) ||| (vget w t 0 &&& mask))

/-- The tiles of a matrix word whose pieces `took` were read earlier, into `v`: the others are read now (R272).
(DESIGN CHOICE: log entry 107.) -/
def State.restOf (s : State) (c : Nat) (d : X64) (f n : Nat) (v : Vector (BitVec 139264) 4) (took : List Nat) :
    Vector (BitVec 139264) 4 :=
  took.foldl (takePiece f v) (s.tiles c d f n)

/-- GSC of the group of a core. -/
def State.gscNow (s : State) (c : Nat) : Nat := ((s.taskOf c).map fun t => t.gsc.toNat).getD 0

/-! ### Configuration words -/

/-- mcfg fa, fb (R264). -/
def execMcfg (fa fb : BitVec 5) (tok : Tok) (s : State) : Out :=
  .next (s.finish (s.tokRun tok false fun _ => .ok (s.modCore s.me fun k => { k with fmtA := fa, fmtB := fb })))

/-- The rows of a tile, written with the values of a function of the row number. -/
def Core.writeTile (k : Core) (m : Nat) (f : Nat → Row) : Core :=
  (List.range 32).foldl (fun k i => k.writeRow false 0 (32 * m + i) (f i)) k

/-- mzero m (R269). -/
def execMzero (m : BitVec 1) (tok : Tok) (s : State) : Out :=
  .next (s.finish (s.tokRun tok false fun _ =>
    if !s.declared s.me m.toNat then .trap (s.illegal true)
    else .ok (s.modCore s.me fun k => k.writeTile m.toNat fun _ => 0)))

/-- mwl (R267): a descriptor that a payload brings, and the load starts. -/
def execMwl (tok : Tok) (s : State) : Out :=
  .next (s.finish (s.tokRun tok true fun payload =>
    let k := s.core s.me
    let d := payload.getD 0
    match s.descCheck s.me d (tileBytes (elemFmt k.fmtB.toNat)) 4 with
    | some t => .trap t
    | none =>
      if k.shst = 1 ∨ k.swpend.isSome ∨ k.mwls ≠ [] then .wait s .other
      else .ok (s.modCore s.me fun k =>
        { k with shst := 1, wSh := { k.wSh with fmt := k.fmtB }
                 mwls := k.mwls ++ [{ desc := d, fmt := k.fmtB, push := tok.push, pc := s.pc, at_ := s.gscNow s.me, no := k.matNo }]
                 matNo := k.matNo + 1 })))

/-- mswap (R268).
(DESIGN CHOICE: log entry 127.) -/
def execMswap (tok : Tok) (s : State) : Out :=
  .next (s.finish (s.tokRun tok true fun _ =>
    let k := s.core s.me
    if k.shst = 1 ∨ k.swpend.isSome then .wait s .other
    else .ok (s.modCore s.me fun k => { k with swpend := some (tok.push, s.pc) })))

/-! ### Multiply-accumulate -/

/-- The kind of a pair of formats is mixed: one an integer format and the other not (R265). -/
def mixed (fa fb : Nat) : Bool := isInt fa != isInt fb

/-- Passes of a matrix word (R34, R265). -/
def passes (fa fb : Nat) : Nat := planeP (elemFmt fa) * planeP (elemFmt fb)

/-- A matrix word that has passed its own checks: its descriptor's checks, the array, then the issue (R266, R270, R271). `need`
is the number of scale entries that it consumes; a short scale queue counts as the stall only once the array is free.
(DEDUCED: log entry 21.) -/
def State.mmaIssue (s : State) (m : BitVec 1) (tok : Tok) (d : X64) (needA needB : Nat) : Res :=
  let c := s.me
  let k := s.core c
  let fa := k.fmtA.toNat
  let fb := k.wAct.fmt.toNat
  let klen := dKlen d
  if klen = 0 ∨ 256 < klen then .trap (s.illegal true)
  else match s.descCheck c d (tileBytes (elemFmt fa)) (aTiles klen) with
  | some t => .trap t
  | none =>
    if s.gscNow c < k.arrayFree then .wait s .other
    else if k.scales.length < needA + needB then .wait s .scaleShort
    else
      let sa : BitVec 2048 := BitVec.ofNat 2048 (packNat 512 ((k.scales.take needA).map (·.toNat)))
      let sb : BitVec 4096 :=
        if needB = 0 then k.sb else BitVec.ofNat 4096 (packNat 512 (((k.scales.drop needA).take needB).map (·.toNat)))
      let x : Mma :=
        { tile := m, half := BitVec.ofNat 1 (dHalf d), klen := klen, fa := k.fmtA, fb := k.wAct.fmt
          a := Vector.replicate 4 0, w := k.wAct.tiles, sa := if isMx fa then some sa else none
          sb := if isMx fb then some sb else none, push := tok.push, pc := s.pc, desc := d, at_ := s.gscNow c
          no := k.matNo }
      .ok (s.modCore c fun k =>
        { k with mmas := k.mmas ++ [x], matNo := k.matNo + 1, arrayFree := s.gscNow c + 32 * passes fa fb, scales := k.scales.drop (needA + needB), sb := sb
                 bscv := k.bscv || decide (needB ≠ 0) })

/-- mma m (R265, R269, R270): while an MSWAP is pending it waits, and is checked with the new weights.
(DESIGN CHOICE: log entry 128.) -/
def execMma (m : BitVec 1) (tok : Tok) (s : State) : Out :=
  .next (s.finish (s.tokRun tok true fun payload =>
    let k := s.core s.me
    if k.swpend.isSome then .wait s .other
    else if !s.declared s.me m.toNat || mixed k.fmtA.toNat k.wAct.fmt.toNat || isMx k.fmtA.toNat then .trap (s.illegal true)
    else s.mmaIssue m tok (payload.getD 0) 0 0))

/-- mmas m (R265, R269, R270): while an MSWAP is pending it waits, and is checked with the new weights.
(DESIGN CHOICE: log entry 128.) -/
def execMmas (m : BitVec 1) (tok : Tok) (s : State) : Out :=
  .next (s.finish (s.tokRun tok true fun payload =>
    let k := s.core s.me
    let a := isMx k.fmtA.toNat
    let b := isMx k.wAct.fmt.toNat
    if k.swpend.isSome then .wait s .other
    else if !s.declared s.me m.toNat || mixed k.fmtA.toNat k.wAct.fmt.toNat || !(a || b) then .trap (s.illegal true)
    else s.mmaIssue m tok (payload.getD 0) (if a then 4 else 0) (if b then 8 else 0)))

/-- Row `i` of the A operand: its K elements with their scales (R269). -/
def Mma.aRow (x : Mma) (i : Nat) : List MElem :=
  let f := elemFmt x.fa.toNat
  (List.range x.klen).map fun k =>
    let e := planarGet f (vget x.a (k / 64) 0).toNat (32 * x.half.toNat + i) (k % 64)
    scaleElem (e.val f, e.exp f) (x.sa.map fun v => bitsNat v (8 * (8 * i + k / 32) + 7) (8 * (8 * i + k / 32)))

/-- Column `n` of the weights: its K elements with their scales (R269). -/
def Mma.bCol (x : Mma) (n : Nat) : List MElem :=
  let f := elemFmt x.fb.toNat
  (List.range x.klen).map fun k =>
    let e := planarGet f (vget x.w (k / 64) 0).toNat (k % 64) n
    scaleElem (e.val f, e.exp f) (x.sb.map fun v => bitsNat v (8 * (8 * n + k / 32) + 7) (8 * (8 * n + k / 32)))

/-- One row of the result: the old row's lanes with the chunk sums added, and the flags (R269). -/
def mmaRow (old : Row) (a : List MElem) (cols : List (List MElem)) : Row × Flags :=
  let l := cols.zipIdx.map fun e => accumulate (lane old 56 e.2) (chunkSum a e.1)
  (packRow 56 (l.map (·.1)), l.foldl (fun f x => f ||| x.2) 0)

/-- The rows and flags of a matrix word (MmaExec, R269). -/
def Core.mmaResult (k : Core) (x : Mma) : List (Row × Flags) :=
  let cols := (List.range 64).map x.bCol
  (List.range 32).map fun i => mmaRow (k.rowAt (32 * x.tile.toNat + i)) (x.aRow i) cols

/-! ### Events of the array -/

/-- The group of a core is frozen (R274, R340). -/
def State.frozenCore (s : State) (c : Nat) : Bool := match s.taskOf c with
  | some t => t.frozenIn s.cycle
  | none => false

/-- The L0 tiles that a streaming MMA covers. -/
def Mma.tilesA (x : Mma) (s : State) (c : Nat) : Vector (BitVec 139264) 4 := s.tiles c x.desc x.fa.toNat (aTiles x.klen)

/-- The last GSC of the cycles in which an MMA streams (R271). -/
def Mma.last (x : Mma) : Nat := x.at_ + 32 * passes x.fa.toNat x.fb.toNat

/-- A streaming MMA reads piece `p` of A, in one of the cycles in which it streams (R271, R272). -/
def Mma.readPiece (x : Mma) (s : State) (c p : Nat) : Mma :=
  if x.took.contains p || decide (aTiles x.klen * tilePieces x.fa.toNat ≤ p) || decide (s.gscNow c ≤ x.at_) ||
      decide (x.last < s.gscNow c) then x
  else { x with a := takePiece x.fa.toNat (x.tilesA s c) x.a p, took := x.took ++ [p] }

/-- An MMA that has reached the last cycle in which it streams reads what it has not read yet (R272). -/
def Mma.readAll (x : Mma) (s : State) (c : Nat) : Mma :=
  if x.done || decide (s.gscNow c < x.last) then x
  else { x with a := s.restOf c x.desc x.fa.toNat (aTiles x.klen) x.a x.took
                took := List.range (aTiles x.klen * tilePieces x.fa.toNat) }

/-- The last GSC of the cycles in which an MWL loads (R267). -/
def Mwl.last (w : Mwl) : Nat := w.at_ + tilePieces w.fmt.toNat

/-- The shadow tiles once a loading MWL has read what it has not read yet (R272). -/
def Core.mwlRest (k : Core) (s : State) (c : Nat) (w : Mwl) : Weights :=
  { k.wSh with fmt := w.fmt, tiles := s.restOf c w.desc w.fmt.toNat 4 k.wSh.tiles w.took }

/-- A core whose loading MWL has reached its last cycle: its tiles are read (R272). -/
def Core.mwlReadAll (k : Core) (s : State) (c : Nat) : Core := match k.mwls with
  | w :: rest =>
    if k.shst ≠ 1 ∨ s.gscNow c < w.last ∨ w.took.length = 4 * tilePieces w.fmt.toNat then k
    else { k with wSh := k.mwlRest s c w, mwls := { w with took := List.range (4 * tilePieces w.fmt.toNat) } :: rest }
  | [] => k

/-- The reads that the matrix words of a core make at the latest in the cycle that ends (R272). -/
def State.readTiles (s : State) (c : Nat) (k : Core) : Core :=
  if s.frozenCore c then k else { k.mwlReadAll s c with mmas := k.mmas.map fun x => x.readAll s c }

/-- MMA_WRITE: the oldest streaming MMA of core `about.core` reads the old rows, writes the new ones, sets its flags and pushes, in the
cycle of R271 or later; it has then read all of A. With `about.isLoad`, MMA `about.k` of those streaming reads piece `about.n` of A
(R272). A full queue stalls its stream (R24). -/
def execMmaWrite (s : State) : Out :=
  let c := s.me
  let k := s.core c
  if s.frozenCore c then .next s
  else if s.about.isLoad then
    match k.mmas[s.about.k]? with
    | some x => .next (s.setCore c { k with mmas := k.mmas.set s.about.k (x.readPiece s c s.about.n) })
    | none => .next s
  else match k.mmas with
  | [] => .next s
  | x :: rest =>
    if s.gscNow c < x.last + 3 then .next s
    else if !k.tokRoom .a x.push then .next (s.setCore c (k.owe .a x.push x.pc))
    else
      let x := x.readAll s c
      let res := k.mmaResult x
      let k := { k with mmas := rest }.writeTile x.tile.toNat fun i => ((res[i]?).map fun (r : Row × Flags) => r.1).getD 0
      let k := k.setFlags (res.foldl (fun f (r : Row × Flags) => f ||| r.2) 0)
      .next (s.setCore c (k.pushLate .a x.push x.pc x.no))

/-- MSWAP_EFFECT: the pending MSWAP of core `about.core` exchanges the weights and pushes, from the array free cycle on (R268). -/
def execMswapEffect (s : State) : Out :=
  let c := s.me
  let k := s.core c
  match k.swpend with
  | some (push, pc) =>
    if s.frozenCore c || decide (s.gscNow c < k.arrayFree) then .next s
    else if !k.tokRoom .a push then .next (s.setCore c (k.owe .a push pc))
    else
      let k := { k with wAct := k.wSh, wSh := k.wAct, shst := 2, swpend := none, bscv := false, sb := BitVec.allOnes 4096 }
      .next (s.setCore c (k.pushLate .a push pc k.matNo))
  | none => .next s

end Sys2Proof.Machine
end

