-- ==== Sys2Proof/Machine/Engines.lean ====
section
/-! DEFINITION. Engine commands (R276, Table 9.7): the block head (R277), the queue of each engine (R27, R28, R276), the
fork edge (R135), the start of an item that waits on a barrier, its wait limit, and the completion actions (R278, R370).
The bodies of the blocks and what the engines move are in the files that import this one. -/

namespace Sys2Proof.Machine

/-! ### Block heads (Table 9.8) -/

/-- The `n` bytes of a block from byte `o`, as a number. -/
def blk (b : BitVec 1024) (o n : Nat) : Nat := bitsNat b (8 * (o + n) - 1) (8 * o)

def bFlags (b : BitVec 1024) : BitVec 32 := fld b 0 32
def bCk (b : BitVec 1024) : Nat := bitsNat (bFlags b) 9 8
def bCw (b : BitVec 1024) : Bool := (bFlags b).getLsbD 10
def bSd (b : BitVec 1024) : Bool := (bFlags b).getLsbD 11
def bSstr (b : BitVec 1024) : Nat := bitsNat (bFlags b) 13 12
def bSj (b : BitVec 1024) : Nat := bitsNat (bFlags b) 17 14
def bWt (b : BitVec 1024) : Bool := (bFlags b).getLsbD 18
def bWph (b : BitVec 1024) : BitVec 1 := fld (bFlags b) 19 1
def bCbar (b : BitVec 1024) : PlaceAddr := fld b 32 32
def bCword (b : BitVec 1024) : PlaceAddr := fld b 64 32
def bWbar (b : BitVec 1024) : PlaceAddr := fld b 96 32
def bCval (b : BitVec 1024) : X64 := fld b 128 64
def bWlim (b : BitVec 1024) : Nat := blk b 0x18 4

/-- Bytes of a command's block (Table 9.7, R331, R447). -/
def blockBytes (fn : Nat) : Nat := if fn = 2 ∨ fn = 3 ∨ fn = 8 then 128 else 64

/-- The key of the first byte of a place address that acceptance has checked (R75). -/
def placeKey (core : Nat) (p : PlaceAddr) : Nat :=
  let xy := targetXY core p
  keyPlace (lvOf p) (xy.2 * 32 + xy.1).toNat (offOf p)

/-- The object address of a barrier or counter at a place (R318, Table 15.7). -/
def placeObj (core : Nat) (p : PlaceAddr) : X64 :=
  let xy := targetXY core p
  (1 : BitVec 1) ++ (0 : BitVec 21) ++ BitVec.ofInt 10 (xy.2 * 32 + xy.1) ++ (fld p 29 3 : BitVec 3) ++ (0 : BitVec 10) ++
    (fld p 0 19 : BitVec 19)

/-- ENGINE_FAULT of an item, with an address (Table 15.7). -/
def Item.faultAt (i : Item) (addr : X64) : Trap :=
  { cause := cENGINE_FAULT, addr := addr, detail := BitVec.ofNat 64 i.fn }

/-- ENGINE_FAULT of an item, with its block's address (Table 15.7). -/
def Item.fault (i : Item) : Trap := i.faultAt i.blockAddr

/-! ### Checks at acceptance -/

/-- The checks of an acceptance: none fails, or the trap of the first that fails. -/
abbrev Check := Option Trap

/-- ENGINE_FAULT unless a condition holds. -/
def Item.need (i : Item) (ok : Bool) : Check := if ok then none else some i.fault

/-- A place range that the item uses (R75), with its alignment. -/
def State.needPlace (s : State) (i : Item) (p : PlaceAddr) (n align : Nat) : Check :=
  match s.place i.core.toNat p (offOf p) n align with
  | .ok _ => none
  | .error t => some t

/-- A check that is made only when its field is used (R278). -/
def checkIf (b : Bool) (c : Check) : Check := if b then c else none

/-- The checks of a block head (R277, R278), in the order of its rules. -/
def State.headCheck (s : State) (i : Item) : Check :=
  let b := i.block
  (i.need (bitsNat (bFlags b) 31 20 == 0 && bCk b != 3 &&
      (!bSd b || decide (bSj b ≤ if bSstr b = 0 then 11 else 3)) &&
      (!(bWt b || i.fn == 8) || (decide (1 ≤ bWlim b) && decide (bWlim b ≤ 2 ^ 20))))).orElse fun _ =>
  (checkIf (bCk b == 1) (s.needPlace i (bCbar b) 16 16)).orElse fun _ =>
  (checkIf (bCk b == 2) (s.needPlace i (bCbar b) 8 8)).orElse fun _ =>
  (checkIf (bCw b) (s.needPlace i (bCword b) 8 8)).orElse fun _ =>
  checkIf (bWt b) (s.needPlace i (bWbar b) 16 16)

/-! ### Units and queues -/

/-- Firefly and Scarab of a column, within its stack (R27). -/
def fireflyOf (core : Nat) : Nat := 8 * (core / 32 % 16 / 2) + core % 32 % 16 / 2
def scarabOf (core : Nat) : Nat := 4 * (core / 32 % 16 / 4) + core % 32 % 16 / 4

/-- The engine of a command that is not a copy (Table 9.7). -/
def engineOf (fn : Nat) : Nat :=
  if fn = 3 then 8 else if fn = 4 then 9 else if fn = 5 then 10 else if fn = 8 then 12 else 11

/-- The unit that executes an item in order: a column's copy engine, a stack's stream engine, a Firefly, a Scarab. The NVMe
host and the collective unit keep no order between items (R334). -/
def Item.unit (i : Item) : Nat × Nat :=
  let c := i.core.toNat
  if i.engine ≤ 4 then (i.engine, c)
  else if i.engine = 8 then (8, stackOf c)
  else if i.engine = 9 then (9, 64 * stackOf c + fireflyOf c)
  else if i.engine = 10 then (10, 64 * stackOf c + scarabOf c)
  else (i.engine, i.id)

/-- Items that an engine's queue holds, or the most of them that the hub or a unit without a limit takes (R276, R330).
(DEDUCED: log entry 40.) -/
def queueDepth (engine : Nat) : Option Nat :=
  if engine ≤ 4 then some 16 else if engine = 8 then some 64 else if engine = 9 ∨ engine = 10 then some 8
  else if engine = 11 then some 256 else none

/-- An item stands in its engine's queue: it has not been taken. -/
def Item.inQueue (i : Item) : Bool := i.st == .queued || i.st == .accepted

/-- The queue of the engine of an item is full (R276); the hub counts every unfinished storage item (R330). -/
def State.queueFull (s : State) (i : Item) : Bool :=
  let n := if i.engine = 11 then (s.items.filter fun (x : Item) => x.engine == 11).length
    else (s.items.filter fun (x : Item) => x.unit == i.unit && x.inQueue).length
  match queueDepth i.engine with
  | some d => decide (d ≤ n)
  | none => false

/-- The item of a number. -/
def State.item (s : State) (id : Nat) : Option Item := s.items.find? fun (i : Item) => i.id == id

/-- The items of the same unit that were accepted before an item (R28).
(DEDUCED: log entry 41.) -/
def State.earlier (s : State) (i : Item) : List Item :=
  (s.items.takeWhile fun (x : Item) => x.id != i.id).filter fun (x : Item) => x.unit == i.unit

/-- The group of an item's core is frozen, and its engines hold at their next barrier wait (R95, R384). -/
def State.itemFrozen (s : State) (i : Item) : Bool := match look i.task s.tasks with
  | some t => t.frozenIn s.cycle
  | none => false

/-! ### The commands -/

/-- The block's key, its address for a record, whether it is named by a place, and the page through which a handle reaches it; or how
the command ends (R276, R387). -/
inductive BlockUse where
  | at (key : Nat) (addr : X64) (place : Bool) (page : List (Nat × Nat)) (s : State)
  | stop (r : Res)

/-- The place form's block (R276). -/
def State.placeBlock (s : State) (a : BitVec 5) (fn : Nat) : BlockUse :=
  let p : PlaceAddr := fld (s.x a) 0 32
  match s.place s.me p (offOf p) (blockBytes fn) 64 with
  | .ok k => .at k (placeRec p (offOf p)) true [] s
  | .error t => .stop (.trap t)

/-- The handle form's block (R276): a remote page and the hub range raise PAGE_PERM. -/
def State.handleBlock (s : State) (h b : BitVec 5) : BlockUse :=
  let va : VAddr := (s.handle h).va + fld (s.x b) 0 56
  if va.toNat % 64 ≠ 0 then .stop (.trap { cause := cMISALIGN, addr := va.setWidth 64 })
  else match s.useHandle h (s.x b) 0 with
    | .key k t s' =>
      let n := pageBytes t.size
      .at k (va.setWidth 64) false [(va.toNat - va.toNat % n, n)] s'
    | .trap t s' => .stop (.after s' t)
    | .hold s' => .stop (.hold s')
    | .hub _ _ s' | .remote _ _ _ s' => .stop (.after s' { cause := cPAGE_PERM, addr := va.setWidth 64 })

/-- The item that a command of the issuing core submits; until its block is read it holds the block's page (R387). -/
def State.newItem (s : State) (fn engine key : Nat) (addr : X64) (page : List (Nat × Nat)) : Item :=
  { id := s.nextId, fn := fn, engine := engine, core := s.about.core, ctx := s.slotOf s.me
    task := ((s.core s.me).task).getD 0, pc := (s.seq s.me .c).pc, blockKey := key, blockAddr := addr, word := s.word
    at_ := s.cycle, pages := page }

/-- The block of an item as memory holds it now (R139). -/
def State.readBlock (s : State) (i : Item) : BitVec 1024 := BitVec.ofNat 1024 (s.get i.blockKey (blockBytes i.fn))

/-- An item among those of its engine: before the items that cores of higher identifiers submit in the same cycle (R28). -/
def enter (i : Item) : List Item → List Item
  | [] => [i]
  | x :: t =>
    if x.unit = i.unit ∧ x.at_ = i.at_ ∧ i.core.toNat < x.core.toNat then i :: x :: t else x :: enter i t

/-- An item enters the queue of its engine, unless that is full (R276). -/
def State.submit (s : State) (i : Item) : Res :=
  if s.queueFull i then .wait s .other
  else .ok { s with items := enter i s.items, nextId := s.nextId + 1 }

/-- A command whose block is read at its acceptance by the engine (Table 4.4). -/
def commandTo (fn : Nat) : BlockUse → Res
  | .stop r => r
  | .at key addr _ page s =>
    if !s.fenceRel 0 then .wait s .fence else s.submit (s.newItem fn (engineOf fn) key addr page)

/-- A copy command, which is accepted as it issues (Table 4.4): `check` gives the engine or the trap. -/
def copyTo (fn : Nat) (check : State → Item → Except Trap Nat) : BlockUse → Res
  | .stop r => r
  | .at key addr place _ s =>
    let i := s.newItem fn 0 key addr []
    let i := { i with block := s.readBlock i, st := .accepted }
    if !s.fenceRel 0 then .wait s .fence
    else match poisonIn s key (blockBytes fn) with
      | some l => .after s (poisonTrap s.me l place)
      | none => match s.headCheck i with
        | some t => .after s t
        | none => match check s i with
          | .error t => .after s t
          | .ok e => (s.touch key false).submit { i with engine := e }

/-! ### Starting and waiting -/

/-- An item has started, or needs no barrier and no longer waits (R278). -/
def Item.live (i : Item) : Bool := i.st == .running || (i.st == .accepted && !bWt i.block)

/-- An item may run now: it is live, and every earlier item of its unit has finished (R28). A freeze of its group holds only
items that wait for a barrier (R95). -/
def State.canRun (s : State) (i : Item) : Bool := i.live && (s.earlier i).isEmpty

/-- The barrier of an item that waits shows its phase (R278). -/
def State.phaseShown (s : State) (i : Item) : Bool :=
  !bWt i.block || (s.barrier (placeKey i.core.toNat (bWbar i.block))).phase == bWph i.block

/-- An item whose wait has passed WLIM × 256 cycles (R278). -/
def Item.overdue (i : Item) : Bool := decide (256 * bWlim i.block ≤ i.waited)

/-- ENGINE_ITEM_WAIT_LIMIT: WLIM × 256 cycles have passed while the barrier of item `about.k` did not show its phase: WAIT_LIMIT, and no
data moves (R278). -/
def execEngineItemWaitLimit (s : State) : Out :=
  match s.item s.about.k with
  | some i =>
    if i.st = .accepted ∧ bWt i.block ∧ i.overdue ∧ !s.itemFrozen i ∧ !s.phaseShown i then .next (s.itemFail i cWAIT_LIMIT i.blockAddr)
    else .next s
  | none => .next s

/-! ### Completion actions -/

/-- What a completion action comes to. -/
inductive Done where
  | ok (s : State)
  /-- the undo log has no room (R415). -/
  | full (s : State)
  /-- the item ends here with a record (R29). -/
  | fail (s : State) (t : Trap)

def Done.bind (d : Done) (f : State → Done) : Done :=
  match d with
  | .ok s => f s
  | d => d

/-- No request waits at the column of a key (R103). -/
def State.columnFree (s : State) (key : Nat) : Bool := match placeOfKey key with
  | some (lv, col, _) => s.fifo.all fun g => !(g.col == col && g.l0 == (lv == 0))
  | none => true

/-- A transfer of an item at a key comes behind what has come before it: a copy engine is a requester of its own column, and another
engine reaches every column from outside (R103, R104).
(DEDUCED: log entry 119.) -/
def State.itemClear (s : State) (i : Item) (key : Nat) : Bool :=
  if i.engine ≤ 4 then s.clearTo i.core.toNat key else s.columnFree key

/-- A store of an item into a place (R137, R414). -/
def State.itemStore (s : State) (i : Item) (p : PlaceAddr) (bs : List Byte) : Done :=
  let key := placeKey i.core.toNat p
  match s.commit i.ctx (s.plogKey i.ctx key) key bs with
  | some s => .ok s
  | none => .full s

/-- The log entries of a bank-ALU operation of an item (R414). -/
def State.itemLog (s : State) (i : Item) (key n : Nat) : Done :=
  match (if s.plogKey i.ctx key then s.logLines i.ctx (linesOf key n) else some s) with
  | some s => .ok s
  | none => .full s

/-- The object of a completion action is read: poisoned, it ends the item with POISON (R29, R83). -/
def State.objPoison (s : State) (i : Item) (key n : Nat) : Done := match poisonIn s key n with
  | some l => .fail s (poisonTrap i.core.toNat l true)
  | none => .ok s

/-- The completion object of CK (R278, R370): a decrement by the destination bytes, or 1 added to the counter. -/
def State.itemCk (s : State) (i : Item) (bytes : Nat) : Done :=
  let p := bCbar i.block
  let key := placeKey i.core.toNat p
  if bCk i.block = 1 then
    (s.objPoison i key 16).bind fun s =>
    (s.itemLog i key 16).bind fun s => match s.barUpdate key (-(bytes : Int)) 0 with
      | some s => .ok s
      | none => .fail s { cause := cBARRIER_UNDERFLOW, addr := placeObj i.core.toNat p }
  else if bCk i.block = 2 then
    (s.objPoison i key 8).bind fun s =>
    (s.itemLog i key 8).bind fun s => match s.seqAdd key 1 with
      | (s, false) => .ok s
      | (s, true) =>
        .ok (s.async i.ctx { cause := cCOUNTER_OVERFLOW, addr := placeObj i.core.toNat p } i.core.toNat i.pc .c
          (look i.task s.tasks))
  else .ok s

/-- The delivery of SD into a steer register (R193, R278).
(DEDUCED: log entry 39.) -/
def State.itemSd (s : State) (i : Item) : State :=
  if bSd i.block then
    { s with deliveries := s.deliveries ++
        [{ core := i.core, stream := streamOf (bSstr i.block), j := bSj i.block, target := fld (bCval i.block) 0 56 }] }
  else s

/-- The item leaves its engine. -/
def State.removeItem (s : State) (id : Nat) : State :=
  { s with items := s.items.filter fun (x : Item) => x.id != id, blurred := s.blurred.filter fun e => e.1 != id }

/-- Nothing stands before the store of CW and the object of CK at their columns (R103, R104). -/
def State.actionsClear (s : State) (i : Item) : Bool :=
  (!bCw i.block || s.itemClear i (placeKey i.core.toNat (bCword i.block))) &&
    (bCk i.block == 0 || s.itemClear i (placeKey i.core.toNat (bCbar i.block)))

/-- An item whose bytes are moved, its completion actions still to come. -/
def State.markMoved (s : State) (i : Item) (bytes : Nat) : State := s.modItem i.id fun x => { x with moved := some bytes }

/-- The completion actions of an item in their order (R278), with its destination byte count; a later event makes those that cannot be
made yet. A target of SD that is not a multiple of 4 is a fault of the item (R29, R193). -/
def State.finishItem (s : State) (i : Item) (bytes : Nat) : State :=
  if bSd i.block ∧ bitsNat (bCval i.block) 1 0 ≠ 0 then s.itemTrap i i.fault
  else if !s.actionsClear i then s.markMoved i bytes
  else
    let cw := if bCw i.block then s.itemStore i (bCword i.block) (natBytes (bCval i.block).toNat 8) else .ok s
    match cw.bind fun s => s.itemCk i bytes with
    | .ok s => (s.itemSd i).removeItem i.id
    | .full _ => (s.markMoved i bytes).logFull i.ctx i.core.toNat i.pc .c
    | .fail s t => s.itemTrap i t

/-- A running item goes on: it moves its bytes, or, once they are moved, makes its completion actions. -/
def State.orFinish (s : State) (i : Item) (move : State → State) : State := match i.moved with
  | some n => s.finishItem i n
  | none => move s

end Sys2Proof.Machine
end

