-- ==== Sys2Proof/Machine/Transfer.lean ====
section
/-! DEFINITION. How an engine item moves bytes: the locations of its ranges (R383), bytes with their poison and their
indeterminacy (R83, R280, R283), writing them with the forwarding rules of host memory (R464, R465), and the remote loads
and stores of an item (R420, R437). -/

namespace Sys2Proof.Machine

/-! ### Locations -/

/-- Where a range of an item starts: at a key that acceptance has checked, or at a virtual address. -/
inductive Loc where
  | key (k : Nat)
  | va (a : VAddr)
  deriving DecidableEq, Repr, Inhabited

/-- The location `n` bytes further on. -/
def Loc.plus (l : Loc) (n : Nat) : Loc := match l with
  | .key k => .key (k + n)
  | .va a => .va (a + BitVec.ofNat 56 n)

/-- The location that a field of a block names: a virtual address, or a place address in its low 32 bits. -/
def Item.loc (i : Item) (mem : Bool) (v : Nat) : Loc :=
  if mem then .va (BitVec.ofNat 56 v) else .key (placeKey i.core.toNat (BitVec.ofNat 32 v))

/-- A part of a range that lies in one page: in memory, or remote with its virtual address. -/
inductive EPiece where
  | mem (key n : Nat) (log : Bool)
  | rem (node : Node) (pa n : Nat) (va : VAddr)
  deriving DecidableEq, Repr, Inhabited

def EPiece.bytes : EPiece → Nat
  | .mem _ n _ => n
  | .rem _ _ n _ => n

/-- How the resolution of an item's ranges ends (R383). -/
inductive Resolved where
  | ok (ps : List EPiece) (s : State)
  | fault (va : VAddr) (s : State)
  | absent (err : Bool) (va : VAddr) (s : State)

/-- A remote range of one page, in parts of one 64-byte line each (Table 16.2); `fuel` is the number of its lines. -/
def remLines (node : Node) : Nat → Nat → Nat → VAddr → List EPiece
  | 0, _, _, _ => []
  | fuel + 1, pa, n, va =>
    let m := Nat.min n (64 - pa % 64)
    if n = 0 then [] else .rem node pa m va :: remLines node fuel (pa + m) (n - m) (va + BitVec.ofNat 56 m)

/-- An item holds a translation from its use until its end (R383, R387). -/
def State.holdPage (s : State) (i : Item) (va : VAddr) : State :=
  match s.cached (stackOf i.core.toNat) i.ctx va with
  | some t =>
    let p := (va.toNat - va.toNat % pageBytes t.size, pageBytes t.size)
    s.modItem i.id fun x => if x.pages.contains p then x else { x with pages := x.pages ++ [p] }
  | none => s

/-- The parts of `n` bytes from a virtual address, one for each 64 KiB; `fuel` bounds their number. -/
def State.resolveVa (s : State) (i : Item) (kind : Nat) : Nat → VAddr → Nat → List EPiece → Resolved
  | 0, _, _, acc => .ok acc s
  | fuel + 1, va, n, acc =>
    if n = 0 then .ok acc s
    else
      let m := Nat.min n (0x10000 - va.toNat % 0x10000)
      let next := va + BitVec.ofNat 56 m
      match s.engineVa i.core.toNat i.ctx va kind with
      | .key k log s => (s.holdPage i va).resolveVa i kind fuel next (n - m) (acc ++ [.mem k m log])
      | .remote node pa s => (s.holdPage i va).resolveVa i kind fuel next (n - m) (acc ++ remLines node 1025 pa m va)
      | .fault s => .fault va s
      | .absent e s => .absent e va s

/-- A key lies in the tower range of a retired layer (R107). -/
def State.offMap (s : State) (key : Nat) : Bool := match regionOf key with
  | .tower k col _ => !layerIn s.layeravail (stackOf col) k
  | _ => false

/-- The parts of a list of ranges (R107, R383). -/
def State.resolve (s : State) (i : Item) (kind : Nat) : List (Loc × Nat) → List EPiece → Resolved
  | [], acc => .ok acc s
  | (.key k, n) :: t, acc =>
    if s.offMap k || s.offMap (k + n - 1) then .fault (BitVec.ofNat 56 k) s
    else s.resolve i kind t (acc ++ [.mem k n (s.plogKey i.ctx k)])
  | (.va a, n) :: t, acc =>
    match s.resolveVa i kind (n / 0x10000 + 2) a n [] with
    | .ok ps s => s.resolve i kind t (acc ++ ps)
    | r => r

/-- An item reaches an absent page or a walk error: a page fault of its core, unless that core has one unanswered
(R383, R384).
(DEDUCED: log entry 47.) -/
def State.itemAbsent (s : State) (i : Item) (err : Bool) (va : VAddr) : State :=
  if s.faults.any fun (f : PFault) => f.core == i.core then s
  else
    let fid := s.newFid
    let s := s.modItem i.id fun x => { x with st := .faulted fid }
    s.pageFault i.core.toNat (if err then 0x84 else 4) (va.setWidth 64) (va.setWidth 64) (.item i.id) i.task i.ctx

/-! ### Bytes -/

/-- A byte on its way: its value, whether it comes from a poisoned line (R283), and whether it is indeterminate (R280). -/
structure DByte where
  v : Byte := 0
  bad : Bool := false
  hole : Bool := false
  deriving DecidableEq, Repr, Inhabited

/-- A key lies in one of the local destination parts. -/
def inParts (ps : List EPiece) (key : Nat) : Bool :=
  ps.any fun p => match p with
    | .mem k n _ => decide (k ≤ key) && decide (key < k + n)
    | .rem .. => false

/-- A remote byte lies in one of the remote destination parts. -/
def inRemote (ps : List EPiece) (node : Node) (pa : Nat) : Bool :=
  ps.any fun p => match p with
    | .mem .. => false
    | .rem m a n _ => m == node && decide (a ≤ pa) && decide (pa < a + n)

/-- What an item has read of a key already, in a piece of its own (R118). -/
def Item.tookByte (i : Item) (key : Nat) : Option (Byte × Bool) :=
  i.took.findSome? fun p => if p.1 ≤ key then p.2[key - p.1]? else none

/-- Byte `k` of a local part: as the item has read it, or else as memory now has it. One that also lies in the destination is
indeterminate (R280); an indeterminate one carries no poison (R10). -/
def State.memByte (s : State) (i : Item) (dst : List EPiece) (k : Nat) : DByte :=
  let hole := inParts dst k
  match i.tookByte k with
  | some b => { v := b.1, bad := b.2 && !hole, hole := hole }
  | none => { v := s.byteAt k, bad := s.poison.contains (k / 64) && !s.poolHole k && !hole, hole := hole }

/-- The bytes of a local part. -/
def State.memBytes (s : State) (i : Item) (dst : List EPiece) (key n : Nat) : List DByte :=
  (List.range n).map fun j => s.memByte i dst (key + j)

/-- The bytes of the source parts, in order; `q` is the number of the next remote part. -/
def State.gatherBytes (s : State) (i : Item) (dst : List EPiece) : Nat → List EPiece → List DByte
  | _, [] => []
  | q, .mem key n _ :: t => s.memBytes i dst key n ++ s.gatherBytes i dst q t
  | q, .rem node pa n _ :: t =>
    let v := ((i.got.find? fun (g : Nat × BitVec 512) => g.1 == q).map (·.2)).getD 0
    ((natBytes v.toNat n).zipIdx.map fun e => { v := e.1, hole := inRemote dst node (pa + e.2) }) ++
      s.gatherBytes i dst (q + 1) t

/-- The values of bytes to be stored: an indeterminate one is a free value (R10). -/
def fillHoles (n : Nat) (l : List DByte) : List Byte :=
  l.zipIdx.map fun (e : DByte × Nat) =>
    if e.1.hole then BitVec.ofNat 8 (Config.freeNat n >>> (8 * e.2)) else e.1.v

/-- A byte that carries poison. -/
def DByte.sick (d : DByte) : Bool := d.bad && !d.hole

/-- The lines, among those that a part covers, that hold a poisoned byte. -/
def badLines (key : Nat) (l : List DByte) : List Nat :=
  (linesOf key l.length).filter fun line =>
    l.zipIdx.any fun (e : DByte × Nat) => e.1.sick && decide ((key + e.2) / 64 = line)

/-- Host lines that carry poison and whose path is open: sent, and recorded with CLASS 3, each line of the item once (R464). -/
def State.forward (s : State) (i : Item) (lines : List Nat) : State :=
  (lines.filter fun l => !(i.wrote.any fun w => w.2.1 == l && w.2.2)).foldl
    (fun s l => s.logErr 3 10 0 i.ctx.toNat (BitVec.ofNat 64 (64 * l)) 0) s

/-- The path by which a host line leaves: CXL.cache when the host has enabled it, else PCIe (R459, Table 17.6). -/
def State.pathOpen (s : State) : Bool := s.hub.poisonfwd.getLsbD (if s.hub.cxlCache then 1 else 0)

/-- A line that must not leave, of source `src` and its unit: a contained error, and the kill of the writing context (R463, R465). -/
def State.refuseLine (s : State) (slot : Slot) (src unit line : Nat) : State :=
  (s.error 1 src unit slot.toNat (BitVec.ofNat 64 (64 * line)) 0).kill slot

/-- One local part written, with its log entries, and its poison, which goes with a line of host memory too (R83, R464).
(DEDUCED: log entry 120.) -/
def State.putPart (s : State) (i : Item) (key : Nat) (log : Bool) (l : List DByte) : Done :=
  match s.commit i.ctx log key (fillHoles s.fresh l) with
  | none => .full s
  | some s =>
    let s := { s with fresh := s.fresh + 1 }
    let bad := badLines key l
    .ok (bad.foldl State.poisonLine (if inPackage key then s else s.forward i bad))

/-- The naturally aligned 16-byte pieces of `n` bytes from a key, with their offsets (R118); `fuel` bounds their number. -/
def pieces16 (key : Nat) (o : Nat) : Nat → Nat → List (Nat × Nat × Nat)
  | 0, _ => []
  | fuel + 1, n =>
    let m := Nat.min n (16 - key % 16)
    if n = 0 then [] else (key, m, o) :: pieces16 (key + m) (o + m) fuel (n - m)

/-- How the item has written the piece at an offset of its destination already: whether as poisoned. -/
def Item.wroteBad (i : Item) (o : Nat) : Option Bool := (i.wrote.find? fun w => w.1 == o).map (·.2.2)

/-- The item with its piece at offset `o` of its destination, at a key, written. -/
def Item.noteWrite (i : Item) (o key : Nat) (l : List DByte) : Item :=
  { i with wrote := i.wrote ++ [(o, key / 64, l.any DByte.sick)] }

/-- The pieces of a local part, at offset `o` of the destination, that the item has not written yet. -/
def State.putPieces (s : State) (i : Item) (o : Nat) (log : Bool) (l : List DByte) : List (Nat × Nat × Nat) → Done
  | [] => .ok s
  | p :: t =>
    let x := (l.drop p.2.2).take p.2.1
    if (i.wroteBad (o + p.2.2)).isSome then s.putPieces i o log l t
    else (s.putPart i p.1 log x).bind fun s => s.putPieces (i.noteWrite (o + p.2.2) p.1 x) o log l t

/-- A local part, at offset `o` of the destination, written whole, or, when the item has written pieces already, in its other pieces; the
lines of which every piece was clean are then clean (R83, R118). -/
def State.putRest (s : State) (i : Item) (o key : Nat) (log : Bool) (l : List DByte) : Done :=
  if l.isEmpty then .ok s
  else if i.wrote.isEmpty then s.putPart i key log l
  else
    let ps := pieces16 key 0 (l.length / 16 + 2) l.length
    let sick (p : Nat × Nat × Nat) : Bool :=
      (i.wroteBad (o + p.2.2)).getD (((l.drop p.2.2).take p.2.1).any DByte.sick)
    (s.putPieces i o log l ps).bind fun s =>
      .ok (s.clean ((fullLines key l.length).filter fun x => !(ps.any fun p => p.1 / 64 == x && sick p)))

/-- The local destination parts from offset `o` on written, in order; the bytes are those of all these parts, remote ones included. -/
def State.putParts (s : State) (i : Item) (o : Nat) : List EPiece → List DByte → Done
  | [], _ => .ok s
  | .mem key n log :: t, l => (s.putRest i o key log (l.take n)).bind fun s => s.putParts i (o + n) t (l.drop n)
  | .rem _ _ n _ :: t, l => s.putParts i (o + n) t (l.drop n)

/-- The first host line that carries poison while its path is closed. -/
def State.barredLine (s : State) : List EPiece → List DByte → Option Nat
  | [], _ => none
  | .mem key n _ :: t, l =>
    match (if inPackage key || s.pathOpen then none else (badLines key (l.take n)).head?) with
    | some x => some x
    | none => s.barredLine t (l.drop n)
  | .rem _ _ n _ :: t, l => s.barredLine t (l.drop n)

/-! ### Remote parts -/

/-- An item has remote operations outstanding. -/
def State.itemWaits (s : State) (id : Nat) : Bool :=
  s.ctxs.any fun (c : Nat × Ctx) => c.2.sessions.any fun (x : Nat × Session) => x.2.outs.any fun (o : Outs) =>
    match o.who with
    | .item k _ => k == id
    | _ => false

/-- Every owner node of the remote parts has an OPEN session of the context (R420); else the address that has none. -/
def State.noOpen (s : State) (i : Item) (ps : List EPiece) : Option VAddr :=
  ps.findSome? fun p => match p with
    | .rem node _ _ va => if (s.session i.ctx node).st = .opened then none else some va
    | .mem .. => none

/-- The loads of the remote source parts, by their numbers. -/
def State.sendLoads (s : State) (i : Item) : Nat → List EPiece → State
  | _, [] => s
  | q, .mem .. :: t => s.sendLoads i q t
  | q, .rem node pa n va :: t =>
    (s.send i.ctx node { op := .load, pa := BitVec.ofNat 52 pa, size := n } (.item i.id q) (va.setWidth 64) i.pc).sendLoads
      i (q + 1) t

/-- The stores of the remote destination parts, with their bytes and whether they are poisoned (R283). -/
def remStores (fresh : Nat) : List EPiece → List DByte → List (Node × Nat × List Byte × X64 × Bool)
  | [], _ => []
  | .mem _ n _ :: t, l => remStores fresh t (l.drop n)
  | .rem node pa n va :: t, l =>
    (node, pa, fillHoles fresh (l.take n), va.setWidth 64, (l.take n).any DByte.sick) :: remStores fresh t (l.drop n)

/-- The request that carries part of an item's data: a store, or a collective message of a CRED, which has no address. Poisoned bytes are
marked (R83, R283, R449).
(DEDUCED: log entry 46.) -/
def Item.request (i : Item) (pa : Nat) (bs : List Byte) (bad : Bool) : Request :=
  { op := if i.fn = 8 ∧ i.phase = 3 then .collective else .store
    pa := if i.fn = 8 ∧ i.phase = 3 then 0 else BitVec.ofNat 52 pa, size := bs.length
    data := BitVec.ofNat 512 (bytesNat bs), bad := bad }

/-- Sends an item's remote stores as far as the cap of their sessions allows; a session that is no longer OPEN ends the item with
ENGINE_FAULT (R420, R437). -/
def State.sendStores (s : State) (i : Item) : List (Node × Nat × List Byte × X64 × Bool) → State
  | [] => s.modItem i.id fun x => { x with todo := [] }
  | e :: t =>
    if (s.session i.ctx e.1).st ≠ .opened then s.itemTrap i (i.faultAt e.2.2.2.1)
    else if s.cappedBut i.ctx e.1 (if (s.item i.id).any fun x => x.waitsFor e.1 then 1 else 0) then s.modItem i.id fun x => { x with todo := e :: t }
    else
      (s.send i.ctx e.1 (i.request e.2.1 e.2.2.1 e.2.2.2.2) (.item i.id 0) e.2.2.2.1 i.pc).sendStores i t

/-! ### A whole item -/

/-- What an item moves: its sources, its destinations, and the bytes that the destinations receive. -/
structure Xfer where
  src : List (Loc × Nat)
  dst : List (Loc × Nat)
  f : List DByte → List DByte
  /-- Poison among this many first source bytes is consumed, as Firefly and Scarab consume it (R83). -/
  consumes : Nat := 0
  /-- Each destination byte is the source byte that lies this many bytes further on. -/
  plain : Option Nat := none
  /-- The destination bytes that the item also reads are indeterminate (R280). -/
  mixes : Bool := true
  /-- This many first source bytes say what the others are: they are read before any other byte moves. -/
  first : Nat := 0

/-- The source bytes of an item. -/
def State.sourceBytes (s : State) (i : Item) (x : Xfer) (src dst : List EPiece) : List DByte :=
  s.gatherBytes i (if x.mixes then dst else []) 0 src

/-- A part lies on another node. -/
def EPiece.isRem : EPiece → Bool
  | .rem .. => true
  | .mem .. => false

/-- Every local part can be reached now. -/
def State.partsClear (s : State) (i : Item) (ps : List EPiece) : Bool :=
  ps.all fun p => match p with
    | .mem key _ _ => s.itemClear i key
    | .rem .. => true

/-- The bytes of an item are written: local parts now; remote ones are sent, and the item waits for their answers. -/
def State.writeOut (s : State) (i : Item) (dst : List EPiece) (out : List DByte) (fin : State → State) : State :=
  match s.barredLine dst out with
  | some line => s.refuseLine i.ctx 10 0 line
  | none =>
    match s.noOpen i dst with
    | some va => s.itemTrap i (i.faultAt (va.setWidth 64))
    | none => match s.putParts i 0 dst out with
        | .ok s =>
          let rem := remStores s.fresh dst out
          if rem.isEmpty then fin s
          else ({ s with fresh := s.fresh + 1 }.modItem i.id fun x => { x with phase := 2 }).sendStores { i with phase := 2 } rem
        | .full _ => s.logFull i.ctx i.core.toNat i.pc .c
        | .fail s t => s.itemTrap i t

/-- The first line of poisoned source bytes among local parts. -/
def State.poisonParts (s : State) (ps : List EPiece) : Option Nat :=
  ps.findSome? fun p => match p with
    | .mem key n _ => poisonIn s key n
    | .rem .. => none

/-- The sources of an item: their parts, once every remote one has answered (R383, R420). -/
def State.sources (s : State) (i : Item) (src : List (Loc × Nat)) (use : State → List EPiece → State) : State :=
  if i.phase = 1 ∧ s.itemWaits i.id then s
  else match s.resolve i 0 src [] with
    | .absent e va s => s.itemAbsent i e va
    | .fault va s => s.itemTrap i (i.faultAt (va.setWidth 64))
    | .ok ps s =>
      match (if i.phase = 0 then s.noOpen i ps else none) with
      | some va => s.itemTrap i (i.faultAt (va.setWidth 64))
      | none =>
        if ps.any EPiece.isRem && i.phase == 0 then (s.modItem i.id fun x => { x with phase := 1 }).sendLoads i 0 ps else use s ps

/-- The destinations of an item: their parts. -/
def State.targets (s : State) (i : Item) (dst : List (Loc × Nat)) (use : State → List EPiece → State) : State :=
  match s.resolve i 1 dst [] with
  | .absent e va s => s.itemAbsent i e va
  | .fault va s => s.itemTrap i (i.faultAt (va.setWidth 64))
  | .ok ps s => use s ps

/-- An item whose remote stores are under way: it sends the rest of them, and ends when all are answered. -/
def State.drainStores (s : State) (i : Item) (fin : State → State) : State :=
  if s.itemWaits i.id then s else if i.todo.isEmpty then fin s else s.sendStores i i.todo

/-- A byte of L0 among local parts is written in this cycle: a read sees it in the next one (R79). -/
def State.tooFresh (s : State) (ps : List EPiece) : Bool := s.l0Then.any fun b => inParts ps b.1

/-- Pages of the pool that local parts lie in are used (R396). -/
def State.touchParts (s : State) (ps : List EPiece) : State :=
  ps.foldl (fun s p => match p with | .mem key _ _ => s.touch key false | .rem .. => s) s

/-- The line of the first poisoned byte among the first `n` source bytes. -/
def State.sickLine (s : State) (i : Item) : List EPiece → Nat → Option Nat
  | [], _ => none
  | .mem key m _ :: t, n =>
    match (List.range (Nat.min m n)).find? fun j => (s.memByte i [] (key + j)).bad with
    | some j => some ((key + j) / 64)
    | none => s.sickLine i t (n - m)
  | .rem _ _ m _ :: t, n => s.sickLine i t (n - m)

/-- An item moves the bytes that it has not moved yet, in as many events as its remote parts need, and then `fin`, which receives its
source bytes when no remote store delays it (R118, R136, R383, R420). -/
def State.transfer (s : State) (i : Item) (x : Xfer) (fin : List DByte → State → State) : State :=
  if i.phase = 2 then s.drainStores i (fin [])
  else s.sources i x.src fun t src => t.targets i x.dst fun t dst =>
    if t.tooFresh src || !(t.partsClear i src && t.partsClear i dst) then s
    else match t.sickLine i src x.consumes with
    | some l => t.itemTrap i (poisonTrap i.core.toNat l false)
    | none =>
      let l := t.sourceBytes i x src dst
      (t.touchParts src).writeOut i dst (x.f l) (fin l)

/-! ### Single pieces (R118, R136) -/

/-- The 16-byte pieces of local parts: key, bytes, offset in all parts, and whether they are logged. -/
def partPieces : List EPiece → Nat → List (Nat × Nat × Nat × Bool)
  | [], _ => []
  | .mem key n log :: t, o => (pieces16 key o (n / 16 + 2) n).map (fun p => (p.1, p.2.1, p.2.2, log)) ++ partPieces t (o + n)
  | .rem _ _ n _ :: t, o => partPieces t (o + n)

/-- A remote part holds one of the `n` bytes from offset `o`. -/
def remoteIn (o n : Nat) : List EPiece → Nat → Bool
  | [], _ => false
  | .mem _ m _ :: t, at_ => remoteIn o n t (at_ + m)
  | .rem _ _ m _ :: t, at_ => (decide (o < at_ + m) && decide (at_ < o + n)) || remoteIn o n t (at_ + m)

/-- An item reads one piece of its source. -/
def Item.takePiece (i : Item) (s : State) (key n : Nat) : Item :=
  if i.took.any fun p => p.1 == key && decide (n ≤ p.2.length) then i
  else { i with took := i.took ++ [(key, (s.memBytes i [] key n).map fun d => (d.v, d.bad))] }

/-- An item reads the pieces of `n` bytes from a key. -/
def Item.takeRange (i : Item) (s : State) (key n : Nat) : Item :=
  (pieces16 key 0 (n / 16 + 2) n).foldl (fun i p => i.takePiece s p.1 p.2.1) i

/-- An item reads the pieces of its source that `n` bytes of its destination from offset `o` come from: those of a plain copy, or all. -/
def Item.takeFor (i : Item) (s : State) (x : Xfer) (src : List EPiece) (o n : Nat) : Item :=
  (partPieces src 0).foldl (fun i p =>
    if x.plain.any fun k => !(decide (p.2.2.1 < o + k + n) && decide (o + k < p.2.2.1 + p.2.1)) then i
    else i.takePiece s p.1 p.2.1) i

/-- The remote sources that `n` bytes of the destination from offset `o` come from have answered. -/
def State.answeredFor (s : State) (i : Item) (x : Xfer) (src : List EPiece) (o n : Nat) : Bool :=
  (i.phase == 1 && !s.itemWaits i.id) || !(match x.plain with
    | some k => remoteIn (o + k) n src 0
    | none => src.any EPiece.isRem)

/-- The item writes one piece of its destination. -/
def State.putPiece (s : State) (i : Item) (p : Nat × Nat × Nat × Bool) (l : List DByte) : State :=
  if (i.wroteBad p.2.2.1).isSome || l.isEmpty || !s.itemClear i p.1 then s
  else match s.barredLine [.mem p.1 p.2.1 p.2.2.2] l with
    | some line => s.refuseLine i.ctx 10 0 line
    | none => match s.putPart i p.1 p.2.2.2 l with
      | .ok s => s.modItem i.id fun y => { y with took := i.took, wrote := (i.noteWrite p.2.2.1 p.1 l).wrote }
      | _ => s

/-- A running item moves one piece by itself: it reads piece `about.n` of its local source, or with `about.yes` writes piece `about.n` of
its local destination (R118, R136).
(DESIGN CHOICE: log entry 10.) -/
def State.movePiece (s : State) (i : Item) (x : Xfer) (src dst : List EPiece) : State :=
  let known := (partPieces src 0).all fun p => decide (x.first ≤ p.2.2.1) || i.took.any fun q => q.1 == p.1
  if s.tooFresh src || (s.sickLine i src x.consumes).isSome then s
  else if s.about.yes then
    match (partPieces dst 0)[s.about.n]? with
    | some p =>
      let j := i.takeFor s x src p.2.2.1 p.2.1
      if known && s.answeredFor i x src p.2.2.1 p.2.1 && s.partsClear i src then
        (s.touchParts src).putPiece j p (((x.f (s.sourceBytes j x src dst)).drop p.2.2.1).take p.2.1)
      else s
    | none => s
  else match (partPieces src 0)[s.about.n]? with
    | some p =>
      if (known || decide (p.2.2.1 < x.first)) && s.itemClear i p.1 then
        (s.touch p.1 false).modItem i.id fun y => { y with took := (i.takePiece s p.1 p.2.1).took }
      else s
    | none => s

/-- A running item whose ranges resolve moves one piece by itself, before it sends remote stores. -/
def State.moveOne (s : State) (i : Item) (x : Xfer) : State :=
  if i.phase = 2 then s
  else match s.resolve i 0 x.src [] with
    | .ok src t => match t.resolve i 1 x.dst [] with
      | .ok dst t => t.movePiece i x src dst
      | _ => s
    | _ => s

end Sys2Proof.Machine
end

