-- ==== Sys2Proof/Machine/Copies.lean ====
section
/-! DEFINITION. The copy engines (R279 to R283), the follow-on MWL of a cpym (R282), and the stream engine: plain moves, MX
decoding and page migration (R284 to R286, R389). -/

namespace Sys2Proof.Machine

/-! ### Elements on their way -/

/-- Element `e` of `w` bits of a run of bytes: its bits, and whether any byte that feeds it is poisoned or
indeterminate. -/
def elemOf (a : Array DByte) (w e : Nat) : Nat × Bool × Bool :=
  let lo := w * e / 8
  let n := (w * e + w - 1) / 8 - lo + 1
  let bs := (List.range n).map fun j => a.getD (lo + j) {}
  (bytesNat (bs.map (·.v)) >>> (w * e % 8) % 2 ^ w, bs.any (·.bad), bs.any (·.hole))

/-- A byte that takes its poison and its indeterminacy from elements. -/
def byteOf (v : Nat) (fl : List (Bool × Bool)) : DByte :=
  { v := BitVec.ofNat 8 v, bad := fl.any (·.1), hole := fl.any (·.2) }

/-- The elements of which byte `b` of a tile of format `f` holds bits: eight in a bit plane, two in a nibble plane (R63). -/
def tileElems (f b : Nat) : List Nat :=
  let planes := 1024 + 512 * planeE f
  if b < planes then (List.range 8).map (8 * (b % 512) + ·) else (List.range 2).map (2 * ((b - planes) % 2048) + ·)

/-- The bytes of a tile whose element (i, j) is element `g i j` of a run of encodings of format `f` (R62, R63). -/
def tileFrom (f : Nat) (a : Array DByte) (g : Nat → Nat → Nat) : List DByte :=
  let w := fmtBits f
  let t := planarTile f fun i j => planarOf f (elemOf a w (g i j)).1
  (List.range (tileBytes f)).map fun b =>
    byteOf (t >>> (8 * b)) ((tileElems f b).map fun e => (elemOf a w (g (e / 64) (e % 64))).2)

/-- CONV 1 (R280): one tile from its 4096 elements in element-major order. -/
def toPlanar (f : Nat) (l : List DByte) : List DByte := tileFrom f l.toArray fun i j => 64 * i + j

/-- The bytes of a tile that feed element `e` (R63). -/
def feeders (f e : Nat) : List Nat :=
  (List.range (2 + planeE f)).map (512 * · + e / 8) ++
    (List.range (planeP f)).map fun q => 1024 + 512 * planeE f + 2048 * q + e / 2

/-- CONV 2 (R280): 4096 elements in element-major order from one tile. -/
def fromPlanar (f : Nat) (l : List DByte) : List DByte :=
  let a := l.toArray
  let w := fmtBits f
  let t := bytesNat (l.map (·.v))
  let n := (List.range 4096).foldl (fun n e => n + planarTo f (planarGet f t (e / 64) (e % 64)) * 2 ^ (w * e)) 0
  let flag (e : Nat) : Bool × Bool :=
    let bs := (feeders f e).map fun b => a.getD b {}
    (bs.any (·.bad), bs.any (·.hole))
  (List.range (512 * w)).map fun b =>
    byteOf (n >>> (8 * b)) ((List.range ((8 * b + 7) / w - 8 * b / w + 1)).map fun k => flag (8 * b / w + k))

/-- A list cut into parts of `n`, each changed; `fuel` is the number of parts. -/
def chunked (f : List DByte → List DByte) (n : Nat) : Nat → List DByte → List DByte
  | 0, _ => []
  | fuel + 1, l => f (l.take n) ++ chunked f n fuel (l.drop n)

/-! ### The copy body (Table 9.9) -/

def cSmem (b : BitVec 1024) : Bool := b.getLsbD 0
def cDmem (b : BitVec 1024) : Bool := b.getLsbD 1
def cConv (b : BitVec 1024) : Nat := bitsNat b 3 2
def cSrc (b : BitVec 1024) : Nat := blk b 0x20 8
def cDst (b : BitVec 1024) : Nat := blk b 0x28 8
def cLen (b : BitVec 1024) : Nat := blk b 0x30 4
def cPitch (b : BitVec 1024) : Nat := blk b 0x34 4
def cTstr (b : BitVec 1024) : Nat := blk b 0x38 4
def cFmt (b : BitVec 1024) : Nat := bitsNat b (8 * 0x3C + 4) (8 * 0x3C)
def cBfmt (b : BitVec 1024) : Nat := bitsNat b (8 * 0x3C + 12) (8 * 0x3C + 8)
def cMdesc (b : BitVec 1024) : X64 := fld b (8 * 0x40) 64

/-- Rows of the element-major side of a conversion (R280): 64 of each tile. -/
def cRows (i : Item) (mem : Bool) (base : Nat) : List (Loc × Nat) :=
  let b := i.block
  let row := 8 * fmtBits (cFmt b)
  (List.range (cLen b)).flatMap fun t => (List.range 64).map fun r =>
    ((i.loc mem base).plus (t * cTstr b + r * cPitch b), row)

/-- A range of a block in a place, checked over `n` bytes unless it is a virtual address (R75). -/
def State.needRange (s : State) (i : Item) (mem : Bool) (v n : Nat) : Check :=
  checkIf (!mem) (s.needPlace i (BitVec.ofNat 32 v) n 1)

/-- The planar side of a conversion: a multiple of 512 (R280). -/
def State.needTiles (s : State) (i : Item) (mem : Bool) (v n : Nat) : Check :=
  if mem then (if v % 512 ≠ 0 then some { cause := cMISALIGN, addr := BitVec.ofNat 64 v % 2 ^ 56 } else none)
  else s.needPlace i (BitVec.ofNat 32 v) n 512

/-- The checks of MDESC and BFMT of a cpym, with ENGINE_FAULT in place of ILLEGAL_OP and MISALIGN (R282). -/
def State.needDesc (s : State) (i : Item) : Check :=
  let b := i.block
  let d := cMdesc b
  let f := cBfmt b
  let p : PlaceAddr := BitVec.ofNat 32 (cDst b)
  (i.need (!cDmem b && lvOf p == 0 && dxOf p == 0 && dyOf p == 0 && dStride d != 0 && dOff d % 512 == 0 &&
    (isTileFmt f || isMx f))).orElse fun _ => s.tileCheck i.core.toNat d (tileBytes (elemFmt f)) (List.range 4)

/-- The body checks of a plain copy (R279, R280). -/
def State.plainCheck (s : State) (i : Item) : Check :=
  let b := i.block
  (i.need (decide (1 ≤ cLen b) && decide (cLen b ≤ 2 ^ 24))).orElse fun _ =>
  (s.needRange i (cSmem b) (cSrc b) (cLen b)).orElse fun _ => s.needRange i (cDmem b) (cDst b) (cLen b)

/-- The body checks of a conversion (R280). -/
def State.convCheck (s : State) (i : Item) : Check :=
  let b := i.block
  let f := cFmt b
  let span := (cLen b - 1) * cTstr b + 63 * cPitch b + 8 * fmtBits f
  (i.need (decide (1 ≤ cLen b) && decide (cLen b ≤ 64) && isTileFmt f)).orElse fun _ =>
  if cConv b = 1 then
    (s.needTiles i (cDmem b) (cDst b) (cLen b * tileBytes f)).orElse fun _ => s.needRange i (cSmem b) (cSrc b) span
  else
    (s.needTiles i (cSmem b) (cSrc b) (cLen b * tileBytes f)).orElse fun _ => s.needRange i (cDmem b) (cDst b) span

/-- The body checks of a cpyx (R281).
(DEDUCED: log entry 44.) -/
def State.indexCheck (s : State) (i : Item) : Check :=
  let b := i.block
  (i.need (cConv b == 0 && decide (1 ≤ cLen b) && decide (cLen b ≤ 4096) && decide (1 ≤ cPitch b) &&
    decide (cPitch b ≤ 4096))).orElse fun _ =>
  (s.needPlace i (BitVec.ofNat 32 (cTstr b)) (4 * cPitch b) 4).orElse fun _ =>
  s.needRange i (cDmem b) (cDst b) (cLen b * cPitch b)

/-- The body checks of a copy (R279 to R282), and its engine: the copy engine of DST's level, or of SRC's when DST is
memory. -/
def State.copyCheck (s : State) (i : Item) : Except Trap Nat :=
  let b := i.block
  let body := (i.need (cConv b != 3 && !(cSmem b && cDmem b))).orElse fun _ =>
    (if i.fn = 1 then s.indexCheck i else if cConv b = 0 then s.plainCheck i else s.convCheck i).orElse fun _ =>
      checkIf (i.fn == 2) (s.needDesc i)
  match body with
  | some t => .error t
  | none => .ok (lvOf (BitVec.ofNat 32 (if cDmem b then cSrc b else cDst b)))

/-- cpy [xa] (R276, R279). -/
def execCpyPlace (a : BitVec 5) (s : State) : Out := .next (s.finish (copyTo 0 State.copyCheck (s.placeBlock a 0)))

/-- cpy [hN + xb] (R276, R279). -/
def execCpyHandle (h b : BitVec 5) (s : State) : Out := .next (s.finish (copyTo 0 State.copyCheck (s.handleBlock h b)))

/-- cpyx [xa] (R281). -/
def execCpyxPlace (a : BitVec 5) (s : State) : Out := .next (s.finish (copyTo 1 State.copyCheck (s.placeBlock a 1)))

/-- cpyx [hN + xb] (R281). -/
def execCpyxHandle (h b : BitVec 5) (s : State) : Out := .next (s.finish (copyTo 1 State.copyCheck (s.handleBlock h b)))

/-- cpym [xa] (R282). -/
def execCpymPlace (a : BitVec 5) (s : State) : Out := .next (s.finish (copyTo 2 State.copyCheck (s.placeBlock a 2)))

/-- cpym [hN + xb] (R282). -/
def execCpymHandle (h b : BitVec 5) (s : State) : Out := .next (s.finish (copyTo 2 State.copyCheck (s.handleBlock h b)))

/-! ### Copies that run -/

/-- The destination bytes of a copy (R280, R281). -/
def Item.copyBytes (i : Item) : Nat :=
  let b := i.block
  if i.fn = 1 then cLen b * cPitch b
  else if cConv b = 0 then cLen b
  else if cConv b = 1 then cLen b * tileBytes (cFmt b)
  else cLen b * (512 * fmtBits (cFmt b))

/-- The completion of a copy's bytes: a cpym then sends its MWL (R282), another copy makes its completion actions. -/
def State.copyEnd (s : State) (i : Item) : State :=
  if i.fn = 2 then
    (s.modItem i.id fun x => { x with st := .mwl }).modCore i.core.toNat fun k =>
      { k with mwls := k.mwls ++ [{ desc := cMdesc i.block, fmt := BitVec.ofNat 5 (cBfmt i.block), item := some i.id }] }
  else s.finishItem i i.copyBytes

/-- What a plain copy or a conversion moves (R280). -/
def Item.copyXfer (i : Item) : Xfer :=
  let b := i.block
  let f := cFmt b
  if cConv b = 0 then
    { src := [(i.loc (cSmem b) (cSrc b), cLen b)], dst := [(i.loc (cDmem b) (cDst b), cLen b)], f := fun l => l, plain := some 0 }
  else if cConv b = 1 then
    { src := cRows i (cSmem b) (cSrc b), dst := [(i.loc (cDmem b) (cDst b), cLen b * tileBytes f)]
      f := chunked (toPlanar f) (512 * fmtBits f) (cLen b) }
  else
    { src := [(i.loc (cSmem b) (cSrc b), cLen b * tileBytes f)], dst := cRows i (cDmem b) (cDst b)
      f := chunked (fromPlanar f) (tileBytes f) (cLen b) }

/-- The sources of the records of a cpyx, by the bytes of its index list; none when a record's place fails its checks (R281). -/
def State.records (s : State) (i : Item) (list : List Byte) : List Nat → Option (List (Loc × Nat))
  | [] => some []
  | k :: t =>
    let b := i.block
    let idx := bytesNat ((list.drop (4 * k)).take 4)
    let p : PlaceAddr := BitVec.ofNat 32 (cSrc b)
    if cSmem b then (s.records i list t).map (((i.loc true (cSrc b)).plus (idx * cLen b), cLen b) :: ·)
    else match s.placeCheck i.core.toNat p (offOf p + idx * cLen b) (cLen b) false with
      | .ok _ => (s.records i list t).map (((i.loc false (cSrc b)).plus (idx * cLen b), cLen b) :: ·)
      | .error _ => none

/-- The index list of a cpyx (R281). -/
def Item.indexKey (i : Item) : Nat := placeKey i.core.toNat (BitVec.ofNat 32 (cTstr i.block))

/-- What a cpyx moves, by its index list as it has read it or as memory now has it; none when a record's place fails its checks (R281). -/
def State.indexXfer (s : State) (i : Item) : Option Xfer :=
  let b := i.block
  let n := 4 * cPitch b
  let list := (s.memBytes i [] i.indexKey n).map (·.v)
  (s.records i list (List.range (cPitch b))).map fun src =>
    { src := (.key i.indexKey, n) :: src, dst := [(i.loc (cDmem b) (cDst b), cLen b * cPitch b)], f := (·.drop n)
      consumes := n, plain := some n, first := n }

/-- A cpyx runs (R281): a poisoned line of its index list ends it with POISON, and a record's place that fails its checks with
ENGINE_FAULT. -/
def State.indexCopy (s : State) (i : Item) : State :=
  let n := 4 * cPitch i.block
  let list : List EPiece := [.mem i.indexKey n false]
  if i.phase = 2 then s.drainStores i (·.copyEnd i)
  else if s.tooFresh list || !s.partsClear i list then s
  else match s.sickLine i list n with
  | some l => s.itemTrap i (poisonTrap i.core.toNat l false)
  | none =>
    let j := i.takeRange s i.indexKey n
    match s.indexXfer j with
    | none => s.itemTrap i i.fault
    | some x => (s.modItem i.id fun y => { y with took := j.took }).transfer j x fun _ => (·.copyEnd i)

/-- COPY_COMPLETE: copy item `about.k`, the first of its engine, moves its bytes and makes its completion actions (R278 to
R283); with remote pages it needs several such events. A cpym whose
MWL has loaded makes its completion actions here when a full log held them. -/
def execCopyComplete (s : State) : Out :=
  match s.item s.about.k with
  | some i =>
    if i.st = .mwl ∧ !((s.core i.core.toNat).mwls.any fun (w : Mwl) => w.item == some i.id) then
      .next (s.finishItem i i.copyBytes)
    else if i.fn ≤ 2 ∧ s.canRun i then
      .next (s.orFinish i fun s => if i.fn = 1 then s.indexCopy i else s.transfer i i.copyXfer fun _ => (·.copyEnd i))
    else .next s
  | none => .next s

/-- CPYM_FOLLOW_ON_MWL: the MWL of a cpym, first among the waiting MWLs of core `about.core`, starts to load: SHST is not
LOADING and SWPEND is 0 (R282). -/
def execCpymFollowOnMwl (s : State) : Out :=
  let k := s.core s.me
  match k.mwls with
  | w :: _ =>
    if w.item.isSome ∧ k.shst ≠ 1 ∧ k.swpend = none ∧ !s.frozenCore s.me then
      .next (s.setCore s.me { k with shst := 1, wSh := { k.wSh with fmt := w.fmt }
                                     mwls := { w with at_ := s.gscNow s.me } :: k.mwls.tail })
    else .next s
  | [] => .next s

/-- A loading MWL reads piece `p` of its four tiles, in one of the cycles in which it loads (R267, R272). -/
def Core.mwlPiece (k : Core) (s : State) (c : Nat) (w : Mwl) (rest : List Mwl) (p : Nat) : Core :=
  if w.took.contains p || decide (4 * tilePieces w.fmt.toNat ≤ p) || decide (s.gscNow c ≤ w.at_) || decide (w.last < s.gscNow c) then k
  else
    { k with wSh := { k.wSh with tiles := takePiece w.fmt.toNat (s.tiles c w.desc w.fmt.toNat 4) k.wSh.tiles p }
             mwls := { w with took := w.took ++ [p] } :: rest }

/-- MWL_LOADED: the MWL that loads on core `about.core` has its tiles, SHST becomes LOADED, and it pushes; a cpym that it follows makes
its completion actions (R267, R282). With `about.isLoad` it reads piece `about.n` of them (R272). A full queue stalls its
stream (R24). -/
def execMwlLoaded (s : State) : Out :=
  let c := s.me
  let k := s.core c
  match k.mwls with
  | w :: rest =>
    if k.shst ≠ 1 ∨ s.frozenCore c then .next s
    else if s.about.isLoad then .next (s.setCore c (k.mwlPiece s c w rest s.about.n))
    else if s.gscNow c < w.last then .next s
    else if !k.tokRoom .a w.push then .next (s.setCore c (k.owe .a w.push w.pc))
    else
      let k := { k with shst := 2, mwls := rest, wSh := { k.mwlRest s c w with desc := some w.desc } }
      let s := s.setCore c (k.pushLate .a w.push w.pc w.no)
      match w.item.bind s.item with
      | some i => .next (s.finishItem i i.copyBytes)
      | none => .next s
  | [] => .next s

/-! ### The stream engine -/

/-- The strm body and FLAGS (Table 9.10). -/
def sDir (b : BitVec 1024) : Nat := bitsNat b 0 0
def sMode (b : BitVec 1024) : Nat := bitsNat b 2 1
def sTr (b : BitVec 1024) : Bool := b.getLsbD 3
def sMaddr (b : BitVec 1024) : Nat := blk b 0x20 8
def sPlace (b : BitVec 1024) : Nat := blk b 0x28 4
def sSplace (b : BitVec 1024) : Nat := blk b 0x2C 4
def sSaddr (b : BitVec 1024) : Nat := blk b 0x30 8
def sLen (b : BitVec 1024) : Nat := blk b 0x38 4
def sRows (b : BitVec 1024) : Nat := blk b 0x3C 2
def sCols (b : BitVec 1024) : Nat := blk b 0x3E 2
def sPitch (b : BitVec 1024) : Nat := blk b 0x40 4
def sSpitch (b : BitVec 1024) : Nat := blk b 0x44 4
def sFmt (b : BitVec 1024) : Nat := bitsNat b (8 * 0x48 + 4) (8 * 0x48)

/-- Tiles and bytes of tiles of an MX decode (R285). -/
def sTiles (b : BitVec 1024) : Nat := sRows b * sCols b / 4096
def sTileBytes (b : BitVec 1024) : Nat := sTiles b * tileBytes (elemFmt (sFmt b))

/-- A physical range lies in the second tier or the tower (R389). -/
def migratable (pa n : Nat) : Bool :=
  let ok (a : Nat) : Bool := match regionOf a with | .second _ | .tower .. => true | _ => false
  ok pa && ok (pa + n - 1)

/-- The checks of a page migration (R286, R389). -/
def State.migrateCheck (s : State) (i : Item) : Check :=
  let m := sMaddr i.block
  let d := sSaddr i.block
  let n := sLen i.block
  if (s.ctx i.ctx).desc.priv ≠ 1 then some { cause := cPRIV, detail := i.word.setWidth 64 }
  else i.need (n % 65536 == 0 && decide (65536 ≤ n) && decide (n ≤ 2 ^ 28) && m % 65536 == 0 && d % 65536 == 0 &&
    migratable m n && migratable d n && !rangesMeet m n d n)

/-- The checks of an MX decode (R285). -/
def State.mxCheck (s : State) (i : Item) : Check :=
  let b := i.block
  let lim (n : Nat) : Bool := n % 64 == 0 && decide (64 ≤ n) && decide (n ≤ 4096)
  (i.need (sDir b == 0 && lim (sRows b) && lim (sCols b) && isMx (sFmt b))).orElse fun _ =>
  (s.needPlace i (BitVec.ofNat 32 (sPlace b)) (sTileBytes b) 1).orElse fun _ =>
  s.needPlace i (BitVec.ofNat 32 (sSplace b)) (sRows b * sCols b / 32) 1

/-- The checks of a strm body (R284 to R286, R389). -/
def State.strmCheck (s : State) (i : Item) : Check :=
  let b := i.block
  match sMode b with
  | 0 => (i.need (decide (1 ≤ sLen b) && decide (sLen b ≤ 2 ^ 24))).orElse fun _ =>
      s.needPlace i (BitVec.ofNat 32 (sPlace b)) (sLen b) 1
  | 1 => s.mxCheck i
  | 2 => s.migrateCheck i
  | _ => some i.fault

/-- The bytes that an MX decode writes: the tiles, then the scales (R285). -/
def mxBytes (b : BitVec 1024) (l : List DByte) : List DByte :=
  let f := elemFmt (sFmt b)
  let cols := sCols b
  let data := (l.take (sRows b * (cols * fmtBits f / 8))).toArray
  let tiles := (List.range (sTiles b)).flatMap fun q =>
    let v := q / (cols / 64)
    let u := q % (cols / 64)
    tileFrom f data fun x y =>
      if sTr b then (64 * v + y) * cols + (64 * u + x) else (64 * v + x) * cols + (64 * u + y)
  tiles ++ l.drop (sRows b * (cols * fmtBits f / 8))

/-- A physical range in its pages of 64 KiB, of which each lies in one layer (R105, R389). -/
def keyPages (k n : Nat) : List (Loc × Nat) := (List.range (n / 0x10000)).map fun j => (.key (k + 0x10000 * j), 0x10000)

/-- What a strm item moves (R284, R285, R389). -/
def Item.strmXfer (i : Item) : Xfer :=
  let b := i.block
  let mem : Loc × Nat := (i.loc true (sMaddr b), sLen b)
  let place : Loc × Nat := (i.loc false (sPlace b), sLen b)
  if sMode b = 0 then
    if sDir b = 0 then { src := [mem], dst := [place], f := fun l => l, plain := some 0 }
    else { src := [place], dst := [mem], f := fun l => l, plain := some 0 }
  else if sMode b = 1 then
    let f := elemFmt (sFmt b)
    let rows := List.range (sRows b)
    { src := rows.map (fun r => ((i.loc true (sMaddr b)).plus (r * sPitch b), sCols b * fmtBits f / 8)) ++
        rows.map fun r => ((i.loc true (sSaddr b)).plus (r * sSpitch b), sCols b / 32)
      dst := [(i.loc false (sPlace b), sTileBytes b), (i.loc false (sSplace b), sRows b * sCols b / 32)]
      f := mxBytes b }
  else
    { src := keyPages (sMaddr b) (sLen b), dst := keyPages (sSaddr b) (sLen b), f := fun l => l, plain := some 0 }

/-- The destination bytes of a strm item (R285, R286, R389). -/
def Item.strmBytes (i : Item) : Nat :=
  let b := i.block
  if sMode b = 1 then sTileBytes b + sRows b * sCols b / 32 else sLen b

/-- strm [xa] (R284). -/
def execStrmPlace (a : BitVec 5) (s : State) : Out := .next (s.finish (commandTo 3 (s.placeBlock a 3)))

/-- strm [hN + xb] (R284). -/
def execStrmHandle (h b : BitVec 5) (s : State) : Out := .next (s.finish (commandTo 3 (s.handleBlock h b)))

/-- STRM_COMPLETE: strm item `about.k`, the first of its engine, moves its bytes and makes its completion actions (R278, R284
to R286, R389). -/
def execStrmComplete (s : State) : Out :=
  match s.item s.about.k with
  | some i =>
    if i.fn = 3 ∧ s.canRun i then
      .next (s.orFinish i fun s => s.transfer i i.strmXfer fun _ => (·.finishItem i i.strmBytes))
    else .next s
  | none => .next s

end Sys2Proof.Machine
end

