-- ==== Sys2Proof/Machine/Ecdsa.lean ====
section
/-! DEFINITION. The signature check of R299: ECDSA over the 384-bit random-parameter Brainpool curve of RFC 5639
(brainpoolP384r1), with SHA-384. R299 names both by their standards; what is written here is those standards' text (SHA-384 of
FIPS 180-4, the curve of RFC 5639, section 3.6, the check of FIPS 186).
(PRESUMED: log entry 50.) -/

namespace Sys2Proof.Machine

/-! ### SHA-384 -/

/-- The primes below 410: the first 80. -/
def primes80 : List Nat :=
  (List.range 410).filter fun n => decide (2 ≤ n) && (List.range 21).all fun d => decide (d < 2) || decide (n ≤ d) || n % d != 0

/-- The largest `r` below 2^76 with `r ^ k ≤ n`. -/
def rootNat (k n : Nat) : Nat :=
  (List.range 76).foldl (fun r i => if (r + 2 ^ (75 - i)) ^ k ≤ n then r + 2 ^ (75 - i) else r) 0

/-- The round constants: the first 64 bits of the fractional parts of the cube roots of the first 80 primes. -/
def shaK : List X64 := primes80.map fun p => BitVec.ofNat 64 (rootNat 3 (p * 2 ^ 192))

/-- The initial value: the same of the square roots of the ninth to the sixteenth prime. -/
def shaInit : List X64 := ((primes80.drop 8).take 8).map fun p => BitVec.ofNat 64 (rootNat 2 (p * 2 ^ 128))

/-- A big-endian number. -/
def bigNat (l : List Byte) : Nat := bytesNat l.reverse

/-- The message with its padding: a 1 bit, zeros, and its length in bits, in whole blocks of 128 bytes. -/
def shaPad (l : List Byte) : List Byte :=
  l ++ [0x80] ++ List.replicate ((239 - l.length % 128) % 128) 0 ++ (natBytes (8 * l.length) 16).reverse

/-- The message schedule of a block, last word first. -/
def shaSchedule (b : List Byte) : List X64 :=
  (List.range 64).foldl (fun w _ =>
    let at_ (k : Nat) : X64 := (w[k]?).getD 0
    let s0 := (at_ 14).rotateRight 1 ^^^ (at_ 14).rotateRight 8 ^^^ (at_ 14) >>> 7
    let s1 := (at_ 1).rotateRight 19 ^^^ (at_ 1).rotateRight 61 ^^^ (at_ 1) >>> 6
    (s1 + at_ 6 + s0 + at_ 15) :: w)
    ((List.range 16).map fun i => BitVec.ofNat 64 (bigNat ((b.drop (8 * i)).take 8))).reverse

/-- One round, with the sum of its constant and its schedule word. -/
def shaRound (v : List X64) (kw : X64) : List X64 :=
  match v with
  | [a, b, c, d, e, f, g, h] =>
    let t1 := h + (e.rotateRight 14 ^^^ e.rotateRight 18 ^^^ e.rotateRight 41) + ((e &&& f) ^^^ (~~~ e &&& g)) + kw
    let t2 := (a.rotateRight 28 ^^^ a.rotateRight 34 ^^^ a.rotateRight 39) + ((a &&& b) ^^^ (a &&& c) ^^^ (b &&& c))
    [t1 + t2, a, b, c, d + t1, e, f, g]
  | v => v

/-- The hash value after a block. -/
def shaBlock (h : List X64) (b : List Byte) : List X64 :=
  List.zipWith (· + ·) h ((List.zipWith (· + ·) shaK (shaSchedule b).reverse).foldl shaRound h)

/-- SHA-384 of a message, as a number of 384 bits. -/
def sha384 (l : List Byte) : Nat :=
  let m := shaPad l
  let h := (List.range (m.length / 128)).foldl (fun h i => shaBlock h ((m.drop (128 * i)).take 128)) shaInit
  (h.take 6).foldl (fun n (x : X64) => n * 2 ^ 64 + x.toNat) 0

/-! ### The curve y² = x³ + ax + b -/

def curveP : Nat := 0x8CB91E82A3386D280F5D6F7E50E641DF152F7109ED5456B412B1DA197FB71123ACD3A729901D1A71874700133107EC53
def curveA : Nat := 0x7BC382C63D8C150C3C72080ACE05AFA0C2BEA28E4FB22787139165EFBA91F90F8AA5814A503AD4EB04A8C7DD22CE2826
def curveB : Nat := 0x04A8C7DD22CE28268B39B55416F0447C2FB77DE107DCD2A62E880EA53EEB62D57CB4390295DBC9943AB78696FA504C11
/-- The base point and its order. -/
def curveG : Nat × Nat :=
  (0x1D1C64F068CF45FFA2A63A81B7C13F6B8847A3E77EF14FE3DB7FCAFE0CBD10E8E826E03436D646AAEF87B2E247D4AF1E,
    0x8ABE1D7520F9C2A45CB1EB8E95CFD55262B70B29FEEC5864E19C054FF99129280E4646217791811142820341263C5315)
def curveQ : Nat := 0x8CB91E82A3386D280F5D6F7E50E641DF152F7109ED5456B31F166E6CAC0425A7CF3AB6AF6B7FC3103B883202E9046565

/-- `b ^ e` modulo `m`, for an exponent of 384 bits. -/
def powMod (b e m : Nat) : Nat :=
  (List.range 384).foldl (fun r i => if e.testBit (383 - i) then r * r % m * b % m else r * r % m) 1

/-- The inverse modulo a prime. -/
def invMod (a m : Nat) : Nat := powMod (a % m) (m - 2) m

/-- A difference modulo `curveP`. -/
def subP (a b : Nat) : Nat := (a + curveP - b % curveP) % curveP

/-- The point with a slope through two points. -/
def chord (l : Nat) (u v : Nat × Nat) : Nat × Nat :=
  let x := subP (subP (l * l) u.1) v.1
  (x, subP (l * subP u.1 x) u.2)

/-- The sum of two points; none is the point at infinity. -/
def curveAdd (u v : Option (Nat × Nat)) : Option (Nat × Nat) :=
  match u, v with
  | none, v => v
  | u, none => u
  | some u, some v =>
    if u.1 ≠ v.1 then some (chord (subP v.2 u.2 * invMod (subP v.1 u.1) curveP % curveP) u v)
    else if (u.2 + v.2) % curveP = 0 then none
    else some (chord ((3 * u.1 * u.1 + curveA) * invMod (2 * u.2) curveP % curveP) u v)

/-- A multiple of a point, by a number of 384 bits. -/
def curveMul (k : Nat) (u : Option (Nat × Nat)) : Option (Nat × Nat) :=
  (List.range 384).foldl (fun r i => let r := curveAdd r r; if k.testBit (383 - i) then curveAdd r u else r) none

/-- A public key: a point of the curve, not the one at infinity. -/
def keyPoint (key : BitVec 768) : Option (Nat × Nat) :=
  let x := key.toNat / 2 ^ 384
  let y := key.toNat % 2 ^ 384
  if x < curveP ∧ y < curveP ∧ y * y % curveP = (x * x % curveP * x + curveA * x + curveB) % curveP then some (x, y) else none

/-- A signature (r in the high half, s in the low one) of a message verifies under a public key (x in the high half, y in the low
one). -/
def ecdsaOk (key : BitVec 768) (l : List Byte) (sig : BitVec 768) : Bool :=
  let r := sig.toNat / 2 ^ 384
  let s := sig.toNat % 2 ^ 384
  match keyPoint key with
  | none => false
  | some u =>
    if 1 ≤ r ∧ r < curveQ ∧ 1 ≤ s ∧ s < curveQ then
      let w := invMod s curveQ
      match curveAdd (curveMul (sha384 l * w % curveQ) (some curveG)) (curveMul (r * w % curveQ) (some u)) with
      | some p => p.1 % curveQ == r
      | none => false
    else false

/-! ### Key slot 1 (R17, R457) -/

/-- A number from 1 to below the order of the base point. -/
def scalarOf (n : Nat) : Nat := 1 + n % (curveQ - 1)

/-- The public key of key slot 1. -/
def devicePublic : BitVec 768 :=
  let p := (curveMul (scalarOf Config.deviceKey) (some curveG)).getD (0, 0)
  BitVec.ofNat 768 (p.1 * 2 ^ 384 + p.2)

/-- A signature of a message with key slot 1; `n` counts the signatures (FIPS 186), and `fuel` bounds the tries with another secret number
when a half of it is 0. -/
def signFrom (l : List Byte) (n : Nat) : Nat → BitVec 768
  | 0 => 0
  | fuel + 1 =>
    let k := scalarOf (Config.signSecret n + fuel)
    let r := ((curveMul k (some curveG)).getD (0, 0)).1 % curveQ
    let s := invMod k curveQ * (sha384 l + r * scalarOf Config.deviceKey) % curveQ
    if r = 0 ∨ s = 0 then signFrom l n fuel else BitVec.ofNat 768 (r * 2 ^ 384 + s)

/-- A signature of a message with key slot 1 (R457). -/
def deviceSign (l : List Byte) (n : Nat) : BitVec 768 := signFrom l n 8

end Sys2Proof.Machine
end

