-- ==== Sys2Proof/Machine/Storage.lean ====
section
/-! DEFINITION. The NVMe host (R330 to R334, R460): NVRD and NVWR. What the drive answers, its status and the bytes that it
reads, comes from outside with the event. -/

namespace Sys2Proof.Machine

/-! ### The storage body (Table 11.10) -/

def nBmem (b : BitVec 1024) : Bool := b.getLsbD 0
def nBuf (b : BitVec 1024) : Nat := blk b 0x20 8
def nSlba (b : BitVec 1024) : Nat := blk b 0x28 8
def nNlb (b : BitVec 1024) : Nat := blk b 0x30 4
def nPort (b : BitVec 1024) : Nat := bitsNat b (8 * 0x34 + 1) (8 * 0x34)
def nNsid (b : BitVec 1024) : BitVec 32 := fld b (8 * 0x38) 32
def nStw (b : BitVec 1024) : PlaceAddr := fld b (8 * 0x3C) 32

/-- Block size of the item's namespace, if the hub has enumerated it as active (R332). -/
def State.blockSize (s : State) (b : BitVec 1024) : Option Nat :=
  let p := vget s.hub.ports (nPort b) {}
  if p.present then (p.spaces.find? fun (x : BitVec 32 × Nat) => x.1 == nNsid b).map (·.2) else none

/-- Bytes that an item moves: NLB × block size (R332). -/
def State.nvBytes (s : State) (b : BitVec 1024) : Nat := nNlb b * (s.blockSize b).getD 0

/-- A storage window of a context holds the item's blocks (Table 15.1, R332). -/
def winHolds (w : BitVec 256) (b : BitVec 1024) (write : Bool) : Bool :=
  let slba := bitsNat w 127 64
  let nlb := bitsNat w 191 128
  bitsNat w 1 0 == nPort b && bitsNat w 63 32 == (nNsid b).toNat && decide (slba ≤ nSlba b) &&
    decide (nSlba b + nNlb b ≤ slba + nlb) && (!write || w.getLsbD 8)

/-- BUF as one range. -/
def State.nvRange (s : State) (i : Item) : List (Loc × Nat) :=
  [(i.loc (nBmem i.block) (nBuf i.block), s.nvBytes i.block)]

/-- BUF translates, to local memory, or passes R75 in a tower level (R332).
(DEDUCED: log entry 45.) -/
def State.bufOk (s : State) (i : Item) : Bool :=
  let b := i.block
  let n := s.nvBytes b
  if nBmem b then
    nBuf b % 4 == 0 && (match s.resolve i (if i.fn = 7 then 0 else 1) (s.nvRange i) [] with
      | .ok ps _ => ps.all fun p => match p with | .mem .. => true | .rem .. => false
      | _ => false)
  else
    let p : PlaceAddr := BitVec.ofNat 32 (nBuf b)
    lvOf p != 0 && (s.needPlace i p n 64).isNone

/-- The parts of BUF, which the item holds from its acceptance to its end (R332). -/
def State.holdBuf (s : State) (i : Item) : State :=
  match s.resolve i (if i.fn = 7 then 0 else 1) (s.nvRange i) [] with
  | .ok ps s => s.modItem i.id fun x =>
      { x with parts := ps.filterMap fun p => match p with | .mem k n log => some (k, n, log) | .rem .. => none }
  | _ => s

/-- BUF as the item holds it. -/
def Item.bufParts (i : Item) : List EPiece := i.parts.map fun p => .mem p.1 p.2.1 p.2.2

/-- The checks of a storage item (R332): every failure is ENGINE_FAULT; STW is a place by R75. -/
def State.nvCheck (s : State) (i : Item) : Check :=
  let b := i.block
  let n := nNlb b
  (i.need ((s.blockSize b).isSome && decide (1 ≤ n) && decide (n ≤ 65536) && decide (s.nvBytes b ≤ 2 ^ 24) &&
    ((s.ctx i.ctx).desc.win.any fun w => winHolds w b (i.fn == 7)) && s.bufOk i)).orElse fun _ =>
  checkIf (nStw b != 0) (s.needPlace i (nStw b) 16 16)

/-- nvrd [xa] (R331). -/
def execNvrdPlace (a : BitVec 5) (s : State) : Out := .next (s.finish (commandTo 6 (s.placeBlock a 6)))

/-- nvrd [hN + xb] (R331). -/
def execNvrdHandle (h b : BitVec 5) (s : State) : Out := .next (s.finish (commandTo 6 (s.handleBlock h b)))

/-- nvwr [xa] (R331). -/
def execNvwrPlace (a : BitVec 5) (s : State) : Out := .next (s.finish (commandTo 7 (s.placeBlock a 7)))

/-- nvwr [hN + xb] (R331). -/
def execNvwrHandle (h b : BitVec 5) (s : State) : Out := .next (s.finish (commandTo 7 (s.handleBlock h b)))

/-! ### The end of an item -/

/-- The status word (R333): the first nonzero status without its phase bit, and the blocks moved. -/
def stwBytes (status blocks : Nat) : List Byte := natBytes (natBits status 11 1 * 2) 8 ++ natBytes blocks 8

/-- STW is written, and then the item makes its completion actions, or ends with ENGINE_FAULT (R333). -/
def State.nvEnd (s : State) (i : Item) (status blocks : Nat) : Done :=
  let b := i.block
  (if nStw b = 0 then .ok s else s.itemStore i (nStw b) (stwBytes status blocks)).bind fun s =>
    .ok (if natBits status 11 1 = 0 then s.finishItem i (s.nvBytes b) else s.itemTrap i i.fault)

/-- Bytes that a drive has read; those that the event does not give are indeterminate (R10, R333). -/
def driveBytes (data : List Byte) (n : Nat) : List DByte :=
  (List.range n).map fun j => match data[j]? with
    | some v => { v := v }
    | none => { hole := true }

/-- An NVRD stores what the drive has read; after a failed command the bytes come from the event all the same, which fixes
none of them (R10, R333). -/
def State.nvRead (s : State) (i : Item) (data : List Byte) : Done :=
  s.putParts i 0 i.bufParts (driveBytes data (s.nvBytes i.block))

/-- Nothing stands before the stores of a storage item at their columns (R103, R104). -/
def State.nvClear (s : State) (i : Item) : Bool :=
  s.partsClear i i.bufParts && (nStw i.block == 0 || s.itemClear i (placeKey i.core.toNat (nStw i.block)))

/-- Every command of an item has completed, with the first nonzero status (R333). An NVWR whose source is poisoned sends nothing, with
the outcome of a disabled path (R334, R465). -/
def State.nvDone (s : State) (i : Item) (data : List Byte) (status blocks : Nat) : State :=
  let ps := i.bufParts
  let bad := if i.fn = 7 then s.sickLine i ps (s.nvBytes i.block) else none
  if s.tooFresh ps || !s.nvClear i then s
  else match bad with
  | some line => s.refuseLine i.ctx 7 (nPort i.block) line
  | none => match (if i.fn = 6 then s.nvRead i data else .ok (s.touchParts ps)).bind fun s => s.nvEnd i status blocks with
    | .ok s => s
    | .full _ => s.logFull i.ctx i.core.toNat i.pc .c
    | .fail s t => s.itemTrap i t

/-- One piece of BUF by itself: an NVRD stores it from `about.bytes`, an NVWR reads it (R118, R136). -/
def State.nvPiece (s : State) (i : Item) : State :=
  match (partPieces i.bufParts 0)[s.about.n]? with
  | none => s
  | some p =>
    if i.fn = 6 then s.putPiece i p (driveBytes s.about.bytes p.2.1)
    else if s.tooFresh i.bufParts || !s.itemClear i p.1 then s
    else (s.touch p.1 false).modItem i.id fun y => { y with took := (i.takePiece s p.1 p.2.1).took }

/-- The status of an aborted command: type 7, code 0xFF (R333). -/
def statusAborted : Nat := 0xFFE

/-- A storage item has commands with the drive, which may complete: its port is not contained, or its commands were aborted by the
containment (R330, R333, R460). -/
def State.nvRuns (s : State) (i : Item) : Bool :=
  (i.fn == 6 || i.fn == 7) && s.canRun i && (i.aborted || !(vget s.hub.ports (nPort i.block) {}).contained)

/-- The first nonzero status of an item of which a command was aborted: that of an earlier command, or that of the aborted one. -/
def orAborted (status : Nat) : Nat := if natBits status 11 1 = 0 then statusAborted else status

/-- NVME_ITEM_COMPLETE: every command of storage item `about.k` has completed; `about.w0` is the first nonzero status in NVMe
form, or 0, `about.w1` the blocks moved when it is not 0, `about.bytes` what the drive has read (R333). Commands that were outstanding
when their port was contained are among those aborted.
(DESIGN CHOICE: log entry 98.) -/
def execNvmeItemComplete (s : State) : Out :=
  match s.item s.about.k with
  | some i =>
    let status := if i.aborted then orAborted (bitsNat s.about.w0 15 0) else bitsNat s.about.w0 15 0
    if s.nvRuns i then
      .next (s.orFinish i fun s =>
        s.nvDone i s.about.bytes status (if natBits status 11 1 = 0 then nNlb i.block else s.about.w1.toNat))
    else .next s
  | none => .next s

/-- NVME_COMMAND_TIMEOUT: a command of storage item `about.k` is aborted at the storage timeout (R333), and all its commands have
completed, with the first nonzero status `about.w0` before it or 0; `about.w1` blocks had been moved. -/
def execNvmeCommandTimeout (s : State) : Out :=
  match s.item s.about.k with
  | some i =>
    if s.nvRuns i && i.moved.isNone then
      .next (s.nvDone i s.about.bytes (orAborted (bitsNat s.about.w0 15 0)) s.about.w1.toNat)
    else .next s
  | none => .next s

/-! ### Containment of a port (R460) -/

/-- Contexts with a window on a port. -/
def State.windowed (s : State) (port : Nat) : List Nat :=
  (s.ctxs.filter fun (c : Nat × Ctx) =>
    c.2.desc.win.any fun w => bitsNat w 191 128 != 0 && bitsNat w 1 0 == port).map (·.1)

/-- The contained error of a port: one record for each context with a window on it. -/
def State.portError (s : State) (port : Nat) : State :=
  match s.windowed port with
  | [] => s.error 1 7 port 0xFF 0 0
  | l => l.foldl (fun s c => s.error 1 7 port c 0 0) s

/-- DOWNSTREAM_PORT_CONTAINMENT: port `about.n` is contained; its outstanding commands are aborted, and their items end with
NVME_ITEM_COMPLETE (R333, R460). -/
def execDownstreamPortContainment (s : State) : Out :=
  let p := vget s.hub.ports s.about.n {}
  if !p.present || p.contained then .next s
  else
    let s := { s with hub := { s.hub with ports := vset s.hub.ports s.about.n { p with contained := true } } }
    let s := s.portError s.about.n
    .next { s with items := s.items.map fun (i : Item) =>
      if (i.fn == 6 || i.fn == 7) && i.live && i.moved.isNone && nPort i.block == s.about.n then { i with aborted := true } else i }

/-- A port with its drive enumerated anew (R330, R460). -/
def Hub.enumerate (h : Hub) (port n : Nat) : Hub :=
  { h with ports := vset h.ports port { Config.drive port n with contained := false } }

/-- NVME_PORT_RETRAINED: port `about.n` is in use again, with its drive enumerated again (R460). -/
def execNvmePortRetrained (s : State) : Out :=
  let p := vget s.hub.ports s.about.n {}
  if p.contained then
    .next { s with hub := s.hub.enumerate s.about.n s.fresh, fresh := s.fresh + 1 }
  else .next s

end Sys2Proof.Machine
end

