-- ==== Sys2Proof/Machine/Kernels.lean ====
section
/-! DEFINITION. Kernels: the image (R293 to R299), the kernel table and its states (R300, R301), KINV (R302, R303, R307) and
the code store (R304 to R306). -/

namespace Sys2Proof.Machine

/-! ### The image -/

/-- The `n` bytes from `o` of a run of bytes, as a number. -/
def num (l : List Byte) (o n : Nat) : Nat := bytesNat ((l.drop o).take n)

/-- The header (Table 10.1). -/
structure Header where
  kflags : Nat
  ksize : Nat
  nsafe : Nat
  npatch : Nat
  /-- Offset and size of the sections of C, L, A and S. -/
  sect : List (Nat × Nat)
  sptoff : Nat
  pptoff : Nat
  constoff : Nat
  constsize : Nat
  sigoff : Nat
  keyid : Nat
  /-- Bytes 0x48 to 0x7F are 0. -/
  rsvOk : Bool
  deriving DecidableEq, Repr, Inhabited

/-- The header of an image. -/
def Header.of (l : List Byte) : Header :=
  { kflags := num l 6 2, ksize := num l 8 4, nsafe := num l 0xC 2, npatch := num l 0xE 2
    sect := (List.range 4).map fun i => (num l (0x10 + 8 * i) 4, num l (0x14 + 8 * i) 4)
    sptoff := num l 0x30 4, pptoff := num l 0x34 4, constoff := num l 0x38 4, constsize := num l 0x3C 4
    sigoff := num l 0x40 4, keyid := num l 0x44 4, rsvOk := ((l.drop 0x48).take 0x38).all (· == 0) }

/-- MAGIC and VERSION are right. -/
def magicOk (l : List Byte) : Bool := l.take 4 == [0x47, 0x4B, 0x52, 0x4E] && num l 4 2 == 1

/-- The tables and sections of an image, as offsets and sizes.
(DEDUCED: log entry 130.) -/
def Header.parts (h : Header) : List (Nat × Nat) :=
  (h.sect ++ [(h.sptoff, 128 * h.nsafe), (h.pptoff, 8 * h.npatch), (h.constoff, h.constsize),
    (h.sigoff, if h.kflags % 2 = 1 then 96 else 0)]).filter fun (p : Nat × Nat) => p.2 != 0

/-- No two of the ranges meet. -/
def apart : List (Nat × Nat) → Bool
  | [] => true
  | p :: t => (t.all fun (q : Nat × Nat) => !rangesMeet p.1 p.2 q.1 q.2) && apart t

/-- The layout keeps Table 10.1 (BAD_LAYOUT of Table 10.5).
(DEDUCED: log entry 129.) -/
def Header.layoutOk (h : Header) : Bool :=
  decide (h.kflags < 32) && h.rsvOk && decide (128 ≤ h.ksize) && decide (h.ksize ≤ 2 ^ 20) && decide (h.nsafe ≤ 4096) &&
    decide (h.npatch ≤ 256) && (h.sect.any fun (p : Nat × Nat) => p.2 != 0) &&
    (h.sect.all fun (p : Nat × Nat) => p.1 % 4 == 0 && p.2 % 4 == 0) &&
    (h.parts.all fun (p : Nat × Nat) => decide (128 ≤ p.1) && decide (p.1 + p.2 ≤ h.ksize)) && apart h.parts

/-- The safe-point entries of an image. -/
def Header.entries (h : Header) (l : List Byte) : List SafeEntry :=
  (List.range h.nsafe).map fun n => BitVec.ofNat 1024 (num l (h.sptoff + 128 * n) 128)

/-- Bits of QLIVE that Table 10.2 wants 0: those with s = d, and bits 31 to 16. -/
def qliveRsv : Nat := 0xFFFF8421

/-- One extent of a safe-point entry is in range (Table 10.2). -/
def extentOk (base limit : Nat) : Bool :=
  limit == 0 || (base % 64 == 0 && limit % 64 == 0 && decide (base < limit) && decide (limit ≤ 0x80000))

/-- A valid safe-point entry keeps Table 10.2 (BAD_SAFEPOINT of Table 10.5). -/
def entryOk (sect : List (Nat × Nat)) (e : SafeEntry) : Bool :=
  (sect.zipIdx.all fun (p : (Nat × Nat) × Nat) =>
    let pc := bitsNat e (32 * p.2 + 31) (32 * p.2)
    if p.1.2 = 0 then pc == 0xFFFFFFFF else pc % 4 == 0 && decide (pc < p.1.2)) &&
  !e.getLsbD (8 * 0x10) && (bitsNat e (8 * 0x1C - 1) (8 * 0x18) &&& qliveRsv == 0) && !e.getLsbD (8 * 0x28) &&
  bitsNat e (8 * 0x2A - 1) (8 * 0x29) == 1 && bitsNat e (8 * 0x30 - 1) (8 * 0x2A) == 0 && bitsNat e 1023 (8 * 0x50) == 0 &&
  ((List.range 4).all fun k =>
    extentOk (bitsNat e (8 * 0x30 + 64 * k + 31) (8 * 0x30 + 64 * k))
      (bitsNat e (8 * 0x30 + 64 * k + 63) (8 * 0x30 + 64 * k + 32)))

/-- A patch point: stream, word, position and width (R298); none when its entry breaks R298. -/
def patchOf (sect : List (Nat × Nat)) (l : List Byte) (o : Nat) : Option (Nat × Nat × Nat × Nat) :=
  let w := num l o 4
  let word := natBits w 23 0
  let st := natBits w 25 24
  let pos := num l (o + 4) 1
  let width := num l (o + 5) 1
  if natBits w 31 26 = 0 ∧ num l (o + 6) 2 = 0 ∧ 1 ≤ width ∧ pos + width ≤ 32 ∧ 4 * word < ((sect[st]?).getD (0, 0)).2 then
    some (st, word, pos, width)
  else none

/-- The patch points of an image; none when one of them is bad. -/
def Header.patches (h : Header) (l : List Byte) : Option (List (Nat × Nat × Nat × Nat)) :=
  (List.range h.npatch).mapM fun k => patchOf h.sect l (h.pptoff + 8 * k)

/-- Bytes with the bits of a field of one little-endian word read as 0. -/
def clearField (l : List Byte) (o pos width : Nat) : List Byte :=
  let w := num l o 4
  l.take o ++ natBytes (w - natBits w (pos + width - 1) pos * 2 ^ pos) 4 ++ l.drop (o + 4)

/-- The signed message (R299): the image with its signature and every patch field read as 0. -/
def Header.message (h : Header) (l : List Byte) (ps : List (Nat × Nat × Nat × Nat)) : List Byte :=
  let l := l.take h.sigoff ++ List.replicate 96 0 ++ l.drop (h.sigoff + 96)
  ps.foldl (fun l p => clearField l (((h.sect[p.1]?).getD (0, 0)).1 + 4 * p.2.1) p.2.2.1 p.2.2.2) l

/-- The signature, r in the high half (R299). -/
def Header.signature (h : Header) (l : List Byte) : BitVec 768 :=
  BitVec.ofNat 768 (bigNat ((l.drop h.sigoff).take 96))

/-- Bytes that a copy holds in each code store (R304). -/
def Copy.bytes (k : Copy) : Nat :=
  let n := k.secs.foldl (fun n (x : Section) => n + 4 * x.words.length) 0 + 128 * k.safe.length + 8 * k.patches.length
  (n + 4095) / 4096 * 4096

/-! ### Reading an image -/

/-- `n` bytes of a context's address space, as the hub reads them; none when a part does not translate to local memory,
or a line is poisoned. `fuel` bounds the pages.
(DESIGN CHOICE: log entry 132.) -/
def State.readVa (s : State) (slot : Slot) : Nat → VAddr → Nat → Option (List Byte)
  | 0, _, n => if n = 0 then some [] else none
  | fuel + 1, va, n =>
    if n = 0 then some []
    else match s.walk slot va with
      | .valid t =>
        let m := Nat.min n (0x10000 - va.toNat % 0x10000)
        match (if t.rem then none else physKey s.layeravail (t.pa va)) with
        | some key =>
          if (poisonIn s key m).isSome then none
          else (s.readVa slot fuel (va + BitVec.ofNat 56 m) (n - m)).map (s.bytesAt key m ++ ·)
        | none => none
      | _ => none

/-- The bytes of an image. -/
def State.readImage (s : State) (slot : Slot) (va : VAddr) (n : Nat) : Option (List Byte) :=
  s.readVa slot (n / 0x10000 + 2) va n

/-- Reading the pages of `n` bytes of a context's address space uses the pool slots that they lie in (R396). -/
def State.readOver (s : State) (slot : Slot) (va : VAddr) (n : Nat) : State :=
  if s.pool.isEmpty then s
  else (List.range ((va.toNat + n - 1) / 0x10000 - va.toNat / 0x10000 + 1)).foldl (fun (s : State) j =>
    match s.walk slot (va + BitVec.ofNat 56 (0x10000 * j)) with
    | .valid t => if t.rem then s else s.hubRead (t.pa (va + BitVec.ofNat 56 (0x10000 * j)))
    | _ => s) s

/-! ### LOAD (R303) -/

/-- Words of a section. -/
def sectionWords (l : List Byte) (p : Nat × Nat) : List IWord :=
  (List.range (p.2 / 4)).map fun w => BitVec.ofNat 32 (num l (p.1 + 4 * w) 4)

/-- The copy that a good image leaves in the code store. -/
def Header.copy (h : Header) (l : List Byte) (id : BitVec 16) (image : VAddr) (owner : Slot)
    (ps : List (Nat × Nat × Nat × Nat)) : Copy :=
  { kernel := id, image := image, owner := owner, flags := BitVec.ofNat 16 h.kflags
    secs := Vector.ofFn fun i =>
      let p := (h.sect[i.val]?).getD (0, 0)
      { off := p.1, words := sectionWords l p }
    safe := h.entries l, patches := ps }

/-- The code store of each stack has room for a copy (R304). -/
def State.storeRoom (s : State) (k : Copy) : Bool :=
  decide (s.copies.foldl (fun n (e : Nat × Copy) => n + e.2.bytes) 0 + k.bytes ≤ 0x400000)

/-- The signature of an image verifies with the key of its slot (R299, R454). -/
def State.signed (s : State) (h : Header) (l : List Byte) (ps : List (Nat × Nat × Nat × Nat)) : Bool :=
  match look h.keyid s.hub.keys with
  | some key => ecdsaOk key (h.message l ps) (h.signature l)
  | none => false

/-- The checks of Table 10.5 in order: the status of the first that fails, or the copy. None of them is on the IMAGE address itself: one that
is no multiple of 64 (R293) is read like any other.
(DESIGN CHOICE: log entry 110.)
(DESIGN CHOICE: log entry 131.) -/
def State.loadChecks (s : State) (id : BitVec 16) (image : VAddr) (owner : Slot) : Except (BitVec 8) Copy :=
  match s.readImage owner image 128 with
  | none => .error 0x09
  | some hd =>
    let h := Header.of hd
    if !magicOk hd then .error 0x01
    else if !h.layoutOk then .error 0x02
    else match s.readImage owner image h.ksize with
      | none => .error 0x09
      | some l =>
        if !((h.entries l).filter SafeEntry.valid).all (entryOk h.sect) then .error 0x03
        else match h.patches l with
          | none => .error 0x04
          | some ps =>
            let sig := h.kflags % 2 = 1
            let copy := h.copy l id image owner ps
            if ¬ sig ∧ (s.ctx owner).desc.sigpol.getLsbD 0 then .error 0x05
            else if sig ∧ !s.signed h l ps then .error 0x06
            else if !s.storeRoom copy then .error 0x07
            else .ok copy

/-! ### KINV -/

/-- First byte of a kernel's descriptor (R300). -/
def State.kernelAddr (s : State) (id : BitVec 16) : Nat := s.hub.ktbase.toNat + 64 * id.toNat

/-- The hub's record of a kernel; one that no KINV has touched is UPLOADED (R300). -/
def State.kernel (s : State) (id : BitVec 16) : Kernel := (look id.toNat s.kernels).getD {}

/-- IMAGE, OWNER and CMD of a descriptor (Table 10.3). Of IMAGE's 8 bytes the upper one is ignored: a virtual address has 56 bits.
(DESIGN CHOICE: log entry 110.) -/
def kImage (d : BitVec 512) : VAddr := fld d 0 56
def kOwner (d : BitVec 512) : Slot := fld d 64 8
def kCmd (d : BitVec 512) : Nat := bitsNat d 79 72

/-- The copy of a kernel is PATCHABLE. -/
def State.patchable (s : State) (id : BitVec 16) : Bool :=
  ((look (s.kernel id).copy s.copies).getD {}).flags.getLsbD 3

/-- A command that its issuer may not give (R302). -/
def State.kinvPriv (s : State) (id : BitVec 16) (d : BitVec 512) : Bool :=
  !s.isP1 s.me && decide (1 ≤ kCmd d) && decide (kCmd d ≤ 3) &&
    (kCmd d != 2 || kOwner d != s.slotOf s.me || ((s.kernel id).st == 2 && !s.patchable id))

/-- A KINV joins those accepted: behind those of earlier cycles and, in its own, of lower cores (R307). -/
def insertKinv (r : KinvReq) : List KinvReq → List KinvReq
  | [] => [r]
  | e :: t => if e.at_ = r.at_ ∧ r.core.toNat < e.core.toNat then r :: e :: t else e :: insertKinv r t

/-- kinv xa (R302): the C-stream stalls until the hub has executed it. -/
def execKinv (a : BitVec 5) (s : State) : Out :=
  let c := s.me
  let id : BitVec 16 := fld (s.x a) 0 16
  .next (s.finish
    (if (s.core c).cmd = some .kinv then .wait s .other
     else if !s.fenceRel 5 then .wait s .fence
     else
       let d : BitVec 512 := BitVec.ofNat 512 (s.get (s.kernelAddr id) 64)
       if s.kinvPriv id d then .trap (s.privTrap 0)
       else
         let r : KinvReq := { core := s.about.core, id := id, desc := d, task := (s.core c).task, at_ := s.cycle }
         .wait ({ s.hubRead (s.kernelAddr id) with kinvs := insertKinv r s.kinvs }.modCore c fun k => { k with cmd := some .kinv }) .other))

/-- A word of a copy with one field taken from a new word (R305). -/
def patchWord (old new : IWord) (pos width : Nat) : IWord :=
  let m : IWord := BitVec.ofNat 32 ((2 ^ width - 1) * 2 ^ pos)
  (old &&& ~~~ m) ||| (new &&& m)

/-- A copy with one patch field rewritten. -/
def Copy.patch (k : Copy) (p : Nat × Nat × Nat × Nat) (w : IWord) : Copy :=
  let sec := vget k.secs p.1 {}
  let words := sec.words.set p.2.1 (patchWord ((sec.words[p.2.1]?).getD 0) w p.2.2.1 p.2.2.2)
  let sec : Section := { sec with words := words }
  { k with secs := vset k.secs p.1 sec }

/-- The words of the patch points as the image holds them now; none when one cannot be read. -/
def State.patchWords (s : State) (k : Copy) : Option (List ((Nat × Nat × Nat × Nat) × IWord)) :=
  k.patches.mapM fun p =>
    (s.readImage k.owner (k.image + BitVec.ofNat 56 ((vget k.secs p.1 {}).off + 4 * p.2.1)) 4).map
      fun l => (p, BitVec.ofNat 32 (bytesNat l))

/-- Reading the patch points in the image uses the pool slots that they lie in (R396). -/
def State.readPatches (s : State) (k : Copy) : State :=
  k.patches.foldl (fun s p => s.readOver k.owner (k.image + BitVec.ofNat 56 ((vget k.secs p.1 {}).off + 4 * p.2.1)) 4) s

/-- The words that the patch points of a copy name, as every stack still holds them. -/
def Copy.oldWords (k : Copy) : List ((Nat × Nat × Nat) × IWord) :=
  [0, 1, 2, 3].flatMap fun stack => (k.patches.map fun (p : Nat × Nat × Nat × Nat) => (p.1, p.2.1)).eraseDups.filterMap fun p =>
    ((vget k.secs p.1 {}).words[p.2]?).map fun w => ((stack, p.1, p.2), w)

/-- REFRESH of a RESIDENT kernel (R305), and its status. -/
def State.refresh (s : State) (k : Kernel) : State × BitVec 8 :=
  match look k.copy s.copies with
  | none => (s, 0)
  | some copy => match s.patchWords copy with
    | none => (s, 0x09)
    | some l => ({ s.readPatches copy with copies := put k.copy (l.foldl (fun c e => c.patch e.1 e.2) copy) s.copies }, 0)

/-- EVICT of a RESIDENT kernel (R306). -/
def State.evict (s : State) (id : BitVec 16) (k : Kernel) : State :=
  let copy := (look k.copy s.copies).getD {}
  let copy : Copy := { copy with evicted := true }
  let k : Kernel := { k with st := 3 }
  { s with copies := put k.copy copy s.copies, kernels := put id.toNat k s.kernels }.freeCopies

/-- A step of a REFRESH before its end: it reads the patch fields, while every stack still holds the old words, or then word `n` of those
still held changes in its stack (R305). -/
def State.refreshStep (s : State) (r : KinvReq) (rest : List KinvReq) (n : Nat) : State :=
  let k := s.kernel r.id
  match look k.copy s.copies with
  | none => s
  | some copy =>
    if kCmd r.desc ≠ 2 ∨ k.st ≠ 2 then s
    else if r.begun then { s with copies := put k.copy { copy with held := copy.held.eraseIdx n } s.copies }
    else match s.patchWords copy with
      | none => s
      | some l =>
        { s.readPatches copy with
          copies := put k.copy { l.foldl (fun c e => c.patch e.1 e.2) copy with held := copy.oldWords } s.copies
          kinvs := { r with begun := true } :: rest }

/-- The end of a REFRESH that has begun: every stack holds the new words (R302, R305). -/
def State.refreshEnd (s : State) (k : Kernel) : State × BitVec 8 :=
  match look k.copy s.copies with
  | none => (s, 0)
  | some copy => ({ s with copies := put k.copy { copy with held := [] } s.copies }, 0)

/-- LOAD of a kernel that is not RESIDENT (R303), and its status. OWNER and IMAGE, which the dispatcher's check, x2 and REFRESH use, are
those of the descriptor at this LOAD: a later KINV of a kernel that is RESIDENT changes neither.
(DESIGN CHOICE: log entry 110.) -/
def State.loadKernel (s : State) (id : BitVec 16) (k : Kernel) (d : BitVec 512) : State × BitVec 8 :=
  let verdict := s.loadChecks id (kImage d) (kOwner d)
  let size := match s.readImage (kOwner d) (kImage d) 128 with
    | some l => (Header.of l).ksize
    | none => 128
  let s := s.readOver (kOwner d) (kImage d) size
  match verdict with
  | .error e =>
    let k : Kernel := { k with st := 0 }
    ({ s with kernels := put id.toNat k s.kernels }, e)
  | .ok copy =>
    let n := s.nextId
    let k : Kernel := { k with st := 2, owner := kOwner d, copy := n }
    ({ s with copies := put n copy s.copies, nextId := n + 1, kernels := put id.toNat k s.kernels }, 0)

/-- Table 10.4 (R301), and the status. -/
def State.kinvAct (s : State) (id : BitVec 16) (d : BitVec 512) : State × BitVec 8 :=
  let k := s.kernel id
  match kCmd d with
  | 0 => (s, 0)
  | 1 => if k.st = 2 then (s, 0) else s.loadKernel id k d
  | 2 => if k.st = 2 then s.refresh k else (s, 0x08)
  | 3 => if k.st = 2 then (s.evict id k, 0) else if k.st = 0 then (s, 0x08) else (s, 0)
  | _ => (s, 0x0A)

/-- The hub writes STATE, STATUS and SEQ (R302). -/
def State.kinvWrite (s : State) (id : BitVec 16) (status : BitVec 8) : State :=
  let k := s.kernel id
  let k : Kernel := { k with status := status, seq := k.seq + 1 }
  { s with kernels := put id.toNat k s.kernels }.hubPut (s.kernelAddr id + 0x0A)
    (natBytes k.st.toNat 1 ++ natBytes status.toNat 1 ++ natBytes k.seq.toNat 4)

/-- A stalled C-stream command of a core completes.
(DEDUCED: log entry 49.) -/
def State.cmdDone (s : State) (c : Nat) : State :=
  let s := s.modCore c fun k => { k with cmd := none }
  (s.modSeq c .c Seq.next).stopAtEnd c .c

/-- KINV_COMPLETE: the hub executes the oldest accepted KINV, once the cycle of its acceptance has ended, and the C-stream of the task that
issued it goes on (R302, R307). With `about.yes` it carries out one step of a REFRESH that does not end it yet (R305). -/
def execKinvComplete (s : State) : Out :=
  .next (match s.kinvs with
    | [] => s
    | r :: t =>
      if s.cycle ≤ r.at_ then s
      else if s.about.yes then s.refreshStep r t s.about.n
      else
        let c := r.core.toNat
        let s := { s with kinvs := t }
        let a := if r.begun then s.refreshEnd (s.kernel r.id) else s.kinvAct r.id r.desc
        let s := a.1.kinvWrite r.id a.2
        if (s.core c).cmd = some .kinv ∧ r.task.isSome ∧ (s.core c).task = r.task then s.cmdDone c else s)

end Sys2Proof.Machine
end

