-- ==== Sys2Proof/Machine/Queues.lean ====
section
/-! DEFINITION. Work queues (R311 to R317), task cards and their acceptance (R318 to R321, R371), queue faults (R324), SPAWN and
KICK (R325, R326), and graph slots with their replays (R308, R327 to R329). -/

namespace Sys2Proof.Machine

/-! ### Task cards (Table 11.6) -/

/-- The fields of a card. -/
def Card.of (b : BitVec 1024) : Card :=
  { kernel := fld b 0 16, shape := fld b 16 8, prio := fld b 24 8, wkind := fld b 32 8, frame := fld b 64 64
    affinity := fld b 128 64, arg0 := fld b 192 64, arg1 := fld b 256 64, exitctr := fld b 320 64
    waddr := Vector.ofFn fun i => fld b (512 + 128 * i.val) 64
    wvalue := Vector.ofFn fun i => fld b (576 + 128 * i.val) 64 }

/-- Kind of wait condition `i`. -/
def Card.kind (k : Card) (i : Nat) : Nat := bitsNat k.wkind (2 * i + 1) (2 * i)

/-- An object address is well formed and aligned to its object (R318). -/
def objOk (v : X64) (n : Nat) : Bool :=
  objForm v && (if v.getLsbD 63 then bitsNat v 18 0 % n == 0 else bitsNat v 55 0 % n == 0)

/-- A wait condition keeps R318. -/
def Card.waitOk (k : Card) (i : Nat) : Bool :=
  let a := vget k.waddr i 0
  let v := vget k.wvalue i 0
  match k.kind i with
  | 0 => true
  | 1 => objOk a 16 && bitsNat v 63 1 == 0
  | 2 => objOk a 8
  | _ => false

/-- A card keeps R318. -/
def cardOk (b : BitVec 1024) : Bool :=
  let k := Card.of b
  bitsNat k.shape 7 4 == 0 && bitsNat k.shape 1 0 != 3 && bitsNat k.shape 3 2 != 3 && bitsNat k.prio 3 2 == 0 &&
    !k.prio.getLsbD 7 && bitsNat b 63 40 == 0 && bitsNat b 511 384 == 0 && (k.exitctr == 0 || objOk k.exitctr 8) &&
    ((List.range 4).all k.waitOk)

/-- The objects of a card's wait conditions, as (kind, key, value); none when one of them is refused (R319). -/
def State.waitKeys (s : State) (slot : Slot) (k : Card) : Option (List (Nat × Nat × X64)) :=
  ((List.range 4).filter fun i => k.kind i != 0).mapM fun i =>
    (s.objKey slot (vget k.waddr i 0) (if k.kind i = 1 then 16 else 8) false).map fun key =>
      (k.kind i, key, vget k.wvalue i 0)

/-- The code with which a card is refused, if it is (Table 11.8): BAD_FIELD, BAD_WAIT. -/
def State.cardFault (s : State) (slot : Slot) (b : BitVec 1024) : Option (BitVec 8) :=
  if !cardOk b then some 0x01 else if (s.waitKeys slot (Card.of b)).isNone then some 0x02 else none

/-- A condition is registered: a barrier's PHASE is read and its NOTIFY set in one instant, a counter is read; the notifications that
are already on their way tell of earlier instants (R371). -/
def State.register (s : State) (w : Nat × Nat × X64) : State × WaitOn :=
  let skip := s.notes.countP fun (e : Nat × X64) => e.1 == w.2.1
  if w.1 = 1 then
    let o := s.barrier w.2.1
    (s.putBarrier w.2.1 { o with note := 1 },
     { key := w.2.1, kind := 1, value := w.2.2, holds := o.phase.getLsbD 0 == w.2.2.getLsbD 0, skip := skip })
  else (s.hubRead w.2.1, { key := w.2.1, kind := 2, value := w.2.2, holds := decide (w.2.2.toNat ≤ s.get w.2.1 8), skip := skip })

/-- The conditions of a card, registered in order. -/
def State.registerAll (s : State) : List (Nat × Nat × X64) → State × List WaitOn
  | [] => (s, [])
  | w :: t =>
    let a := s.register w
    let r := a.1.registerAll t
    (r.1, a.2 :: r.2)

/-- Home stack and home column of an affinity address, if it has a home (R345).
(DEDUCED: log entry 54.) -/
def State.homeOf (s : State) (slot : Slot) (aff : X64) : Option (Nat × Option CoreId) :=
  if aff = 0 ∨ bitsNat aff 63 56 ≠ 0 then none
  else match s.walk slot (fld aff 0 56) with
    | .valid t =>
      if t.rem then none
      else match regionOf (t.pa (fld aff 0 56)) with
        | .tower _ c _ => some (stackOf c, some (BitVec.ofNat 10 c))
        | .second k => some (k, none)
        | _ => none
    | _ => none

/-- A card is accepted (R317): its conditions are registered, its home is found, and it is ready when they hold. -/
def State.acceptCard (s : State) (slot : Slot) (q : Nat) (cardNo replay : BitVec 32) (b : BitVec 1024)
    (handler : Option (Slot × Nat)) : State :=
  let k := Card.of b
  let r := s.registerAll ((s.waitKeys slot k).getD [])
  let s := r.1
  let n := s.nextTask
  let h := s.homeOf slot k.affinity
  let home := (h.map (·.1)).getD s.homeTurn.toNat
  let t : Task := { card := k, ctx := slot, queue := q, cardNo := cardNo, replay := replay, age := s.cycle, waits := r.2
                    home := home, homeCol := h.bind (·.2), handler := handler }
  { s with tasks := put n (t.settle s.cycle) s.tasks, nextTask := n + 1
           homeTurn := if h.isNone then s.homeTurn + 1 else s.homeTurn }

/-- A task that has been accepted and has not started (R313, R317). -/
def Task.unstarted (t : Task) : Bool := (t.st == .waiting || t.st == .ready) && t.saved.isNone

/-- Unstarted tasks in the hub's pool, and of one queue. -/
def State.poolCount (s : State) : Nat := (s.tasks.filter fun (e : Nat × Task) => e.2.unstarted).length
def State.queueCount (s : State) (q : Nat) : Nat :=
  (s.tasks.filter fun (e : Nat × Task) => e.2.unstarted && e.2.queue == q).length

/-- Tasks that the hub's pool holds (R317). -/
def poolSize : Nat := 65536

/-! ### Queue faults (R324) -/

/-- The record of a queue fault (R324, Table 15.7). -/
def State.queueRecord (s : State) (q : Nat) (code : BitVec 8) (fidx : BitVec 32) : State :=
  s.nocore (s.queue q).ctx (0x80 + code) 0 (fidx.setWidth 64) (BitVec.ofNat 18 q) fidx false

/-- A queue fault: a queue that runs becomes FAULTED; a HALTED or FAULTED one keeps its state (R313, R324). -/
def State.queueFault (s : State) (q : Nat) (code : BitVec 8) (fidx : BitVec 32) (rereads : Bool) : State :=
  let k := s.queue q
  match k.st with
  | .enabled | .draining =>
    (s.setQueue q { k with st := .faulted, fault := code, fidx := fidx, rereads := rereads }).queueRecord q code fidx
  | .halted | .faulted => s.queueRecord q code fidx
  | .disabled => s

/-! ### Kicks -/

/-- A tail is recorded behind the held replays (R316, R329). -/
def Queue.record (k : Queue) (t : BitVec 32) : Queue :=
  match k.replays.getLast? with
  | none => { k with tail := t }
  | some r => { k with replays := k.replays.dropLast ++ [{ r with tailAfter := some t }] }

/-- A tail kick (R315, R316, R326). -/
def State.tailKick (s : State) (q : Nat) (v : X64) : State :=
  let k := s.queue q
  let t : BitVec 32 := fld v 0 32
  if hostQueues ≤ q then s.queueFault q 0x05 0xFFFFFFFF false
  else if k.st = .disabled ∨ k.st = .draining then s
  else if bitsNat v 62 32 ≠ 0 then s.queueFault q 0x05 0xFFFFFFFF false
  else if 2 ^ 31 ≤ (t - k.lastTail).toNat then s
  else if 2 ^ k.order < (t - k.head).toNat then s.queueFault q 0x05 0xFFFFFFFF false
  else s.setQueue q (k.record t)

/-- A replay kick (R313, R328). -/
def State.replayKick (s : State) (q : Nat) (v : X64) : State :=
  let k := s.queue q
  if k.st = .disabled ∨ k.st = .draining then s
  else if (k.st = .halted ∨ k.st = .faulted) ∧ 64 ≤ k.replays.length then s.queueFault q 0x09 0xFFFFFFFF false
  else
    let r : Replay := { no := s.nextId, slot := fld v 50 13, ptab := bitsNat v 49 0 * 64 }
    { s with nextId := s.nextId + 1 }.setQueue q { k with replays := k.replays ++ [r] }

/-- A value given to a queue's KICK (R315).
(DESIGN CHOICE: log entry 137.) -/
def State.kickQueue (s : State) (q : Nat) (v : X64) : State :=
  if hostQueues + 256 ≤ q then s else if v.getLsbD 63 then s.replayKick q v else s.tailKick q v

/-- Whose turn it is in a cycle: the host port's kicks come first, then those of the cores in ascending order (R316). `rank` is 0 for the
host port, else the core's number and 1.
(DEDUCED: log entry 116.) -/
def State.kickTurn (s : State) (rank : Nat) : Bool := s.kickAt.1 != s.cycle || decide (s.kickAt.2 ≤ rank)

/-- A kick of the host port or of a core reaches the hub in this cycle (R316). -/
def State.kickFrom (s : State) (rank q : Nat) (v : X64) : State := { s with kickAt := (s.cycle, rank) }.kickQueue q v

/-- TAIL_KICK: `about.w0`, with KIND 0, is written to the KICK of queue `about.k` (R316). -/
def execTailKick (s : State) : Out :=
  .next (if s.about.w0.getLsbD 63 ∨ hostQueues ≤ s.about.k ∨ !s.kickTurn 0 then s else s.kickFrom 0 s.about.k s.about.w0)

/-- REPLAY_KICK: `about.w0`, with KIND 1, is written to the KICK of queue `about.k` (R328). -/
def execReplayKick (s : State) : Out :=
  .next (if s.about.w0.getLsbD 63 ∧ s.about.k < hostQueues ∧ s.kickTurn 0 then s.kickFrom 0 s.about.k s.about.w0 else s)

/-- A P0 context may not kick a queue that is not bound to it (R326). -/
def State.kickDenied (s : State) (q : Nat) : Bool :=
  !s.isP1 s.me &&
    (decide (hostQueues + 256 ≤ q) || (s.queue q).ctx != s.slotOf s.me ||
      (decide (q < hostQueues) && (look q s.queues).isNone))

/-- kick xa, xb (R326). One that would reach the hub in a cycle behind the kick of a higher core reaches it in a later one (R316). -/
def execKick (a b : BitVec 5) (s : State) : Out :=
  let q := bitsNat (s.x a) 17 0
  .next (s.finish
    (if !s.fenceRel 5 then .wait s .fence
     else if s.kickDenied q then .trap (s.privTrap (BitVec.ofNat 64 q))
     else if !s.kickTurn (s.me + 1) then .wait s .other
     else .ok (s.kickFrom (s.me + 1) q (s.x b))))

/-- spawn xd, xa (R325).
(DESIGN CHOICE: log entry 136.) -/
def execSpawn (d a : BitVec 5) (s : State) : Out :=
  let p : PlaceAddr := fld (s.x a) 0 32
  let slot := s.slotOf s.me
  let q := hostQueues + slot.toNat
  .next (s.finish
    (match s.place s.me p (offOf p) 128 128 with
     | .error t => .trap t
     | .ok key =>
       if !s.fenceRel 3 then .wait s .fence
       else match poisonIn s key 128 with
         | some l => .trap (poisonTrap s.me l true)
         | none =>
           let b : BitVec 1024 := BitVec.ofNat 1024 (s.get key 128)
           let s := s.hubRead key
           let k := s.queue q
           if 256 ≤ s.queueCount q then .ok (s.setX d 0x0F)
           else match s.cardFault slot b with
             | some code => .ok (s.setX d (code.setWidth 64))
             | none =>
               if poolSize ≤ s.poolCount then .wait s .other
               else
                 let s' := s.acceptCard slot q (k.head % 256) 0 b none
                 .ok ((s'.setQueue q { k with head := k.head + 1, tail := k.head + 1 }).setX d 0)))

/-! ### Acceptance of cards -/

/-- A queue accepts cards (R313, R317). -/
def Queue.accepts (k : Queue) : Bool := (k.st == .enabled || k.st == .draining) && !k.closed

/-- A context in a state from LOADED to FROZEN: its queues accept cards (R403). -/
def CState.accepts : CState → Bool
  | .loaded | .running | .saving | .saved | .frozen => true
  | _ => false

/-- A queue accepts cards, and so does its context (R313, R403). -/
def State.accepting (s : State) (k : Queue) : Bool := k.accepts && (s.ctx k.ctx).st.accepts

/-- Ring index of the next card (Table 11.1).
(DEDUCED: log entry 52.) -/
def Queue.index (k : Queue) : Nat := k.head.toNat % 2 ^ k.order

/-- The next card of a queue, read from its ring (R317); none when it cannot be read. -/
def State.ringCard (s : State) (k : Queue) : Option (BitVec 1024) :=
  (s.readImage k.ctx (k.ring + BitVec.ofNat 56 (128 * k.index)) 128).map fun l => BitVec.ofNat 1024 (bytesNat l)

/-- CARD_ACCEPT: the hub reads and accepts the next card of queue `about.k` (R317). -/
def execCardAccept (s : State) : Out :=
  let q := s.about.k
  let k := s.queue q
  let idx : BitVec 32 := BitVec.ofNat 32 k.index
  if !(decide (q < hostQueues) && s.accepting k && k.head != k.tail && decide (s.poolCount < poolSize)) then .next s
  else
    let card := s.ringCard k
    let s := s.readOver k.ctx (k.ring + BitVec.ofNat 56 (128 * k.index)) 128
    .next (match card with
    | none => s.queueFault q 0x08 idx true
    | some b => match s.cardFault k.ctx b with
      | some code => s.queueFault q code idx true
      | none => (s.acceptCard k.ctx q idx 0 b none).setQueue q { k with head := k.head + 1 } |>.settleQueue q)

/-! ### Queue commands (Table 11.2) -/

/-- The unstarted tasks of a queue are dropped (R313). -/
def State.dropUnstarted (s : State) (q : Nat) : State :=
  ((s.tasks.filter fun (e : Nat × Task) => e.2.unstarted && e.2.queue == q).map (·.1)).foldl State.dropTask s

/-- A context state from CREATED to FROZEN (R487, Table 15.3). -/
def CState.usable : CState → Bool
  | .created | .loaded | .running | .saving | .saved | .frozen => true
  | _ => false

/-- QUEUE_ENABLE: the descriptor of queue `about.k` is read and checked (R487). -/
def execQueueEnable (s : State) : Out :=
  let q := s.about.k
  let k := s.queue q
  if hostQueues ≤ q ∨ k.st ≠ .disabled then .next s
  else
    let d : BitVec 512 := BitVec.ofNat 512 (s.get (s.hub.qtbase.toNat + 64 * q) 64)
    let order := bitsNat d 71 64
    let ctx : Slot := fld d 72 8
    let ok := decide (4 ≤ order) && decide (order ≤ 16) && bitsNat d 6 0 == 0 && bitsNat d 63 56 == 0 &&
      (s.ctx ctx).st.usable
    .next (s.setQueue q (if ok then
      { k with st := .enabled, fault := 0, ring := fld d 0 56, order := order, ctx := ctx, head := 0, tail := 0
               replays := [], closed := false, rereads := false }
      else { k with fault := 0x0A }))

/-- QUEUE_DRAIN: queue `about.k` accepts no card beyond its recorded tail (R313). -/
def execQueueDrain (s : State) : Out :=
  let q := s.about.k
  let k := s.queue q
  if k.st = .enabled ∧ q < hostQueues then .next ((s.setQueue q { k with st := .draining }).settleQueue q) else .next s

/-- QUEUE_HALT: queue `about.k` accepts and starts nothing (R313). -/
def execQueueHalt (s : State) : Out :=
  let q := s.about.k
  let k := s.queue q
  if k.st = .enabled ∧ q < hostQueues then .next (s.setQueue q { k with st := .halted }) else .next s

/-- QUEUE_RESUME: a HALTED or FAULTED queue `about.k` is ENABLED; a faulting card or replay is read again (R313).
(DESIGN CHOICE: log entry 134.) -/
def execQueueResume (s : State) : Out :=
  let q := s.about.k
  let k := s.queue q
  if (k.st = .halted ∨ k.st = .faulted) ∧ q < hostQueues then
    .next (s.setQueue q { k with st := .enabled, fault := 0, closed := false, rereads := false })
  else .next s

/-- A queue past its faulting card, or past its faulting replay (R313). -/
def Queue.skip (k : Queue) : Queue :=
  if !k.rereads then k
  else if k.head ≠ k.tail then { k with head := k.head + 1 }
  else match k.replays with
    | r :: t => { k with replays := t, tail := r.tailAfter.getD k.tail }
    | [] => k

/-- QUEUE_SKIP: a FAULTED queue `about.k` is ENABLED past its faulting card or replay (R313).
(DESIGN CHOICE: log entry 134.) -/
def execQueueSkip (s : State) : Out :=
  let q := s.about.k
  let k := s.queue q
  if k.st = .faulted ∧ q < hostQueues then
    .next ((s.setQueue q { k.skip with st := .enabled, fault := 0, closed := false, rereads := false }).settleGraphs k.replays)
  else .next s

/-- QUEUE_DISABLE: the unstarted tasks of queue `about.k` are dropped; it is DISABLED when it has no task (R313). -/
def execQueueDisable (s : State) : Out :=
  let q := s.about.k
  let k := s.queue q
  if k.st = .disabled ∨ hostQueues ≤ q then .next s
  else
    let st := if k.st = .enabled then QState.draining else k.st
    .next (((s.setQueue q { k with st := st, closed := true }).dropUnstarted q).settleQueue q)

/-! ### Graph slots (R308, R327) -/

/-- The counters of a graph image with their values; none when an address does not name a counter. -/
def State.graphCtrs (s : State) (owner : Slot) (l : List Byte) (off n : Nat) : Option (List (X64 × X64 × X64)) :=
  (List.range n).mapM fun k =>
    let a : X64 := BitVec.ofNat 64 (num l (off + 16 * k) 8)
    (s.objKey owner a 8 false).map fun key =>
      (a, BitVec.ofNat 64 (num l (off + 16 * k + 8) 8), BitVec.ofNat 64 (s.get key 8))

/-- Bytes that a loaded graph takes of hub storage: its three tables (R327). -/
def Graph.bytes (x : Graph) : Nat := 128 * x.nodes.length + 16 * x.ctrs.length + 8 * x.patches.length

/-- The bytes of a graph at the limits of Table 10.7. -/
def graphMost : Nat := 128 * 4096 + 16 * 1024 + 8 * 4096

/-- Hub storage has room for a graph beside those of the other slots (R327).
(DEDUCED: log entry 51.) -/
def State.graphRoom (s : State) (g : Nat) (x : Graph) : Bool :=
  decide ((s.graphs.foldl (fun n (e : Nat × Graph) => if e.1 = g then n else n + e.2.bytes) x.bytes) ≤ Config.graphStore + graphMost)

/-- GCMD LOAD (R327): the loaded slot, or the status of its failure: 1 BAD_MAGIC, 2 BAD_LAYOUT, 4 PAGE. -/
def State.graphImage (s : State) (image : VAddr) (owner : Slot) : Except (BitVec 8) Graph :=
  match s.readImage owner image 64 with
  | none => .error 4
  | some h =>
    let nn := num h 4 4
    let nc := num h 8 4
    let np := num h 0xC 4
    let size := num h 0x1C 4
    let fits (o n : Nat) : Bool := n == 0 || decide (o + n ≤ size)
    if h.take 4 ≠ [0x47, 0x47, 0x52, 0x46] then .error 1
    else if !(decide (1 ≤ nn) && decide (nn ≤ 4096) && decide (nc ≤ 1024) && decide (np ≤ 4096) &&
        fits (num h 0x10 4) (128 * nn) && fits (num h 0x14 4) (16 * nc) && fits (num h 0x18 4) (8 * np)) then .error 2
    else match s.readImage owner image size with
      | none => .error 4
      | some l => match s.graphCtrs owner l (num h 0x14 4) nc with
        | none => .error 4
        | some cs =>
          .ok { loaded := true, owner := owner
                nodes := (List.range nn).map fun k => BitVec.ofNat 1024 (num l (num h 0x10 4 + 128 * k) 128)
                ctrs := cs
                patches := (List.range np).map fun k =>
                  let o := num h 0x18 4 + 8 * k
                  (num l o 2, num l (o + 2) 1, num l (o + 3) 1) }

/-- GRAPH_LOAD: the image that the entry of graph slot `about.k` names is checked and copied; 3 STORE_FULL when there is no room (R327).
(DEDUCED: log entry 51.) -/
def execGraphLoad (s : State) : Out :=
  let g := s.about.k
  if 8192 ≤ g then .next s
  else
    let e : BitVec 256 := BitVec.ofNat 256 (s.get (s.graphAddr g) 32)
    let verdict := s.graphImage (fld e 0 56) (fld e 64 8)
    let size := match s.readImage (fld e 64 8) (fld e 0 56) 64 with
      | some h => num h 0x1C 4
      | none => 64
    let s := (s.hubRead (s.graphAddr g)).readOver (fld e 64 8) (fld e 0 56) size
    let s := match verdict with
      | .ok x => x.ctrs.foldl (fun (s : State) (c : X64 × X64 × X64) => match s.objKey (fld e 64 8) c.1 8 false with
          | some key => s.hubRead key
          | none => s) s
      | .error _ => s
    .next (match verdict with
      | .ok x => if s.graphRoom g x then s.setGraph g x else s.setGraph g { s.graph g with status := 3 }
      | .error code => s.setGraph g { s.graph g with status := code })

/-- GRAPH_UNLOAD: graph slot `about.k` becomes EMPTY once its held replays have been accepted (R327). -/
def execGraphUnload (s : State) : Out :=
  let g := s.about.k
  if (s.graph g).loaded then .next ((s.setGraph g { s.graph g with unloading := true }).settleGraph g) else .next s

/-! ### Replays (R328) -/

/-- A patch of a replay: node, offset, width and value. -/
abbrev GPatch := Nat × Nat × Nat × Nat

/-- The patches of a table of entries. -/
def patchesOf (l : List Byte) (n : Nat) : List GPatch :=
  (List.range n).map fun k =>
    (num l (8 + 16 * k) 2, num l (8 + 16 * k + 2) 1, num l (8 + 16 * k + 3) 1, num l (8 + 16 * k + 8) 8)

/-- The patch table of a replay, or the code and the node of its failure (R328, Table 11.8).
(DESIGN CHOICE: log entry 135.) -/
def State.patchTable (s : State) (ctx : Slot) (x : Graph) (ptab : Nat) : Except (BitVec 8 × Nat) (List GPatch) :=
  if ptab = 0 then .ok []
  else match s.readImage ctx (BitVec.ofNat 56 ptab) 8 with
    | none => .error (0x08, 0)
    | some h =>
      let n := bytesNat h
      if 4096 < n then .error (0x06, 0)
      else match s.readImage ctx (BitVec.ofNat 56 ptab) (8 + 16 * n) with
        | none => .error (0x08, 0)
        | some l =>
          match (patchesOf l n).find? fun (p : GPatch) => !x.patches.contains (p.1, p.2.1, p.2.2.1) with
          | some p => .error (0x06, p.1)
          | none => .ok (patchesOf l n)

/-- Reading a patch table uses the pool slots that it lies in (R396). -/
def State.readTable (s : State) (ctx : Slot) (ptab : Nat) : State :=
  if ptab = 0 then s
  else match s.readImage ctx (BitVec.ofNat 56 ptab) 8 with
    | none => s
    | some h => s.readOver ctx (BitVec.ofNat 56 ptab) (8 + 16 * Nat.min 4096 (bytesNat h))

/-- A template with one patch written. -/
def patchCard (b : BitVec 1024) (p : GPatch) : BitVec 1024 :=
  let l := natBytes b.toNat 128
  BitVec.ofNat 1024 (bytesNat (l.take p.2.1 ++ natBytes p.2.2.2 p.2.2.1 ++ l.drop (p.2.1 + p.2.2.1)))

/-- The address that a counter reference stands for; another address is itself (R328). -/
def Graph.ref (x : Graph) (v : X64) : X64 :=
  if v.getLsbD 62 then ((x.ctrs[bitsNat v 9 0]?).map (·.1)).getD v else v

/-- A field of 64 bits of a card is replaced. -/
def putField (b : BitVec 1024) (lo : Nat) (v : X64) : BitVec 1024 :=
  (b &&& ~~~ ((BitVec.allOnes 64).setWidth 1024 <<< lo)) ||| (v.setWidth 1024 <<< lo)

/-- A counter condition with its reference resolved and its threshold made absolute (R308, R328).
(DEDUCED: log entry 53.) -/
def Graph.waitRef (x : Graph) (b : BitVec 1024) (i : Nat) : BitVec 1024 :=
  let a : X64 := fld b (512 + 128 * i) 64
  let v : X64 := fld b (576 + 128 * i) 64
  if (Card.of b).kind i = 2 ∧ a.getLsbD 62 then
    let base : X64 := ((x.ctrs[bitsNat a 9 0]?).map (·.2.2)).getD 0
    putField (putField b (512 + 128 * i) (x.ref a)) (576 + 128 * i) (base + v)
  else b

/-- The card of node `k` in a replay (R328). -/
def Graph.card (x : Graph) (ps : List GPatch) (k : Nat) : BitVec 1024 :=
  let b := (ps.filter fun (p : GPatch) => p.1 == k).foldl patchCard ((x.nodes[k]?).getD 0)
  let b := (List.range 4).foldl x.waitRef b
  putField b 320 (x.ref (fld b 320 64))

/-- The first node whose card is refused, with the code. -/
def State.badNode (s : State) (ctx : Slot) : List (BitVec 1024 × Nat) → Option (BitVec 8 × Nat)
  | [] => none
  | (b, k) :: t => match s.cardFault ctx b with
    | some code => some (code, k)
    | none => s.badNode ctx t

/-- A replay's number and a node, as a record gives them (Table 11.1). -/
def replayNo (n : BitVec 32) (node : Nat) : BitVec 32 := fld n 0 16 ++ BitVec.ofNat 16 node

/-- The cards of a replay, or the code and the node of its failure.
(DESIGN CHOICE: log entry 135.) -/
def State.replayCards (s : State) (ctx : Slot) (r : Replay) : Except (BitVec 8 × Nat) (List (BitVec 1024 × Nat)) :=
  let x := s.graph r.slot.toNat
  if !x.loaded || x.owner != ctx then .error (0x07, 0)
  else match s.patchTable ctx x r.ptab with
    | .error e => .error e
    | .ok ps =>
      let cards := (List.range x.nodes.length).map fun k => (x.card ps k, k)
      match s.badNode ctx cards with
      | some e => .error e
      | none => .ok cards

/-- A replay is accepted: REPLAYS, the cards, and the bases (R328). -/
def State.replayAll (s : State) (q : Nat) (k : Queue) (r : Replay) (cards : List (BitVec 1024 × Nat)) : State :=
  let g := r.slot.toNat
  let x := s.graph g
  let n := x.replays + 1
  let s := cards.foldl (fun s c => s.acceptCard k.ctx q (replayNo n c.2) n c.1 none) s
  let s := s.setGraph g { x with replays := n, ctrs := x.ctrs.map fun c => (c.1, c.2.1, c.2.2 + c.2.1) }
  ((s.setQueue q { k with replays := k.replays.tail, tail := r.tailAfter.getD k.tail }).settleGraph g).settleQueue q

/-- An earlier kick of the same graph slot is held, in whichever queue (R329). -/
def State.replayBehind (s : State) (r : Replay) : Bool :=
  s.queues.any fun (e : Nat × Queue) =>
    e.2.replays.any fun (x : Replay) => x.slot == r.slot && decide (x.no < r.no)

/-- REPLAY_ACCEPT: the oldest held replay of queue `about.k`, behind whose tail every card has been accepted, gets room in
the pool and is accepted, or faults its queue (R328, R329). -/
def execReplayAccept (s : State) : Out :=
  let q := s.about.k
  let k := s.queue q
  match k.replays with
  | [] => .next s
  | r :: _ =>
    let x := s.graph r.slot.toNat
    if !s.accepting k || (decide (q < hostQueues) && k.head != k.tail) || s.replayBehind r then .next s
    else
      let verdict := s.replayCards k.ctx r
      let s := s.readTable k.ctx r.ptab
      match verdict with
      | .error e => .next (s.queueFault q e.1 (replayNo (x.replays + 1) e.2) true)
      | .ok cards =>
        if poolSize < s.poolCount + cards.length then .next s else .next (s.replayAll q k r cards)

end Sys2Proof.Machine
end

