-- ==== Sys2Proof/Machine/Placing.lean ====
section
/-! DEFINITION. What a dispatcher weighs: shapes and rectangles (R335), energy rates and admission (R349), ranks (R346),
ageing and stealing (R345, R351), placement (R348) and reservations (R352). -/

namespace Sys2Proof.Machine

/-! ### Shapes and rates -/

/-- Width and height of a card's shape (R335). -/
def Card.w (k : Card) : Nat := 2 ^ bitsNat k.shape 1 0
def Card.h (k : Card) : Nat := 2 ^ bitsNat k.shape 3 2

/-- Rate per core of an energy class, in mW (Table 12.6). -/
def classRate : Nat → Nat
  | 0 => 250 | 1 => 400 | 2 => 550 | 3 => 700 | 4 => 900 | 5 => 1100 | 6 => 1350 | _ => 1600

/-- The energy rate of a task (R349). -/
def Task.rate (t : Task) : Nat := t.card.w * t.card.h * classRate (bitsNat t.card.prio 6 4)

/-- The cores of a rectangle, by ascending member index (R335). -/
def rectCores (origin w h : Nat) : List Nat :=
  (List.range h).flatMap fun my => (List.range w).map fun mx => origin + 32 * my + mx

/-- An origin at which R335 allows a shape. -/
def originOk (origin w h : Nat) : Bool := decide (origin < 1024) && origin % 32 % w == 0 && origin / 32 % h == 0

/-- Origins of a shape in a stack, in ascending core identifier. -/
def origins (k w h : Nat) : List Nat := (List.range 1024).filter fun o => stackOf o == k && originOk o w h

/-- Every column of a rectangle stands in the column mask of a context (R335). -/
def State.inMask (s : State) (slot : Slot) (origin w h : Nat) : Bool :=
  (rectCores origin w h).all fun c => (s.ctx slot).desc.colmask.getLsbD c

/-- A core that a scan drains or tests (R356). -/
def State.inScan (s : State) (c : Nat) : Bool :=
  s.scans.any fun (x : Scan) => x.draining == some (BitVec.ofNat 10 c) || x.scanning == some (BitVec.ofNat 10 c)

/-- A core is removed from dispatch (R355). -/
def State.isOut (s : State) (c : Nat) : Bool :=
  s.out.contains (BitVec.ofNat 10 c) || s.scanFailed.contains (BitVec.ofNat 10 c)

/-- A core can take a task (R335, R356). -/
def State.coreFree (s : State) (c : Nat) : Bool := (s.core c).task.isNone && !s.inScan c && !s.isOut c

/-! ### Tasks that a round considers -/

/-- A task has become aged (R351). -/
def State.isAged (s : State) (t : Task) : Bool := t.aged || decide (t.readyAt + s.hub.ageiv.toNat ≤ s.cycle)

/-- The stack to whose ready set a task belongs (R345, R348). -/
def Task.stack (t : Task) : Nat := if t.bound then stackOf t.origin.toNat else t.home

/-- A ready task may start: its context is RUNNING and no CKPT of it holds dispatch, and, unless it is a saved task, its
queue lets it start (R313, R403, R411). -/
def State.mayStart (s : State) (t : Task) : Bool :=
  let k := s.ctx t.ctx
  let q := (s.queue t.queue).st
  t.st == .ready && k.st == .running && k.ckHold.isNone && (t.saved.isSome || q == .enabled || q == .draining)

/-- Task `a` outranks task `b` (R346); tasks accepted in one instant are ordered by their numbers. -/
def outranks (a b : Nat × Task) : Bool :=
  let pa := bitsNat a.2.card.prio 1 0
  let pb := bitsNat b.2.card.prio 1 0
  if pa ≠ pb then decide (pb < pa) else if a.2.age ≠ b.2.age then decide (a.2.age < b.2.age) else decide (a.1 < b.1)

def rankIns (x : Nat × Task) : List (Nat × Task) → List (Nat × Task)
  | [] => [x]
  | y :: t => if outranks x y then x :: y :: t else y :: rankIns x t

/-- Tasks in rank order. -/
def byRank (l : List (Nat × Task)) : List (Nat × Task) := l.foldl (fun a x => rankIns x a) []

/-- The tasks of a stack's ready set that may start, by rank. -/
def State.own (s : State) (k : Nat) : List (Nat × Task) :=
  byRank (s.tasks.filter fun (e : Nat × Task) => s.mayStart e.2 && e.2.stack == k)

/-- The tasks of other stacks that a stack may take, by rank (R345, R351). -/
def State.stealable (s : State) (k : Nat) : List (Nat × Task) :=
  byRank (s.tasks.filter fun (e : Nat × Task) =>
    s.mayStart e.2 && !e.2.bound && e.2.stack != k && (e.2.homeCol.isNone || s.isAged e.2))

/-! ### Placement and admission -/

/-- The cores of a stack's reserved group, unless task `t` holds the reservation (R348). -/
def State.reservedFor (s : State) (k t : Nat) : List Nat := match vget s.reserve k none with
  | some r => if r.task = t then [] else match r.origin with
    | some o => rectCores o.toNat r.w r.h
    | none => []
  | none => []

/-- A group of task `t` fits at an origin (R335, R348). -/
def State.fits (s : State) (k t : Nat) (x : Task) (o : Nat) : Bool :=
  let no := s.reservedFor k t
  originOk o x.card.w x.card.h && stackOf o == k && s.inMask x.ctx o x.card.w x.card.h &&
    (rectCores o x.card.w x.card.h).all fun c => s.coreFree c && !no.contains c

/-- Manhattan distance of two columns, in logical coordinates (R348). -/
def manhattan (a b : Nat) : Nat := (a % 32 - b % 32) + (b % 32 - a % 32) + ((a / 32 - b / 32) + (b / 32 - a / 32))

/-- Distance of a rectangle's nearest column from a home column; 0 for a task that has none in the stack (R348). -/
def Task.distance (x : Task) (k o : Nat) : Nat := match x.homeCol with
  | some c =>
    if stackOf c.toNat = k then
      ((rectCores o x.card.w x.card.h).map (manhattan c.toNat)).foldl Nat.min 2048
    else 0
  | none => 0

/-- The first of the origins with the least distance. -/
def nearest (dist : Nat → Nat) : List Nat → Option Nat
  | [] => none
  | o :: t => match nearest dist t with
    | some p => if dist p < dist o then some p else some o
    | none => some o

/-- The origins that Place considers: the saved origin of a bound task, else every one of the stack (R348). -/
def Task.origins (x : Task) (k : Nat) : List Nat :=
  if x.bound then [x.origin.toNat] else Machine.origins k x.card.w x.card.h

/-- Place(t, k) (R348). -/
def State.place1 (s : State) (k t : Nat) (x : Task) : Option Nat :=
  nearest (x.distance k) ((x.origins k).filter (s.fits k t x))

/-- The committed rate of a stack (R349). -/
def State.committed (s : State) (k : Nat) : Nat :=
  s.tasks.foldl (fun n (e : Nat × Task) =>
    if (e.2.st = .running ∨ e.2.st = .saving) ∧ stackOf e.2.origin.toNat = k then n + e.2.rate else n) 0

/-- The rate that a stack's reservation holds for another task than `t` (R349). -/
def State.reservedRate (s : State) (k t : Nat) : Nat := match vget s.reserve k none with
  | some r => if r.task = t then 0 else ((look r.task s.tasks).map Task.rate).getD 0
  | none => 0

/-- Admit(t, k) (R349, R350). -/
def State.admits (s : State) (k t : Nat) (x : Task) : Bool :=
  decide (s.committed k + x.rate + s.reservedRate k t ≤ (vget s.hub.budget k 0).toNat)

/-! ### Reservation -/

/-- Busy cores of a rectangle (R352). -/
def State.busyCores (s : State) (o w h : Nat) : Nat :=
  ((rectCores o w h).filter fun c => (s.core c).task.isSome).length

/-- The reserved group of a reserving task: its saved origin, or the rectangle with the fewest busy cores, ties as in
placement (R352). -/
def State.reserveAt (s : State) (k : Nat) (x : Task) : Option Nat :=
  if x.bound then some x.origin.toNat
  else
    let ok (o : Nat) : Bool := s.inMask x.ctx o x.card.w x.card.h &&
      (rectCores o x.card.w x.card.h).all fun c => !s.inScan c && !s.isOut c
    nearest (fun o => 4096 * s.busyCores o x.card.w x.card.h + x.distance k o)
      ((Machine.origins k x.card.w x.card.h).filter ok)

/-- The older of two tasks. -/
def older (a b : Nat × Task) : Bool := decide (a.2.age < b.2.age) || (a.2.age == b.2.age && decide (a.1 < b.1))

/-- The oldest of a list of tasks. -/
def oldest : List (Nat × Task) → Option (Nat × Task)
  | [] => none
  | x :: t => match oldest t with
    | some y => if older y x then some y else some x
    | none => some x

/-- The end of a round: the oldest aged task of the stack's ready set takes the reservation, with its rate, and with the group that
its shape has in the stack, if it has one (R347, R352). -/
def State.takeReserve (s : State) (k : Nat) : State :=
  if (vget s.reserve k none).isSome then s
  else match oldest ((s.own k).filter fun (e : Nat × Task) => s.isAged e.2) with
    | none => s
    | some e =>
      let o := (s.reserveAt k e.2).map (BitVec.ofNat 10)
      { s with reserve := vset s.reserve k (some { task := e.1, origin := o, w := e.2.card.w, h := e.2.card.h }) }

/-! ### Yielding -/

/-- The machine as it would be with a task's cores free and its rate uncommitted (R344). -/
def State.without (s : State) (t : Nat) : State :=
  { s with cores := s.cores.map fun (e : Nat × Core) => if e.2.task = some t then (e.1, { e.2 with task := none }) else e
           tasks := drop t s.tasks }

/-- Task `e` could start in a round of stack `k`. -/
def State.couldStart (s : State) (k : Nat) (e : Nat × Task) : Bool := (s.place1 k e.1 e.2).isSome && s.admits k e.1 e.2

/-- The code with which a card faults its queue at dispatch, if it does (R306): BAD_KERNEL, KERNEL_ACCESS. -/
def State.kernelFault (s : State) (x : Task) : Option (BitVec 8) :=
  let k := s.kernel x.card.kernel
  let shared := ((look k.copy s.copies).getD {}).flags.getLsbD 4
  if k.st ≠ 2 then some 0x03
  else if k.owner ≠ x.ctx ∧ (s.ctx x.ctx).desc.priv ≠ 1 ∧ !shared then some 0x04 else none

/-- The machine as a round leaves it that has started a task at an origin, as far as later placements see it. -/
def State.pretend (s : State) (t o : Nat) (x : Task) : State :=
  { (rectCores o x.card.w x.card.h).foldl (fun s c => s.modCore c fun k => { k with task := some t }) s with
    tasks := put t { x with st := .running, origin := BitVec.ofNat 10 o, saved := none } s.tasks
    reserve := s.reserve.map fun r => r.filter fun r => r.task != t }

/-- A round over tasks in their order, of which it starts at most so many: it passes one over that could start without task `t`
(R344, R347). -/
def State.roundNeeds (s : State) (k t : Nat) : Nat → List (Nat × Task) → Bool
  | _, [] => false
  | 0, _ => false
  | n + 1, e :: rest =>
    match (if s.admits k e.1 e.2 then s.place1 k e.1 e.2 else none) with
    | some o =>
      if e.2.saved.isNone && (s.kernelFault e.2).isSome then s.roundNeeds k t (n + 1) rest
      else (s.pretend e.1 o e.2).roundNeeds k t n rest
    | none => (s.without t).couldStart k e || s.roundNeeds k t (n + 1) rest

/-- Some task needs the cores or the energy of a task's group: a round of its stack would pass it over (R344). -/
def State.needed (s : State) (t : Nat) : Bool := match look t s.tasks with
  | none => false
  | some x =>
    let k := stackOf x.origin.toNat
    s.roundNeeds k t 4 (s.own k ++ s.stealable k)

end Sys2Proof.Machine
end

