-- ==== Sys2Proof/Machine/Saving.lean ====
section
/-! DEFINITION. Saving a task at a safe point (R408), the state that a save holds (R296, R297), its record (Table 15.8),
cancelled copies (R146), remote operations that a save records (R440), and the restored start of a member (R410). -/

namespace Sys2Proof.Machine

/-! ### The live masks of a safe-point entry (Table 10.2) -/

/-- The numbers below `n` whose bits are set in a field of an entry that starts at byte `o`. -/
def SafeEntry.live (e : SafeEntry) (o n : Nat) : List Nat := (List.range n).filter fun i => e.getLsbD (8 * o + i)

/-- The L0 extents of an entry, as (offset, bytes) (Table 10.2). -/
def SafeEntry.extents (e : SafeEntry) : List (Nat × Nat) :=
  (List.range 4).filterMap fun i =>
    let base := blk e (0x30 + 8 * i) 4
    let limit := Nat.min 0x80000 (blk e (0x34 + 8 * i) 4)
    if base < limit then some (base, limit - base) else none

/-- The safe-point entry of a copy. -/
def Copy.entry (k : Copy) (n : Nat) : SafeEntry := (k.safe[n]?).getD 0

/-! ### What a save holds -/

/-- A steer register as a save holds it: without its lines (Table 6.5). -/
def Steer.kept (j : Steer) : Steer := { j with buf := {} }

/-- A member as a save at an entry holds it (R296, R297). -/
def State.keepMember (s : State) (c : Nat) (e : SafeEntry) : SavedMember :=
  let k := s.core c
  let ext := e.extents
  { pcs := k.seqs.map fun (q : Seq) => q.pc
    x := (e.live 0x10 32).map fun i => (i, vget k.x i 0)
    h := (e.live 0x14 32).map fun i => (i, if (vget k.h i {}).st = .none then none else some (vget k.h i {}).va)
    aL := (e.live 0x1C 16).map fun i => (i, vget k.aL i 0)
    aS := (e.live 0x1E 16).map fun i => (i, vget k.aS i 0)
    rows := (e.live 0x20 64).map fun i => (i, vget k.rows i 0)
    preds := (e.live 0x28 8).map fun i => (i, vget k.preds i 0)
    toks := (e.live 0x18 16).map fun i => (i, (vget k.toks i []).map fun v => if i < 4 then v else 0)
    js := k.seqs.map fun (q : Seq) => q.j.map Steer.kept
    lps := k.seqs.map fun (q : Seq) => q.lp
    scales := k.scales, marks := k.marks, vt := k.vt, vrot := k.vrot, prot := k.prot, vstat := k.vstat
    fmtA := k.fmtA, fmtB := k.fmtB, shst := k.shst, bscv := k.bscv
    act := (k.wAct.fmt, k.wAct.desc), sh := (k.wSh.fmt, k.wSh.desc), sb := k.sb
    l0 := ext.map fun p => (p.1, s.bytesAt (keyL0 c p.1) p.2)
    l0bad := ext.flatMap fun p => ((linesOf (keyL0 c p.1) p.2).filter s.poison.contains).map (· - keyL0 c 0 / 64)
    ended := k.ended || k.allStopped
    stopped := k.seqs.map fun (q : Seq) => q.stopped
    cReads := k.cReads, cStores := k.cStores, rels := k.rels }

/-- Bytes of a record for each member: 8 KiB of fixed state, 28 KiB of rows and 512 KiB of L0 (R409).
(DESIGN CHOICE: log entry 62.) -/
def recordBytes : Nat := 0x89000

/-- The record header (Table 15.8).
(DESIGN CHOICE: log entry 64.) -/
def Task.header (t : Task) (safe : Nat) : List Byte :=
  [0x47, 0x53, 0x41, 0x56] ++ natBytes (recordBytes * (t.card.w * t.card.h)) 4 ++ natBytes t.card.kernel.toNat 2 ++
    natBytes t.card.shape.toNat 1 ++ natBytes t.card.prio.toNat 1 ++ natBytes t.origin.toNat 2 ++ natBytes safe 2 ++
    natBytes t.gsc.toNat 8 ++ natBytes t.age 8 ++ natBytes 0 32

/-- A record at a physical address: its header, and bytes that are the implementation's own (R409). -/
def State.writeRecord (s : State) (pa : Nat) (t : Task) (safe : Nat) : State :=
  let r := s.freeBytes (recordBytes * (t.card.w * t.card.h) - 64)
  r.2.write pa (t.header safe ++ r.1)

/-- The place of the record of a saved task. -/
def Task.recRange (x : Task) : Option (Nat × Nat) :=
  x.saved.bind fun v => v.recPa.map fun a => (a, recordBytes * (x.card.w * x.card.h))

/-- A place for a record of `n` bytes in the save area of a context, the lowest that no saved task of it holds; the records of a CTXSAVE
lie contiguously from SAVEBASE, over those of earlier saves (R409); none when the area has no room.
(DESIGN CHOICE: log entry 63.) -/
def State.recordPlace (s : State) (slot : Slot) (n : Nat) (ctxsave : Bool) : Option Nat :=
  let d := (s.ctx slot).desc
  let held := s.tasks.filterMap fun (e : Nat × Task) =>
    if e.2.ctx = slot ∧ (e.2.st = .saved ∨ !ctxsave) then e.2.recRange else none
  ((List.range 1025).map fun i => d.savebase.toNat + i * recordBytes).find? fun a =>
    decide (a + n ≤ d.savebase.toNat + d.savesize.toNat) && held.all fun p => !rangesMeet a n p.1 p.2

/-! ### Cancelled copies (R146) -/

/-- The destination ranges of a copy. -/
def Item.copyDst (i : Item) : List (Loc × Nat) :=
  let b := i.block
  if i.fn = 1 then [(i.loc (cDmem b) (cDst b), cLen b * cPitch b)] else i.copyXfer.dst

/-- The source ranges of a copy, as far as its records name places. -/
def State.copySrc (s : State) (i : Item) : Option (List (Loc × Nat)) :=
  if i.fn = 1 then (s.indexXfer i).map fun x => x.src.drop 1 else some i.copyXfer.src

/-- The parts of ranges in memory; none when a part lies elsewhere, or its page is not there. -/
def State.partsOf (s : State) (i : Item) (kind : Nat) (l : List (Loc × Nat)) : Option (List (Nat × Nat)) :=
  match s.resolve i kind l [] with
  | .ok ps _ => ps.mapM fun p => match p with
    | .mem k n _ => some (k, n)
    | .rem .. => none
  | _ => none

/-- A range of keys lies in the own column of a core. -/
def inColumn (core : CoreId) (p : Nat × Nat) : Bool := match placeOfKey p.1, placeOfKey (p.1 + p.2 - 1) with
  | some (_, a, _), some (_, b, _) => a == core.toNat && b == core.toNat
  | _, _ => false

/-- A range of keys lies in the allotment of a context at one level of a column, and in no page of the shared pool (R146). -/
def State.isPrivate (s : State) (slot : Slot) (p : Nat × Nat) : Bool :=
  (match placeOfKey p.1 with
   | some (lv, _, o) =>
     let e := vget (s.ctx slot).desc.ext lv 0
     decide (bitsNat e 31 0 ≤ o) && decide (o + p.2 ≤ bitsNat e 63 32)
   | none => false) &&
  (List.range s.hub.plcount.toNat).all fun n => !rangesMeet p.1 p.2 (s.slotPage n) 0x10000

/-- A copy that a pre-emption cancels: it is not at its end, it runs from its core's own column to that column, by place or by page, and
its destination is private (R146).
(DEDUCED: log entry 48.) -/
def State.cancels (s : State) (i : Item) : Bool :=
  decide (i.fn ≤ 2) && (i.inQueue || i.st == .running) &&
    (((s.copySrc i).bind (s.partsOf i 0)).any fun l => l.all (inColumn i.core)) &&
    ((s.partsOf i 1 i.copyDst).any fun l => l.all fun p => inColumn i.core p && s.isPrivate i.ctx p)

/-- A copy as its command was accepted. -/
def Item.again (i : Item) : Item :=
  { i with st := .accepted, waited := 0, pages := [], phase := 0, got := [], todo := [], took := [], wrote := []
           moved := none }

/-- The indeterminate ranges of a cancelled copy. -/
def State.blurOf (s : State) (i : Item) : List (Nat × Nat × Nat) :=
  ((s.partsOf i 1 i.copyDst).getD []).map fun p => (i.id, p.1, p.2)

/-- The pre-emption of a task cancels copies: they are kept for their replay, until whose end their destinations are indeterminate. -/
def State.cancelCopies (s : State) (t : Nat) : State × List Item :=
  let mine := s.items.filter fun (i : Item) => i.task == t && s.cancels i
  ({ s with items := s.items.filter fun (i : Item) => !(mine.any fun (x : Item) => x.id == i.id)
            blurred := s.blurred ++ mine.flatMap s.blurOf },
   mine.map Item.again)

/-! ### The rendezvous -/

/-- The streams of a member stand at safe point `n`, or have stopped, or are absent (R408).
(DEDUCED: log entry 61.) -/
def Core.standsAt (k : Core) (n : Nat) : Bool :=
  k.ended || k.seqs.all fun (q : Seq) => !q.present || q.stopped || q.atSafe == some n

/-- The streams of a task go on from the rendezvous.
(DEDUCED: log entry 97.) -/
def State.release (s : State) (t : Nat) : State :=
  let s := (s.coresOf t).foldl (fun s c => s.modCore c fun k =>
    { k with seqs := k.seqs.map fun (q : Seq) => { q with atSafe := none, released := q.atSafe.isSome } }) s
  s.modTask t fun x => { x with rendezvous := none }

/-- Everything that a member has issued is over (R144): also its MSWAP, a command in progress (R302), and what was to be delivered to it. -/
def State.drainedMember (s : State) (c : Nat) : Bool :=
  s.spent c && (s.core c).swpend.isNone && (s.core c).cmd.isNone && !(s.deliveries.any fun (d : Delivery) => d.core.toNat == c)

/-- A remote operation of a core's C-stream that has been sent. -/
def Read.sentRem (r : Read) : Bool := r.remote && r.value.isNone
def Store.sentRem (e : Store) : Bool := e.remote && e.sent

/-- Everything of a member is over but remote operations that have been sent and not answered; its engine items have made their
completion actions (R144, R440). -/
def State.drainedBut (s : State) (c : Nat) : Bool :=
  let k := s.core c
  k.cReads.all Read.sentRem && k.cStores.all Store.sentRem && k.lReads.isEmpty && k.sStores.isEmpty && k.aPend.isEmpty &&
    k.mmas.isEmpty && k.mwls.isEmpty && k.lfences.isEmpty && k.div.isNone && k.swpend.isNone && k.cmd.isNone &&
    !(s.deliveries.any fun (d : Delivery) => d.core.toNat == c) &&
    !(s.items.any fun (i : Item) => i.core.toNat == c) &&
    (s.gangOuts.filter fun (g : GangOut) => g.core.toNat == c).all fun (g : GangOut) => g.unsent.isEmpty

/-- A remote operation was issued by a core of a task: its C-stream, an item or a gang of it.
(DEDUCED: log entry 69.) -/
def State.outsOf (s : State) (t : Nat) (o : Outs) : Bool :=
  o.who != .gone && o.saved.isNone && o.hold.isNone && (s.coresOf t).contains o.core.toNat

/-- The sessions of a context with every outstanding operation changed. -/
def State.mapOuts (s : State) (slot : Slot) (f : Outs → Outs) : State :=
  s.modCtx slot fun k => { k with sessions := k.sessions.map fun (e : Nat × Session) =>
    (e.1, { e.2 with outs := e.2.outs.map f }) }

/-- The save of a task at safe point `n` (R296): its members' state; `items` are those it holds. -/
def State.keepTask (s : State) (t n : Nat) (x : Task) (items : List Item) : Saved :=
  let e := (s.copyOf x.origin.toNat).entry n
  { safe := n, origin := x.origin, copies := items
    members := (rectCores x.origin.toNat x.card.w x.card.h).map fun c =>
      if (s.core c).task = some t then s.keepMember c e else { ended := true } }

/-- The records of a context's saved tasks that a new one covers are held by the hub alone (R409). -/
def State.coverRecords (s : State) (slot : Slot) (pa n : Nat) : State :=
  { s with tasks := s.tasks.map fun (e : Nat × Task) =>
      if e.2.ctx = slot ∧ e.2.recRange.any (fun r => rangesMeet pa n r.1 r.2) then
        (e.1, { e.2 with saved := e.2.saved.map fun v => { v with recPa := none } })
      else e }

/-- A drained task is saved: its record is written, its cores return to dispatch, and it waits for CTXREST, or is ready again
at its origin (R408, R409, R344, R356). -/
def State.saveTask (s : State) (t n : Nat) (x : Task) : State :=
  let cancelled := (x.saved.map (·.copies)).getD []
  let items := s.items.filter fun (i : Item) => i.task == t
  let kept := s.keepTask t n x (cancelled ++ items)
  let size := recordBytes * (x.card.w * x.card.h)
  let wait := x.saves.contains .ctxsave
  let pa := (s.modTask t fun x => { x with saved := none }).recordPlace x.ctx size wait
  let s := match pa with
    | some a => (s.coverRecords x.ctx a size).writeRecord a x n
    | none => s
  let s := s.mapOuts x.ctx fun o => if s.outsOf t o then { o with saved := some t } else o
  let s := { s with items := s.items.filter fun (i : Item) => i.task != t }
  let s := s.freeCores t
  let s := s.modTask t fun x =>
    { x with st := if wait then .saved else .ready, saved := some { kept with recPa := pa }, bound := true
             rendezvous := none, saves := [], aged := false, readyAt := s.cycle, wire := false, frozen := [] }
  s.settleSave x.ctx

/-! ### The start of a saved task (R410) -/

/-- A list of (number, value) pairs over a function. -/
def pick {α : Type} (l : List (Nat × α)) (i : Nat) (d : α) : α := (look i l).getD d

/-- `n` free values of width `w`, by their number. -/
def freeAt (f w i : Nat) : BitVec w := BitVec.ofNat w (Config.freeNat f >>> (w * i))

/-- A steer register after a restore (Table 6.5). -/
def Steer.restored (j : Steer) : Steer := if j.st = .empty then j.kept else { j.kept with st := .stale }

/-- Every byte from `lo` to `hi` lies in one of the extents of a list; `fuel` is their number. -/
def covered (l : List (Nat × List Byte)) (hi : Nat) : Nat → Nat → Bool
  | 0, lo => decide (hi ≤ lo)
  | fuel + 1, lo =>
    decide (hi ≤ lo) || covered l hi fuel (l.foldl (fun m p => if p.1 ≤ lo then Nat.max m (p.1 + p.2.length) else m) lo)

/-- A tile is reloaded from its descriptor out of L0 as it stands; when its source bytes lie outside the saved extents it is
indeterminate (R274).
(DEDUCED: log entry 65.) -/
def State.reload (s : State) (c : Nat) (w : BitVec 5 × Option X64) (m : SavedMember) (f : Nat) : Weights :=
  match w.2 with
  | none => { fmt := w.1 }
  | some d =>
    let n := tileBytes (elemFmt w.1.toNat)
    { fmt := w.1, desc := some d
      tiles := Vector.ofFn fun t =>
        if covered m.l0 (dTile d t.val + n) m.l0.length (dTile d t.val) then BitVec.ofNat 139264 (s.get (keyL0 c (dTile d t.val)) n)
        else freeAt f 139264 t.val }

/-- A 4 KiB piece of a column's L0 lies in the extent of another context, which a restore leaves alone. -/
def State.foreignL0 (s : State) (c : Nat) (slot : Slot) (piece : Nat) : Bool :=
  s.ctxs.any fun (k : Nat × Ctx) => k.1 != slot.toNat && k.2.st != .destroyed && k.2.desc.colmask.getLsbD c &&
    let e := vget k.2.desc.ext 0 0
    decide (bitsNat e 31 0 ≤ 4096 * piece) && decide (4096 * piece < bitsNat e 63 32)

/-- The L0 of a restored member: its saved bytes, and indeterminate bytes elsewhere (R297), or, after a rollback, the bytes that are there
(R416).
(DEDUCED: log entry 66.) -/
def State.restoreL0 (s : State) (c : Nat) (slot : Slot) (keep : Bool) (m : SavedMember) : State :=
  let s := if keep then s else (List.range 128).foldl (fun (s : State) i =>
    if s.foreignL0 c slot i then s
    else
      let r := s.freeBytes 4096
      r.2.write (keyL0 c (4096 * i)) r.1) s
  let s := m.l0.foldl (fun s p => s.write (keyL0 c p.1) p.2) s
  m.l0bad.foldl (fun s l => s.poisonLine (keyL0 c 0 / 64 + l)) s

/-- The unpaired MARKs of the two sides, from the counts (R134). -/
def marksOf (v : Vector Int 16) (side : Bool) : Nat → List Nat
  | i => List.replicate (if side then (vget v i 0).toNat else (-(vget v i 0)).toNat) (if side then 0 else i)

/-- The streams of a restored member, by the sections of its kernel. -/
def SavedMember.seqs (m : SavedMember) (copy : Copy) : Vector Seq 4 :=
  Vector.ofFn fun i =>
    { present := (vget copy.secs i.val {}).words != [], pc := vget m.pcs i.val 0
      lp := vget m.lps i.val (Vector.replicate 4 none)
      j := (vget m.js i.val (Vector.replicate 12 {})).map Steer.restored
      stopped := vget m.stopped i.val false || m.ended }

/-- A member of a saved task as it starts on core `c` (R410, R297, R274); `k` holds what formation writes. -/
def State.restoreMember (s : State) (c : Nat) (copy : Copy) (slot : Slot) (keep : Bool) (m : SavedMember) (k : Core) : State :=
  let s := s.restoreL0 c slot keep m
  let f := s.fresh
  let s := { s with fresh := f + 8 }
  let handle (i : Nat) : Handle := match look i m.h with
    | some (some va) => { st := .stale, va := va }
    | some none => {}
    | none => if (freeAt (f + 7) 57 i : BitVec 57).msb then { st := .stale, va := freeAt (f + 7) 57 i |>.setWidth 56 } else {}
  let k := { k with
    ended := m.ended, seqs := m.seqs copy
    x := Vector.ofFn fun i => pick m.x i.val (freeAt f 64 i.val)
    h := Vector.ofFn fun i => handle i.val
    aL := Vector.ofFn fun i => pick m.aL i.val (freeAt (f + 1) 32 i.val)
    aS := Vector.ofFn fun i => pick m.aS i.val (freeAt (f + 2) 32 i.val)
    rows := Vector.ofFn fun i => pick m.rows i.val (freeAt (f + 3) 3584 i.val)
    preds := Vector.ofFn fun i => if i.val = 0 then BitVec.allOnes 448 else pick m.preds i.val (freeAt (f + 4) 448 i.val)
    toks := Vector.ofFn fun i => pick m.toks i.val []
    scales := m.scales, marks := m.marks
    markS := Vector.ofFn fun i => marksOf m.marks true i.val
    markOpen := (List.range 16).flatMap (marksOf m.marks false)
    vt := m.vt, vrot := m.vrot, prot := m.prot, vstat := m.vstat, fmtA := m.fmtA, fmtB := m.fmtB, shst := m.shst
    bscv := m.bscv, wAct := s.reload c m.act m (f + 5), wSh := s.reload c m.sh m (f + 6), sb := m.sb
    cReads := m.cReads, cStores := m.cStores, rels := m.rels
    accNo := Nat.max ((m.rels.map (·.2)).foldl Nat.max 0) <| (m.cReads.map fun (r : Read) => r.no + 1).foldl Nat.max
      ((m.cStores.map fun (e : Store) => e.no + 1).foldl Nat.max 0) }
  s.setCore c k

/-- A core of a group at origin `a`, in a group of the same shape at origin `b`. -/
def moved (a b c : CoreId) : CoreId :=
  BitVec.ofNat 10 (32 * (b.toNat / 32 + (c.toNat / 32 - a.toNat / 32)) + b.toNat % 32 + (c.toNat % 32 - a.toNat % 32))

/-- What a recorded operation waits for, when its member starts on another core. -/
def RemWho.moved (a b : CoreId) : RemWho → RemWho
  | .read c n => .read (Machine.moved a b c) n
  | .store c n => .store (Machine.moved a b c) n
  | w => w

/-- The packets of recorded operations, as they are sent again; a LOST session sends nothing more (R433, R441). -/
def State.packetsOf (s : State) (slot : Slot) (mine : Outs → Bool) : List Packet :=
  ((s.ctx slot).sessions.filter fun (e : Nat × Session) => e.2.st != .lost).flatMap fun (e : Nat × Session) =>
    (e.2.outs.filter mine).map fun (o : Outs) =>
      let req := { o.req with w := e.2.w }
      Packet.request (BitVec.ofNat 12 e.1) req req.digest

/-- Recorded operations are sent again, from try 1 (R441). -/
def State.sendAgain (s : State) (slot : Slot) (mine : Outs → Bool) : State :=
  let s := { s with net := s.net ++ s.packetsOf slot mine }
  s.mapOuts slot fun o =>
    if mine o then { o with saved := none, hold := o.saved.or o.hold, tries := 1, sentAt := s.net2, rto := s.rto, busyAt := none }
    else o

/-- A context that is restored sends every recorded operation again, before any stream issues (R441). -/
def State.resendAll (s : State) (slot : Slot) : State := s.sendAgain slot fun o => o.saved.isSome

/-- The operations of a task that starts again belong to its cores; those of a save without a restore are sent again now (R441). -/
def State.resend (s : State) (slot : Slot) (t : Nat) (a b : CoreId) : State :=
  let s := s.sendAgain slot fun o => o.saved == some t
  let s := { s with gangOuts := s.gangOuts.map fun (g : GangOut) =>
    if (s.ctx slot).sessions.any fun (e : Nat × Session) => e.2.outs.any fun (o : Outs) =>
        o.hold == some t && (match o.who with | .gang id _ => id == g.id | _ => false) then { g with core := moved a b g.core }
    else g }
  s.mapOuts slot fun o =>
    if o.hold = some t then { o with hold := none, who := o.who.moved a b, core := moved a b o.core } else o

/-- The value that a load of `size` bytes writes (R200). -/
def loadValue (v size : Nat) (sext : Bool) : X64 :=
  if sext then BitVec.ofInt 64 (intOf true (8 * size) (v % 2 ^ (8 * size))) else BitVec.ofNat 64 (v % 2 ^ (8 * size))

/-- The data of a read of the C-stream arrive: its registers are written (R200, R202), or a poisoned line stops the stream
(R232). -/
def State.returnC (s : State) (c : Nat) (r : Read) : State :=
  match r.poison with
  | some a => s.failRead c .c r (poisonTrap c (a.toNat / 64) r.place)
  | none =>
    let v := r.value.getD 0
    s.modCore c fun k =>
      let k := { k with cReads := k.cReads.filter fun (x : Read) => x.no != r.no }
      match r.dst with
      | .x d size sext => k.setX d (loadValue v size sext)
      | .xPair d => (k.setX d (BitVec.ofNat 64 v)).setX (d + 1) (BitVec.ofNat 64 (v / 2 ^ 64))
      | _ => k

/-- The trap of a remote operation whose answer is DENIED or POISON (R434).
(DEDUCED: log entry 83.) -/
def answerTrap (a : Answer) (va : X64) : Trap :=
  if a = .poison then { cause := cPOISON, addr := va, poison := some 5 } else { cause := cPAGE_PERM, addr := va }

/-- An answer reaches the read, the store or the item that waits for it (R432, R434). -/
def State.reach (s : State) (slot : Slot) (o : Outs) (a : Answer) (data : BitVec 512) : State :=
  let good := match a with | .ok _ => true | _ => false
  match o.who with
  | .read core no =>
    let c := core.toNat
    match (s.core c).read no with
    | none => s
    | some r =>
      if !good then s.failRead c .c r (answerTrap a o.va)
      else
        let old : Nat := match a with | .ok v => v.toNat | _ => 0
        s.returnC c { r with value := some (if o.isLoad then bytesNat (r.withFwd (natBytes data.toNat r.size)) else old) }
  | .store core no =>
    let c := core.toNat
    let task := s.taskOf c
    let s := s.modCore c fun k => { k with cStores := k.cStores.filter fun (e : Store) => e.no != no }
    if good then s
    else
      let t := answerTrap a o.va
      (s.poisonErr t.poison c slot o.va).async slot t c o.pc .c task
  | .item id part =>
    if !good then s.itemFailId id cENGINE_FAULT
    else if o.isLoad then s.modItem id fun i => { i with got := i.got ++ [(part, data)] }
    else s
  | _ => s

/-- What the recorded operations of a task have come to reaches it as it starts again (R434, R441). -/
def State.takeMail (s : State) (slot : Slot) (t : Nat) (a b : CoreId) : State :=
  let mine := (s.ctx slot).mail.filter fun e => e.1 == t
  let s := s.modCtx slot fun k => { k with mail := k.mail.filter fun e => e.1 != t }
  mine.foldl (fun s e => match e.2 with
    | .answer o r data => s.reach slot { o with who := o.who.moved a b, core := moved a b o.core } r data
    | .failed o cause detail => s.failOuts { o with who := o.who.moved a b, core := moved a b o.core } cause detail) s

/-- The recorded stores of a core whose session has settled or is gone count as complete (R433). -/
def State.dropLost (s : State) (slot : Slot) (c : Nat) : State :=
  let live (e : Store) : Bool :=
    let x := s.session slot e.node
    !(x.st == .lost && decide (x.settle ≤ s.net2)) && x.outs.any fun (o : Outs) => o.who == .store (BitVec.ofNat 10 c) e.no
  s.modCore c fun k => { k with cStores := k.cStores.filter fun (e : Store) => !e.sentRem || live e }

/-! ### Events -/

/-- Every member of a task stands at its rendezvous. -/
def State.allStand (s : State) (t n : Nat) : Bool := (s.coresOf t).all fun c => (s.core c).standsAt n

/-- The bytes of a checkpoint record's issuer (Table 15.8), and its place (R411). -/
def Ctx.ckptAt (k : Ctx) (n : Nat) : Nat := k.desc.ckbase.toNat + (n % 2) * (k.desc.cksize.toNat / 2)

/-- Closed intervals become vouched (R412): their log entries are freed, their checkpoint records discarded, and their
serials retire. `fuel` bounds the number of intervals. -/
def State.vouch (s : State) (slot : Slot) : Nat → State
  | 0 => s
  | fuel + 1 =>
    let k := s.ctx slot
    let n := k.vouched + 1
    let passed (u : Nat × CoreId × Nat) : Bool := u.1 != n || (look u.2.1.toNat s.scanned).any fun b => decide (u.2.2 < b)
    if n < k.openIv ∧ k.used.all passed then
      let gone := (k.log.filter fun (e : LogEntry) => e.interval == n).length
      let s := s.modCtx slot fun k =>
        { k with vouched := n, log := k.log.filter fun (e : LogEntry) => e.interval != n
                 logUsed := k.logUsed - 128 * gone, ckpts := drop n k.ckpts, logWait := k.logWait && k.st == .frozen
                 used := k.used.filter fun u => u.1 != n
                 sessions := k.sessions.map fun (e : Nat × Session) => (e.1, e.2.retire n) }
      (s.backCtx slot).vouch slot fuel
    else s

/-- Bytes of a checkpoint record: the issuer's save record, 32 for each queue bound to the context and 128 for each unstarted card of it,
8 for each graph slot that it owns and for each of its bases, 16 for each session and 4 for each withheld serial of it (R411).
(DESIGN CHOICE: log entry 62.) -/
def State.ckptBytes (s : State) (t : Nat) (x : Task) : Nat :=
  let queues := s.queues.filter fun (e : Nat × Queue) => e.2.ctx == x.ctx
  let tasks := s.tasks.filter fun (e : Nat × Task) => e.2.ctx == x.ctx && e.1 != t
  let graphs := s.graphs.filter fun (e : Nat × Graph) => e.2.loaded && e.2.owner == x.ctx
  let sessions := (s.ctx x.ctx).sessions
  recordBytes * (x.card.w * x.card.h) + 32 * queues.length + 128 * tasks.length +
    graphs.foldl (fun n (e : Nat × Graph) => n + 8 + 8 * e.2.ctrs.length) 0 +
    sessions.foldl (fun n (e : Nat × Session) => n + 16 + 4 * e.2.withheld.length) 0

/-- A checkpoint record at a physical address: the header of the issuer's save record, and bytes that are the implementation's own (R409,
R411). -/
def State.writeCkptAt (s : State) (pa : Nat) (t : Nat) (x : Task) (safe : Nat) : State :=
  let r := s.freeBytes (s.ckptBytes t x - 64)
  r.2.write pa (x.header safe ++ r.1)

/-- The checkpoint record is written, and the next interval opens (R411). -/
def State.writeCkpt (s : State) (t n : Nat) (x : Task) : State :=
  let k := s.ctx x.ctx
  let iv := k.openIv + 1
  let rec0 : Ckpt :=
    { issuer := t, saved := s.keepTask t n x [], task := { x with saves := [], rendezvous := none, saved := none }
      queues := s.queues.filter fun (e : Nat × Queue) => e.2.ctx == x.ctx
      tasks := s.tasks.filter fun (e : Nat × Task) => e.2.ctx == x.ctx && e.1 != t
      graphs := s.graphs.filter fun (e : Nat × Graph) => e.2.owner == x.ctx
      sessions := k.sessions }
  let s := (s.useCores t).writeCkptAt (k.ckptAt iv) t x n
  let s := s.modCtx x.ctx fun k => { k with openIv := iv, ckpts := put iv rec0 k.ckpts, ckHold := none }
  let s := (s.backCtx x.ctx).vouch x.ctx iv
  s.modTask t fun x => { x with saves := x.saves.filter fun f => match f with | .ckpt _ => false | _ => true }

/-- A task asks for a checkpoint. -/
def Task.wantsCkpt (x : Task) : Bool := x.saves.any fun f => match f with | .ckpt _ => true | _ => false

/-- A request that ends the task's run: CTXSAVE, a scan, or a YIELD that the check has granted. -/
def Task.mustSave (x : Task) : Bool := x.saves.any fun f => match f with | .ctxsave | .scan _ | .yielded => true | _ => false

/-- The check of YIELD at a rendezvous: a mark that nothing needs clears (R344). -/
def State.checkYield (s : State) (t : Nat) (x : Task) : Task :=
  if x.saves.contains .yield then
    { x with saves := x.saves.filter (· != .yield) ++ (if s.needed t then [.yielded] else []) }
  else x

/-- A task at its rendezvous at safe point `n` begins its save, when one is asked for, or goes on (R344, R356, R408). -/
def State.leaveMeet (s : State) (t n : Nat) (x : Task) : State :=
  if x.mustSave then
    let r := s.cancelCopies t
    r.1.modTask t fun x => { x with st := .saving, drainAt := s.net2, saved := some { safe := n, copies := r.2 } }
  else s.release t

/-- The rendezvous of a running task is complete: the check of YIELD is made, a checkpoint waits for its drain, and then a save that is
asked for begins (R344, R356, R408, R411). -/
def State.meet (s : State) (t n : Nat) (x : Task) : State :=
  let y := s.checkYield t x
  let s := s.modTask t fun _ => y
  if y.wantsCkpt then
    if (s.coresOf t).all s.drainedMember then (s.writeCkpt t n y).leaveMeet t n y else s
  else s.leaveMeet t n y

/-- SAFE_POINT_RENDEZVOUS: task `about.k`, all of whose streams stand at the safe point of its rendezvous, begins its save;
or, when its save has begun and everything it issued is over, is saved (R408, R144). -/
def execSafePointRendezvous (s : State) : Out :=
  let t := s.about.k
  match look t s.tasks with
  | none => .next s
  | some x => match x.rendezvous with
    | none => .next s
    | some (n, _) =>
      if x.wire ∨ !s.allStand t n then .next s
      else if x.st = .running then .next (s.meet t n x)
      else if x.st = .saving ∧ (s.coresOf t).all s.drainedMember then .next (s.saveTask t n x)
      else .next s

/-- DRAINLIM µs have passed since the drain of a task's save began, and only remote operations that are sent and not answered are left
of it (R440). -/
def State.drainOver (s : State) (t : Nat) (x : Task) : Bool :=
  x.rendezvous.isSome && x.st == .saving && decide (x.drainAt + 1400 * (s.ctx x.ctx).desc.drainlim.toNat ≤ s.net2) &&
    (s.coresOf t).all s.drainedBut

/-- SAVE_DRAIN_LIMIT: DRAINLIM µs have passed since the drain of task `about.k` began: the remote operations that are not
answered are recorded in its save (R440). The cycle does not end before this.
(DESIGN CHOICE: log entry 68.) -/
def execSaveDrainLimit (s : State) : Out :=
  let t := s.about.k
  match look t s.tasks with
  | none => .next s
  | some x => match x.rendezvous with
    | none => .next s
    | some (n, _) => if s.drainOver t x then .next (s.saveTask t n x) else .next s

/-- RENDEZVOUS_TIMEOUT: the streams of task `about.k` did not all stop within STALLLIM unfrozen cycles: they go on, and the
request stays for the next safe point (R408). -/
def execRendezvousTimeout (s : State) : Out :=
  let t := s.about.k
  match look t s.tasks with
  | none => .next s
  | some x => match x.rendezvous with
    | none => .next s
    | some (n, cycles) =>
      if x.st = .running ∧ !s.allStand t n ∧ s.stallLimit x.origin.toNat ≤ cycles then .next (s.release t) else .next s

end Sys2Proof.Machine
end

