-- ==== Sys2Proof/Machine/Groups.lean ====
section
/-! DEFINITION. Groups and dispatch: formation and the start of a task (R336, R321, R410), decision rounds (R347, R306), ageing
(R351), the release of the stall wire (R340), and cores out of dispatch (R355). -/

namespace Sys2Proof.Machine

/-! ### Formation -/

/-- GRPSHAPE of a member (Table 12.1). -/
def grpshapeOf (origin member : Nat) (shape : BitVec 8) : BitVec 32 :=
  (0 : BitVec 14) ++ BitVec.ofNat 4 member ++ fld shape 2 2 ++ fld shape 0 2 ++ BitVec.ofNat 5 (origin / 32) ++
    BitVec.ofNat 5 (origin % 32)

/-- What formation writes into a member (R336); the registers of the core's last trap stay (R206). -/
def State.formed (s : State) (c t member origin : Nat) (x : Task) : Core :=
  let k := s.core c
  { tcause := k.tcause, tpc := k.tpc, tstream := k.tstream, task := some t, member := member
    grpshape := grpshapeOf origin member x.card.shape, slotmap := (s.ctx x.ctx).desc.slotmap }

/-- The C-stream registers at task start (Table 11.7). -/
def startX (x : Task) (image : VAddr) (member : Nat) : Vector X64 32 :=
  Vector.ofFn fun i => match i.val with
    | 1 => x.card.frame
    | 2 => image.setWidth 64
    | 3 => x.card.arg0
    | 4 => x.card.arg1
    | 5 => BitVec.ofNat 64 member
    | 6 => BitVec.ofNat 64 x.queue
    | 7 => x.replay.setWidth 64
    | _ => 0

/-- The streams at task start: each present one at word 0 of its section (R294). -/
def startSeqs (k : Copy) : Vector Seq 4 :=
  Vector.ofFn fun i =>
    let sec := vget k.secs i.val {}
    { present := sec.words != [], pc := k.image + BitVec.ofNat 56 sec.off }

/-- A task's group is formed at an origin: it runs, and a reservation for it ends (R336, R352). -/
def State.formTask (s : State) (t origin start : Nat) (copy : Nat) : State :=
  { s.modTask t fun x => { x with
      st := .running, origin := BitVec.ofNat 10 origin, start := start, copy := copy, saved := none, wire := false
      frozen := [], saves := [], rendezvous := none } with
    reserve := s.reserve.map (clearReserve t) }

/-- A task that starts for the first time (R336, R321). -/
def State.startNew (s : State) (t origin : Nat) (x : Task) : State :=
  let n := (s.kernel x.card.kernel).copy
  let k := (look n s.copies).getD {}
  let cores := (rectCores origin x.card.w x.card.h).zipIdx
  let s := cores.foldl (fun s e =>
    s.setCore e.1 { s.formed e.1 t e.2 origin x with x := startX x k.image e.2, seqs := startSeqs k }) s
  s.formTask t origin (s.cycle + 8) n

/-- Cancelled copies are submitted again by the cores that now run their task; with another column, the destinations there are the
indeterminate ones (R146). -/
def State.moveCopies (s : State) (a b : CoreId) (l : List Item) : State :=
  let l := l.map fun (i : Item) => { i with core := moved a b i.core }
  let s := { s with items := s.items ++ l }
  if a = b then s
  else
    let s := s.settleBlur fun id => l.any fun (i : Item) => i.id == id
    { s with blurred := s.blurred ++ l.flatMap s.blurOf }

/-- A saved task that starts again (R410): its members are restored, its cancelled copies are submitted again, its recorded
operations are sent again; it issues first in a cycle of its GSC's phase (R337). -/
def State.startSaved (s : State) (t origin : Nat) (x : Task) (v : Saved) : State :=
  let k := (look x.copy s.copies).getD {}
  let o : CoreId := BitVec.ofNat 10 origin
  let cores := (rectCores origin x.card.w x.card.h).zipIdx
  let s := cores.foldl (fun s e =>
    s.restoreMember e.1 k x.ctx v.keepL0 ((v.members[e.2]?).getD {}) (s.formed e.1 t e.2 origin x)) s
  let s := s.formTask t origin (s.cycle + 8 + x.gsc.toNat % 8) x.copy
  let s := s.moveCopies v.origin o v.copies
  let s := (s.resend x.ctx t v.origin o).takeMail x.ctx t v.origin o
  cores.foldl (fun s e => s.dropLost x.ctx e.1) s

/-- A round comes to a task (R347, R306): it starts, or its card faults its queue; the flag says whether it started. -/
def State.tryStart (s : State) (k t : Nat) : State × Bool :=
  match look t s.tasks with
  | none => (s, false)
  | some x =>
    if !s.mayStart x then (s, false)
    else match s.place1 k t x with
      | none => (s, false)
      | some o =>
        if !s.admits k t x then (s, false)
        else match x.saved with
          | some v => (s.startSaved t o x v, true)
          | none => match s.kernelFault x with
            | some code => ((s.queueFault x.queue code x.cardNo false).dropTask t, false)
            | none => (s.startNew t o x, true)

/-- The tasks of a round in their order; at most four start (R347). -/
def State.roundOver (s : State) (k : Nat) : Nat → List Nat → State
  | _, [] => s
  | 0, _ => s
  | n + 1, t :: rest => match s.tryStart k t with
    | (s, true) => s.roundOver k n rest
    | (s, false) => s.roundOver k (n + 1) rest

/-- Round(k, n) (R347). -/
def State.round (s : State) (k : Nat) : State :=
  let l := (s.own k ++ s.stealable k).map fun (e : Nat × Task) => e.1
  (s.roundOver k 4 l).takeReserve k

/-- DECISION_ROUND: in a cycle n with n mod 8 = 0 the four dispatchers hold their rounds, in the order S0 to S3 (R347); none
while the module is not READY (R462). -/
def execDecisionRound (s : State) : Out :=
  if s.hub.ready ∧ s.cycle % 8 = 0 ∧ s.roundAt ≠ some s.cycle then
    .next ((List.range 4).foldl State.round { s with roundAt := some s.cycle })
  else .next s

/-- TASK_AGED: AGEIV cycles after it became ready, task `about.k` is aged (R351). -/
def execTaskAged (s : State) : Out :=
  match look s.about.k s.tasks with
  | some x =>
    if x.st = .ready ∧ x.readyAt + s.hub.ageiv.toNat ≤ s.cycle then
      .next (s.modTask s.about.k fun x => { x with aged := true })
    else .next s
  | none => .next s

/-- STALL_WIRE_RELEASE: every cause of task `about.k` has ended, and the cycle has the phase in which it goes on (R340, R96). The cycle
does not end before this. -/
def execStallWireRelease (s : State) : Out :=
  match look s.about.k s.tasks with
  | some x =>
    if x.thaws s.cycle then
      .next (s.modTask s.about.k fun x => { x with wire := false })
    else .next s
  | none => .next s

/-! ### Cores out of dispatch -/

/-- CORECMD 1: a core returns to dispatch, unless it failed a scan (R355). -/
def State.coreReturn (s : State) (c : CoreId) : State :=
  { s with out := s.out.filter (· != c), outWhenIdle := s.outWhenIdle.filter (·.1 != c) }

/-- CORECMD 2: a core leaves dispatch, when it is busy at the end of its task (R355). -/
def State.coreRemove (s : State) (c : CoreId) : State :=
  match (s.core c.toNat).task with
  | some t => s.removeAfter c t
  | none => if s.out.contains c then s else { s with out := c :: s.out }

/-- CORECMD_RETURN: the runtime returns core `about.core` to dispatch (R355). -/
def execCorecmdReturn (s : State) : Out := .next (s.coreReturn s.about.core)

/-- CORECMD_REMOVE: the runtime removes core `about.core` from dispatch (R355). -/
def execCorecmdRemove (s : State) : Out := .next (s.coreRemove s.about.core)

end Sys2Proof.Machine
end

