-- ==== Sys2Proof/Machine/Contexts.lean ====
section
/-! DEFINITION. Contexts: the descriptor (Table 15.1), the commands and their checks (R402 to R404), answers to records (R406),
saving and restoring a context (R409, R410), checkpoints (R411 to R413), rollback (R416, R442) and the scan of a core
(R356, R357, R417). -/

namespace Sys2Proof.Machine

/-! ### The descriptor -/

/-- The bytes of a descriptor that the runtime writes (Table 15.1). -/
def Desc.of (l : List Byte) : Desc :=
  let n (o k : Nat) : BitVec 64 := BitVec.ofNat 64 (num l o k)
  { colmask := BitVec.ofNat 1024 (num l 0 128), layers := BitVec.ofNat 8 (num l 0x80 1), plog := BitVec.ofNat 8 (num l 0x81 1)
    priv := BitVec.ofNat 8 (num l 0x82 1), sigpol := BitVec.ofNat 8 (num l 0x83 1), stalllim := BitVec.ofNat 32 (num l 0x84 4)
    ext := Vector.ofFn fun i => n (0x88 + 8 * i.val) 8
    slotmap := n 0xB0 8, root := n 0xB8 8, tqbase := n 0xC0 8, tqorder := BitVec.ofNat 8 (num l 0xC8 1)
    drainlim := BitVec.ofNat 32 (num l 0xD4 4), tqctr := n 0xD8 8, savebase := n 0xE0 8, savesize := n 0xE8 8
    ckbase := n 0xF0 8, cksize := n 0xF8 8, logbase := n 0x100 8, logsize := n 0x108 8, hcard := n 0x118 8, hrec := n 0x120 8
    node := BitVec.ofNat 32 (num l 0x128 4)
    win := Vector.ofFn fun i => BitVec.ofNat 256 (num l (0x180 + 32 * i.val) 32) }

/-- The descriptor of a slot as memory holds it (R400). -/
def State.readDesc (s : State) (slot : Slot) : Desc := Desc.of (s.bytesAt (s.ctxAddr slot) 512)

/-- The outcome of a command is written (Table 15.5). -/
def State.ctxStatus (s : State) (slot : Slot) (code : BitVec 8) : State :=
  (s.modCtx slot fun k => { k with status := code }).backCtx slot

/-- A command takes effect: the context's new state, with STATUS OK. -/
def State.ctxGo (s : State) (slot : Slot) (f : Ctx → Ctx) : State := (s.modCtx slot f).ctxStatus slot 0

/-- The hub reads the descriptor at the acceptance of a command (R400). -/
def State.reread (s : State) (slot : Slot) : State :=
  let d := s.readDesc slot
  (s.hubRead (s.ctxAddr slot)).modCtx slot fun k => { k with desc := d }

/-! ### The checks of LOAD (R403) -/

/-- A physical area is aligned and lies in the second tier (Table 15.1). -/
def areaOk (base size : Nat) : Bool := base % 4096 == 0 && decide (base + size ≤ 0x14000000000)

/-- An extent is aligned and in range (R403). -/
def extOk (level : Nat) (e : BitVec 64) : Bool :=
  let b := bitsNat e 31 0
  let l := bitsNat e 63 32
  b % 4096 == 0 && l % 4096 == 0 && decide (b ≤ l) && decide (l ≤ capOf level)

/-- Every owner code of a slot map lies in Table 3.5. -/
def slotmapOk (v : X64) : Bool := (List.range 16).all fun i => decide (bitsNat v (4 * i + 3) (4 * i) ≤ 9)

/-- The codes of LAYERS that name a layer out of the map in the stack of some column of COLMASK (R403). -/
def State.layerRetired (s : State) (d : Desc) : Bool :=
  (List.range 1024).any fun c => d.colmask.getLsbD c &&
    [1, 2, 3, 4].any fun k => d.layers.getLsbD k &&
      (!layerIn s.layeravail (stackOf c) k || layerIn s.retiring (stackOf c) k)

/-- Checks 1 to 5 of LOAD (R403). -/
def Desc.fieldsOk (d : Desc) : Bool :=
  decide (d.priv.toNat ≤ 1) && decide (d.sigpol.toNat ≤ 1) && decide (4 ≤ d.tqorder.toNat) && decide (d.tqorder.toNat ≤ 12) &&
    ((List.range 5).all fun i => extOk i (vget d.ext i 0)) && slotmapOk d.slotmap &&
    areaOk d.tqbase.toNat (64 * 2 ^ d.tqorder.toNat) &&
    areaOk d.savebase.toNat d.savesize.toNat && d.savesize.toNat % 4096 == 0 &&
    areaOk d.ckbase.toNat d.cksize.toNat && d.cksize.toNat % 4096 == 0 &&
    areaOk d.logbase.toNat d.logsize.toNat && d.logsize.toNat % 4096 == 0 && d.root.toNat % 0x80000 == 0

/-- The failing status of LOAD, if it fails: BAD_FIELD, BAD_ALLOT. -/
def State.loadStatus (s : State) (d : Desc) : Option (BitVec 8) :=
  if !d.fieldsOk then some 2 else if s.layerRetired d then some 3 else none

/-! ### Rollback (R416, R442) -/

/-- A logged line is written back whole, with the poison state it held (R416). -/
def State.undo (s : State) (e : LogEntry) : State :=
  let s := s.hubPut (64 * e.line) (natBytes e.old.toNat 64)
  if e.poisoned then s.poisonLine e.line else s

/-- Table 16.10: a session now, by what record k holds of it; one whose opening or closing was stopped is CLOSED. -/
def Session.rolled (old : Option Session) (x : Session) : Session :=
  if x.st = .opening ∨ x.st = .closing then {}
  else if x.st ≠ .opened then x
  else
    match old.filter fun (o : Session) => o.st == .opened && o.nonce == x.nonce with
    | some o => { x with next := o.next, w := o.next, outs := [], withheld := [] }
    | none => { x with next := 0, w := 0, outs := [], withheld := [] }

/-- Every remote operation of a context has been answered or has settled (R442). -/
def State.remoteOver (s : State) (slot : Slot) : Bool :=
  (s.ctx slot).sessions.all fun (e : Nat × Session) =>
    if e.2.st = .lost then decide (e.2.settle ≤ s.net2) else e.2.outs.isEmpty

/-- A held task of a checkpoint comes back: its conditions are registered again as their objects now stand (R371, R416). -/
def State.retask (s : State) (e : Nat × Task) : State :=
  if e.2.st = .waiting then
    let r := s.registerAll (e.2.waits.map fun (w : WaitOn) => (w.kind, w.key, w.value))
    { r.1 with tasks := put e.1 ({ e.2 with waits := r.2 }.settle s.cycle) r.1.tasks }
  else { s with tasks := put e.1 e.2 s.tasks }

/-- The graph bases of record k (R416): of a slot that is still loaded for the context. -/
def State.regraph (s : State) (slot : Slot) (e : Nat × Graph) : State :=
  let g := s.graph e.1
  if g.loaded ∧ g.owner = slot then s.setGraph e.1 { g with replays := e.2.replays, ctrs := e.2.ctrs } else s

/-- The end of a rollback: the log is replayed, checkpoint record k is restored, and the context runs (R416). -/
def State.endRollback (s : State) (slot : Slot) : State :=
  let k := s.ctx slot
  let n := k.vouched + 1
  let undone := k.log.filter fun (e : LogEntry) => decide (n ≤ e.interval)
  let s := undone.reverse.foldl State.undo s
  let r := (look n k.ckpts).getD {}
  let s := r.queues.foldl (fun s e => s.setQueue e.1 e.2) s
  let s := r.graphs.foldl (fun s e => s.regraph slot e) s
  let s := r.tasks.foldl State.retask s
  let x : Task := { r.task with st := .ready, saved := some { r.saved with keepL0 := true }, bound := true, readyAt := s.cycle, aged := false
                                wire := false, frozen := [] }
  let s := { s with tasks := put r.issuer x s.tasks }
  let s := s.modCtx slot fun k =>
    { k with st := .running, openIv := n, used := k.used.filter fun u => decide (u.1 < n)
             log := k.log.filter fun (e : LogEntry) => decide (e.interval < n), logUsed := k.logUsed - 128 * undone.length
             ckpts := k.ckpts.filter fun (e : Nat × Ckpt) => decide (e.1 ≤ n), logWait := false, ckHold := none, adds := []
             sessions := k.sessions.map fun (e : Nat × Session) => (e.1, e.2.rolled (look e.1 r.sessions)) }
  s.backCtx slot

/-- A rollback ends when every remote operation already sent is answered or has settled (R442). -/
def State.rollStep (s : State) (slot : Slot) : State :=
  if (s.ctx slot).st = .rollingBack ∧ s.remoteOver slot then s.endRollback slot else s

/-- A session of a context whose tasks a rollback has stopped: its operations have no issuer, and go on to an answer or to SETTLE
(R442). -/
def Session.orphan (x : Session) : Session :=
  { x with op := none, outs := x.outs.map fun o => { o with who := .gone, saved := none, hold := none } }

/-- A context may be rolled back (R416). -/
def Ctx.canRoll (k : Ctx) : Bool := decide (1 ≤ k.openIv) && !k.noroll

/-- ROLLBACK of a context (R416): one that may not be rolled back is killed.
(DEDUCED: log entry 71.) -/
def State.rollback (s : State) (slot : Slot) : State :=
  if !(s.ctx slot).canRoll then (s.kill slot).ctxStatus slot 6
  else
    let s := s.ctxGo slot fun k => { k with st := .rollingBack }
    let s := s.stopTasks slot
    let s := { s with gangOuts := s.gangOuts.filter fun g => g.ctx != slot }
    let s := s.modCtx slot fun k =>
      { k with sessions := k.sessions.map fun (e : Nat × Session) => (e.1, e.2.orphan), mail := []
               held := k.held.map fun h => { h with wait := none, task := none }
               posted := k.posted.map fun p => { p with task := none } }
    (s.pump slot).rollStep slot

/-! ### Context commands (R402 to R404) -/

/-- The commands of CTXCMD (Table 15.4). -/
inductive CtxCmd where
  | create | load | start | freeze | unfreeze | kill | rollback | destroy
  deriving DecidableEq, Repr, Inhabited

/-- Table 15.3: a command has an effect in a state. -/
def CState.takes (st : CState) (c : CtxCmd) : Bool := match c with
  | .create => st == .destroyed
  | .load => st == .created
  | .start => st == .loaded
  | .freeze => st == .running
  | .unfreeze => st == .frozen
  | .kill => st != .destroyed && st != .rollingBack && st != .dead
  | .rollback => st == .running || st == .frozen
  | .destroy => st == .created || st == .loaded || st == .dead

/-- DESTROY (R403): the L0 and tower extents of the context read 0, what it left behind is gone, and the slot is free. -/
def State.destroyCtx (s : State) (slot : Slot) : State :=
  let s := s.stopTasks slot
  let s := s.disableQueues slot
  let s := s.closeSessions slot
  let d := (s.ctx slot).desc
  let cols := (List.range 1024).filter fun c => d.colmask.getLsbD c
  let ranges : List (Nat × Nat) := cols.flatMap fun c => (List.range 5).map fun lv =>
    let e := vget d.ext lv 0
    (keyPlace lv c (bitsNat e 31 0), keyPlace lv c (bitsNat e 63 32))
  let inside (l : Nat) : Bool := ranges.any fun (r : Nat × Nat) => decide (r.1 ≤ 64 * l) && decide (64 * l < r.2)
  let s := { s with
    mem := ranges.foldl (fun m (r : Nat × Nat) => zeroRange m r.1 r.2) s.mem
    banks := s.banks.map fun (e : Nat × BankGroup) => (e.1, e.2.rewritten fun row =>
      inside (rowLine (e.1 / 8) (e.1 / 2 % 4 + 1) (e.1 % 2) row)) }
  let s := { s with
    poison := s.poison.filter fun l => !inside l || s.lineLost l
    tlb := s.tlb.filter fun (e : Cached) => e.slot != slot }
  (s.setCtx slot {}).backCtx slot

/-- UNFREEZE (R402, R415): the runtime's freeze ends, and LOGUSED is read again. -/
def State.unfreezeCtx (s : State) (slot : Slot) : State :=
  let used := s.get (s.ctxAddr slot + 0x110) 8
  (s.ctxGo slot fun k => { k with st := .running, logWait := false, logUsed := used }).thawCtx slot

/-- A command that Table 15.3 lets act. -/
def State.ctxAct (s : State) (slot : Slot) (c : CtxCmd) : State :=
  match c with
  | .create =>
    let d := s.readDesc slot
    { s.hubRead (s.ctxAddr slot) with queues := drop (hostQueues + slot.toNat) s.queues }.ctxGo slot fun _ => { st := .created, desc := d }
  | .load =>
    match s.loadStatus (s.ctx slot).desc with
    | some code => s.ctxStatus slot code
    | none => s.ctxGo slot fun k => { k with st := .loaded }
  | .start => s.ctxGo slot fun k => { k with st := .running }
  | .freeze => (s.ctxGo slot fun k => { k with st := .frozen }).freezeCtx slot
  | .unfreeze => s.unfreezeCtx slot
  | .kill => (s.kill slot).ctxStatus slot 0
  | .rollback => s.rollback slot
  | .destroy => s.destroyCtx slot

/-- A context command (R402, R404); `own` says that a context writes it for its own slot. -/
def State.ctxcmd (s : State) (slot : Slot) (c : CtxCmd) (own : Bool) : State :=
  if own ∧ c ≠ .start ∧ c ≠ .freeze then s.ctxStatus slot 4
  else if !(s.ctx slot).st.takes c then s.ctxStatus slot 1
  else (s.reread slot).ctxAct slot c

/-- The writer of the command that an event stands for is context `about.k` itself (R404).
(DEDUCED: log entry 72.) -/
def State.ownCmd (s : State) : Bool := s.about.yes && s.about.k == s.about.slot.toNat

/-- CTXCMD_CREATE: CREATE of slot `about.slot`, written by context `about.k` when `about.yes` (R403). -/
def execCtxcmdCreate (s : State) : Out := .next (s.ctxcmd s.about.slot .create s.ownCmd)

/-- CTXCMD_LOAD: LOAD of slot `about.slot` (R403). -/
def execCtxcmdLoad (s : State) : Out := .next (s.ctxcmd s.about.slot .load s.ownCmd)

/-- CTXCMD_START: START of slot `about.slot` (R402). -/
def execCtxcmdStart (s : State) : Out := .next (s.ctxcmd s.about.slot .start s.ownCmd)

/-- CTXCMD_FREEZE: FREEZE of slot `about.slot` (R403). -/
def execCtxcmdFreeze (s : State) : Out := .next (s.ctxcmd s.about.slot .freeze s.ownCmd)

/-- CTXCMD_UNFREEZE: UNFREEZE of slot `about.slot` (R402, R415). -/
def execCtxcmdUnfreeze (s : State) : Out := .next (s.ctxcmd s.about.slot .unfreeze s.ownCmd)

/-- CTXCMD_KILL: KILL of slot `about.slot` (R407). -/
def execCtxcmdKill (s : State) : Out := .next (s.ctxcmd s.about.slot .kill s.ownCmd)

/-- CTXCMD_ROLLBACK: ROLLBACK of slot `about.slot` (R416). -/
def execCtxcmdRollback (s : State) : Out := .next (s.ctxcmd s.about.slot .rollback s.ownCmd)

/-- CTXCMD_DESTROY: DESTROY of slot `about.slot` (R403). -/
def execCtxcmdDestroy (s : State) : Out := .next (s.ctxcmd s.about.slot .destroy s.ownCmd)

/-! ### Answers to records (R406) -/

/-- The unanswered record, other than a page fault's, of a slot with a RID (R405, R406). -/
def State.trapRec (s : State) (slot : Slot) (rid : Nat) : Option Posted :=
  match (s.ctx slot).unanswered rid with
  | some p => match p.item with
    | .trap _ => some p
    | .fault _ => none
  | none => none

/-- The 64 bytes of a record are copied to HREC, as far as it translates (R406). -/
def State.copyRec (s : State) (slot : Slot) (p : Posted) : State :=
  let va : VAddr := fld (s.ctx slot).desc.hrec 0 56
  match s.walk slot va with
  | .valid t =>
    match (if t.rem then none else physKey s.layeravail (t.pa va)) with
    | some key => s.hubPut key (natBytes (s.itemBits p.item p.rid).toNat 64)
    | none => s
  | _ => s

/-- The card of a handler: HCARD, with ARG0 replaced by RID (R406).
(DEDUCED: log entry 73.) -/
def State.handlerCard (s : State) (slot : Slot) (rid : Nat) : Option (BitVec 1024) :=
  (s.readImage slot (fld (s.ctx slot).desc.hcard 0 56) 128).map fun l =>
    putField (BitVec.ofNat 1024 (bytesNat l)) 192 (BitVec.ofNat 64 rid)

/-- The handler's card is spawned into the internal queue as SPAWN does; while the pool of accepted tasks is full it waits. A card that
SPAWN would refuse starts no handler (R325, R406). -/
def State.spawnHandler (s : State) (slot : Slot) (rid : Nat) : State :=
  let q := hostQueues + slot.toNat
  let k := s.queue q
  let done := s.modCtx slot fun x => { x with handlers := x.handlers.filter (· != rid) }
  if poolSize ≤ s.poolCount then s
  else
    let done := done.readOver slot (fld (s.ctx slot).desc.hcard 0 56) 128
    match s.handlerCard slot rid with
    | none => done
    | some b =>
      if 256 ≤ s.queueCount q ∨ (s.cardFault slot b).isSome then done
      else
        (done.acceptCard slot q (k.head % 256) 0 b (some (slot, rid))).setQueue q
          { k with head := k.head + 1, tail := k.head + 1 }

/-- HANDLER (R406): the record is copied to HREC, and HCARD is spawned. -/
def State.trapHandler (s : State) (slot : Slot) (p : Posted) : State :=
  let s := s.copyRec slot p
  let s := s.modCtx slot fun x => { x with handlers := x.handlers.filter (· != p.rid) ++ [p.rid] }
  s.spawnHandler slot p.rid

/-- The handlers of a context that wait for the pool are spawned, those whose records are still unanswered (R406). -/
def State.spawnHandlers (s : State) (slot : Slot) : State :=
  (s.ctx slot).handlers.foldl (fun s rid =>
    if (s.trapRec slot rid).isSome then s.spawnHandler slot rid
    else s.modCtx slot fun x => { x with handlers := x.handlers.filter (· != rid) }) s

/-- The commands of TRAPCMD (Table 15.4). -/
inductive TrapCmd where
  | resume | handler | kill | rollback
  deriving DecidableEq, Repr, Inhabited

/-- A trap command (R404, R406); `own` says that a context writes it for its own slot. -/
def State.trapcmd (s : State) (slot : Slot) (rid : Nat) (c : TrapCmd) (own : Bool) : State :=
  if own then s.ctxStatus slot 4
  else match s.trapRec slot rid with
    | none => s
    | some p => match c with
      | .resume => s.resume slot p
      | .handler => if (s.ctx slot).desc.hcard = 0 then s.ctxcmd slot .kill false else s.trapHandler slot p
      | .kill => s.ctxcmd slot .kill false
      | .rollback =>
        let t := s.ctxcmd slot .rollback false
        if (s.ctx slot).st.takes .rollback ∧ (s.ctx slot).canRoll then t.answer slot rid else t

/-- TRAPCMD_RESUME: the runtime answers record `about.rid` of slot `about.slot` with RESUME (R406). -/
def execTrapcmdResume (s : State) : Out := .next (s.trapcmd s.about.slot s.about.rid.toNat .resume s.ownCmd)

/-- TRAPCMD_HANDLER: HANDLER of record `about.rid` of slot `about.slot` (R406). -/
def execTrapcmdHandler (s : State) : Out := .next (s.trapcmd s.about.slot s.about.rid.toNat .handler s.ownCmd)

/-- TRAPCMD_KILL: KILL of record `about.rid` of slot `about.slot` (R406, R407). -/
def execTrapcmdKill (s : State) : Out := .next (s.trapcmd s.about.slot s.about.rid.toNat .kill s.ownCmd)

/-- TRAPCMD_ROLLBACK: ROLLBACK of record `about.rid` of slot `about.slot` (R406, R416). -/
def execTrapcmdRollback (s : State) : Out := .next (s.trapcmd s.about.slot s.about.rid.toNat .rollback s.ownCmd)

/-! ### Saving and restoring a context (R409, R410) -/

/-- Tasks of a context that are started. -/
def State.started (s : State) (slot : Slot) : List (Nat × Task) :=
  s.tasks.filter fun (e : Nat × Task) => e.2.ctx == slot && (e.2.st == .running || e.2.st == .saving)

/-- Cores that run the tasks of a context. -/
def State.coreCount (s : State) (slot : Slot) : Nat :=
  (s.started slot).foldl (fun n (e : Nat × Task) => n + e.2.card.w * e.2.card.h) 0

/-- A save is asked of a task, once for each reason (R408). -/
def State.askSave (s : State) (t : Nat) (w : SaveFor) : State :=
  s.modTask t fun x => if x.saves.contains w then x else { x with saves := x.saves ++ [w] }

/-- CTXSAVE of another slot begins (R409); false when it ends at once with a status. -/
def State.ctxsave (s : State) (slot : Slot) : State × Bool :=
  let k := s.ctx slot
  if k.st ≠ .running then (s.ctxStatus slot 1, false)
  else if k.desc.savesize.toNat < recordBytes * s.coreCount slot then (s.ctxStatus slot 5, false)
  else
    let s := s.ctxGo slot fun k => { k with st := .saving }
    let s := (s.started slot).foldl (fun s (e : Nat × Task) => s.askSave e.1 .ctxsave) s
    (s.settleSave slot, true)

/-- ctxsave xa (R409), at P1: the C-stream stalls until the context is SAVED, or no longer SAVING. -/
def execCtxsave (a : BitVec 5) (s : State) : Out :=
  let c := s.me
  let slot : Slot := fld (s.x a) 0 8
  .next (s.finish
    (if !s.isP1 c then .trap (s.privTrap 0)
     else if (s.core c).cmd = some (.ctxsave slot) then
       (if (s.ctx slot).st = .saving then .wait s .other else .ok (s.modCore c fun k => { k with cmd := none }))
     else if slot = s.slotOf c then .ok (s.ctxStatus slot 4)
     else match s.ctxsave slot with
       | (s', false) => .ok s'
       | (s', true) => .wait (s'.modCore c fun k => { k with cmd := some (.ctxsave slot) }) .other))

/-- A restored task re-enters the ready set, bound to the ORIGIN of its record; one whose ORIGIN does not fit is dropped with a
queue fault BAD_FIELD (R410). -/
def State.restoreTask (s : State) (t : Nat) : State :=
  match look t s.tasks with
  | none => s
  | some x => match x.saved with
    | none => s
    | some v =>
      let o := match v.recPa with
        | some pa => s.get (pa + 0x0C) 2
        | none => x.origin.toNat
      if originOk o x.card.w x.card.h && s.inMask x.ctx o x.card.w x.card.h then
        s.modTask t fun x => { x with st := .ready, origin := BitVec.ofNat 10 o, bound := true, readyAt := s.cycle, aged := false }
      else (s.queueFault x.queue 0x01 x.cardNo false).dropTask t

/-- A context with an OPEN session that was saved under another node identifier (R441). -/
def State.movedNode (s : State) (slot : Slot) : Bool :=
  (s.ctx slot).nodeAt != s.hub.nodeid && (s.ctx slot).sessions.any fun (e : Nat × Session) => e.2.st == .opened

/-- ctxrest xa (R410), at P1. -/
def execCtxrest (a : BitVec 5) (s : State) : Out :=
  let slot : Slot := fld (s.x a) 0 8
  .next (s.finish
    (if !s.isP1 s.me then .trap (s.privTrap 0)
     else if (s.ctx slot).st ≠ .saved then .ok (s.ctxStatus slot 1)
     else if s.movedNode slot then .ok (s.ctxStatus slot 2)
     else .ok ((s.tasksOf slot).foldl State.restoreTask ((s.ctxGo slot fun k => { k with st := .running }).resendAll slot))))

/-! ### Checkpoints (R411, R413) -/

/-- Two intervals are unvouched (R411). -/
def Ctx.ckFull (k : Ctx) : Bool := decide (k.vouched + 2 ≤ k.openIv) && decide (2 ≤ k.openIv)

/-- ckpt xd (R411): it holds dispatch, waits until no other task of its context is started, writes xd, and asks for the
checkpoint at the next safe point.
(DEDUCED: log entry 67.) -/
def execCkpt (d : BitVec 5) (s : State) : Out :=
  let c := s.me
  let slot := s.slotOf c
  let k := s.ctx slot
  .next (s.finish
    (match (s.core c).task, s.taskOf c with
     | some t, some x =>
       if (s.core c).cmd = some .ckpt then
         (if (s.started slot).any fun (e : Nat × Task) => e.1 != t then .wait s .other
          else
            let s' := s.modCore c fun k => { k with cmd := none }
            if k.desc.cksize.toNat / 2 < s.ckptBytes t x then
              .after (s'.modCtx slot fun k => { k with ckHold := none })
                { cause := cCHECKPOINT_FULL, addr := k.desc.ckbase, detail := 1 }
            else .ok ((s'.askSave t (.ckpt s.about.core)).setX d (BitVec.ofNat 64 (k.openIv + 1))))
       else if k.ckFull ∨ k.ckHold.isSome then .wait s .other
       else
         .wait ((s.modCtx slot fun k => { k with ckHold := some s.about.core }).modCore c fun k => { k with cmd := some .ckpt })
           .other
     | _, _ => .ok s))

/-- ckwait xa (R413): it completes as an acquire of system scope, once every earlier load is performed. -/
def execCkwait (a : BitVec 5) (s : State) : Out :=
  let v := s.x a
  let iv := bitsNat v 31 0
  let limit := 256 * bitsNat v 51 32
  .next (s.finish
    (if iv ≤ (s.ctx (s.slotOf s.me)).vouched then (if (s.core s.me).cPerformed then .ok s else .wait s .fence)
     else if limit = 0 then .trap { cause := cWAIT_LIMIT, detail := BitVec.ofNat 64 (iv * 2 ^ 32) }
     else .wait s (.wait limit 0 (BitVec.ofNat 64 (limit + iv * 2 ^ 32)))))

/-! ### The scan rotation (R356, R357, R417) -/

/-- The scan rotation of a stack is changed. -/
def State.modScan (s : State) (k : Nat) (f : Scan → Scan) : State :=
  { s with scans := vset s.scans k (f (vget s.scans k {})) }

/-- The cores of a stack in ascending core identifier. -/
def stackCores (k : Nat) : List Nat := (List.range 1024).filter fun c => stackOf c == k

/-- The core whose turn comes: an overdue one, else the next in dispatch, wrapping around (R356). -/
def State.nextScan (s : State) (k : Nat) : Option Nat :=
  let x := vget s.scans k {}
  match x.overdue.find? fun c => !s.isOut c.toNat with
  | some c => some c.toNat
  | none =>
    let l := stackCores k
    ((l.filter fun c => decide (x.next ≤ c)) ++ l).find? fun c => !s.isOut c

/-- A drained core is scanned from this cycle on (R356). -/
def State.scanIdle (s : State) (k : Nat) : State :=
  match (vget s.scans k {}).draining with
  | some c =>
    if (s.core c.toNat).task.isNone then
      s.modScan k fun x => { x with draining := none, scanning := some c, since := s.cycle }
    else s
  | none => s

/-- PERIOD ÷ 256 ms in cycles of the core clock (R356). -/
def State.scanTurn (s : State) : Nat := s.hub.scanper.toNat * 700000 / 256

/-- SCAN_START: in stack `about.k`, no core is drained or scanned and PERIOD ÷ 256 ms have passed since the last turn began:
the next core takes no new task, and its task is asked to save (R356). -/
def execScanStart (s : State) : Out :=
  let k := s.about.k
  let x := vget s.scans k {}
  if 4 ≤ k ∨ x.draining.isSome ∨ x.scanning.isSome ∨ s.cycle < x.began + s.scanTurn then .next s
  else match s.nextScan k with
    | none => .next s
    | some c =>
      let core : CoreId := BitVec.ofNat 10 c
      let s := s.modScan k fun x =>
        { x with draining := some core, waited := 0, began := s.cycle, overdue := x.overdue.filter (· != core)
                 next := if x.overdue.contains core then x.next else c + 1 }
      let s := match (s.core c).task with
        | some t => s.askSave t (.scan core)
        | none => s
      .next (s.scanIdle k)

/-- A save that a scan asked for is asked no longer. -/
def State.unaskScan (s : State) (t : Nat) (c : CoreId) : State :=
  let s := s.modTask t fun x => { x with saves := x.saves.filter fun f => f != .scan c }
  match look t s.tasks with
  | some x => if x.saves = [] ∧ x.st = .running then s.release t else s
  | none => s

/-- SCAN_DRAIN_TIMEOUT: no safe point came within 1 ms of unfrozen cycles to the core that stack `about.k` drains: its turn is
skipped, and it is overdue (R356). -/
def execScanDrainTimeout (s : State) : Out :=
  let k := s.about.k
  let x := vget s.scans k {}
  match x.draining with
  | none => .next s
  | some c =>
    if 700000 ≤ x.waited ∧ (s.taskOf c.toNat).any (fun (t : Task) => t.st == .running) then
      let s := s.modScan k fun x => { x with draining := none, overdue := x.overdue ++ [c] }
      .next (match (s.core c.toNat).task with
        | some t => s.unaskScan t c
        | none => s)
    else .next s

/-- The scan failure of a core reaches a context that used it in an unvouched interval: it is rolled back, or killed with STATUS
NO_ROLLBACK; a rollback in progress goes on (R416, R417).
(DEDUCED: log entry 70.) -/
def State.scanHit (s : State) (core : CoreId) (slot : Slot) : State :=
  let k := s.ctx slot
  let hit := k.used.any fun u => decide (k.vouched < u.1) && u.2.1 == core
  let back := k.st == .rollingBack
  let runs := k.st == .running || k.st == .frozen || k.st == .saving || k.st == .saved || back
  if hit && runs then
    let r : TrapRec := { cause := cPOISON, async := true, core := core }
    let s := s.record slot { item := .trap r }
    if back then s
    else if k.canRoll && (k.st == .running || k.st == .frozen) then s.rollback slot else (s.kill slot).ctxStatus slot 6
  else s

/-- A scan failed (R357): the core leaves dispatch until a module reset, the error is recorded, and every context that used it
in an unvouched interval is rolled back or killed. -/
def State.scanFail (s : State) (core : CoreId) (pattern : X64) : State :=
  let s := { s with scanFailed := s.scanFailed ++ [core] }
  let s := s.error 1 8 core.toNat 0xFF 0 pattern
  s.ctxs.foldl (fun s e => s.scanHit core (BitVec.ofNat 8 e.1)) s

/-- A scan passed (R357, R412): it counts for every use of the core before it, and intervals may become vouched. -/
def State.scanPass (s : State) (core : CoreId) (since : Nat) : State :=
  let s := { s with scanned := put core.toNat since s.scanned }
  s.ctxs.foldl (fun s (e : Nat × Ctx) => s.vouch (BitVec.ofNat 8 e.1) e.2.openIv) s

/-- SCAN_END: the 28,000 cycles of the scan of stack `about.k` have passed; the core passed when `about.yes`, else pattern
`about.w0` failed (R356, R357). -/
def execScanEnd (s : State) : Out :=
  let k := s.about.k
  let x := vget s.scans k {}
  match x.scanning with
  | none => .next s
  | some c =>
    if s.cycle < x.since + 28000 then .next s
    else
      let s := s.modScan k fun x => { x with scanning := none }
      .next (if s.about.yes then s.scanPass c x.since else s.scanFail c s.about.w0)

end Sys2Proof.Machine
end

