-- ==== Sys2Proof/Machine/Owner.lean ====
section
/-! DEFINITION. The owner of remote memory: exports (R421, R422), sessions as owner (R426, R431, R439), its answer to each
request (R430, R431, R489), the in-doubt list (R435), and gangs at a member (R446). -/

namespace Sys2Proof

/-- The flag of Table 16.3 that an operation on memory needs: R, W or A. -/
def RemoteOp.needs : RemoteOp → Nat
  | .load => 1
  | .store => 2
  | _ => 3

/-- Bytes that an operation on memory reads or writes. -/
def Request.bytes (r : Request) : Nat := match r.op with
  | .atomic fn => if fn = 2 then r.size / 2 else r.size
  | _ => r.size

/-- The key of a requester's session. -/
def Request.who (r : Request) : Nat × Nat := (r.node.toNat, r.slot.toNat)

/-- An operation that one of the gang events stands for. -/
def RemoteOp.isGang : RemoteOp → Bool
  | .prepare | .commit | .abort | .go => true
  | _ => false

end Sys2Proof

namespace Sys2Proof.Machine

/-! ### Exports (Table 16.3) -/

/-- Export entry `i`, read as one event (R421). -/
def State.exportEntry (s : State) (i : Nat) : BitVec 256 := BitVec.ofNat 256 (s.get (s.hub.expbase.toNat + 32 * i) 32)

def xBase (e : BitVec 256) : Nat := bitsNat e 63 0
def xSize (e : BitVec 256) : Nat := bitsNat e 127 64
def xFlag (e : BitVec 256) (b : Nat) : Bool := e.getLsbD (8 * 0x13 + b)
def xCtx (e : BitVec 256) : Slot := fld e (8 * 0x14) 8

/-- An entry matches a requester (R422). -/
def xMatches (e : BitVec 256) (node : Node) (slot : Slot) : Bool :=
  xSize e != 0 && (e.getLsbD (8 * 0x10 + 15) || fld e (8 * 0x10) 12 == node) && (xFlag e 0 || fld e (8 * 0x12) 8 == slot)

/-- The entries that match a requester. -/
def State.exportsFor (s : State) (node : Node) (slot : Slot) : List (BitVec 256) :=
  ((List.range s.hub.expcount.toNat).map s.exportEntry).filter fun e => xMatches e node slot

/-- One entry covers every byte of an access with its flag set (R422). -/
def xCovers (e : BitVec 256) (pa n flag : Nat) : Bool :=
  xFlag e flag && decide (xBase e ≤ pa) && decide (pa + n ≤ xBase e + xSize e)

/-- An owner physical address is mapped, over the bytes of an access (R489). -/
def State.ownerMapped (s : State) (pa n : Nat) : Bool :=
  let ok (a : Nat) : Bool := match regionOf a with
    | .second _ => true
    | .tower k c _ => layerIn s.layeravail (stackOf c) k
    | _ => false
  ok pa && ok (pa + n - 1)

/-- A request is granted (R422); a gang message by the bound context of its queue. -/
def State.granted (s : State) (r : Request) (g : GangMsg) : Bool :=
  let l := s.exportsFor r.node r.slot
  match r.op with
  | .load | .store | .atomic _ => l.any fun e => xCovers e r.pa.toNat r.bytes (r.op.needs)
  | .collective => !l.isEmpty
  | _ => l.any fun e => xFlag e 4 && xCtx e == (s.queue g.queue.toNat).ctx

/-! ### Sessions as owner -/

/-- The session that the package holds for a requester. -/
def State.osession (s : State) (r : Request) : Option OSession :=
  (s.osessions.find? fun (e : (Nat × Nat) × OSession) => e.1 == r.who).map (·.2)

/-- A result-cache entry belongs to a requester's session. -/
def RCache.of (e : RCache) (r : Request) : Bool := e.node == r.node && e.slot == r.slot

/-- A session is discarded with its entries (R426). -/
def State.dropOwner (s : State) (r : Request) : State :=
  { s with osessions := s.osessions.filter fun (e : (Nat × Nat) × OSession) => e.1 != r.who
           rcache := s.rcache.filter fun e => !e.of r }

def State.modOwner (s : State) (r : Request) (f : OSession → OSession) : State :=
  { s with osessions := s.osessions.map fun (e : (Nat × Nat) × OSession) => if e.1 = r.who then (e.1, f e.2) else e }

/-- A packet with the session's nonce arrives: its watermark moves the session's, and frees the entries below it (R430 row 2,
R431). -/
def State.heard (s : State) (r : Request) (w : BitVec 32) : State :=
  let s := s.modOwner r fun x => { x with lastAt := s.net2 }
  match s.osession r with
  | none => s
  | some x =>
    let d := (w - x.w).toNat
    if 1 ≤ d ∧ d < 2 ^ 31 then
      { s.modOwner r (fun x => { x with w := w }) with
        rcache := s.rcache.filter fun e => !(e.of r && decide (2 ^ 31 ≤ (e.serial - w).toNat)) }
    else s

/-- An answer is sent. -/
def State.reply (s : State) (r : Request) (a : Answer) (data : BitVec 512) : State :=
  { s with net := s.net ++ [.answer r.node r.slot r.serial a data] }

/-! ### Gangs at a member (R446) -/

/-- A held gang is the one that a message of a node names. -/
def GangHeld.named (h : GangHeld) (g : GangMsg) : Bool := h.msg.gang == g.gang && h.msg.node == g.node && h.msg.queue == g.queue

/-- The answer to PREPARE, and the gang held on ACK.
(DEDUCED: log entry 78.) -/
def State.prepare (s : State) (g : GangMsg) : State × Answer :=
  let q := g.queue.toNat
  let n := (s.gangs.filter fun h => h.msg.queue == g.queue && !h.armed).length
  if q < hostQueues ∧ (s.queue q).st = .enabled ∧ n < 16 then
    ({ s with gangs := s.gangs ++ [{ msg := g, armed := false, since := s.net2 }] }, .ack)
  else (s, .nak)

/-- The answer to COMMIT: the queue is kicked and the watchdog armed. -/
def State.commitGang (s : State) (g : GangMsg) : State × Answer :=
  match s.gangs.find? fun h => h.named g && !h.armed with
  | none => (s, .expired)
  | some h =>
    let s := { s with gangs := s.gangs.map fun x => if x = h then { x with armed := true, since := s.net2 } else x }
    (s.kickQueue h.msg.queue.toNat h.msg.kick, .ok 0)

/-- ABORT drops the held gang. -/
def State.abortGang (s : State) (g : GangMsg) : State := { s with gangs := s.gangs.filter fun h => !(h.named g && !h.armed) }

/-- GO disarms the watchdog. -/
def State.goGang (s : State) (g : GangMsg) : State := { s with gangs := s.gangs.filter fun h => !(h.named g && h.armed) }

/-! ### The owner's answer (Table 16.6) -/

/-- The single execution of a granted request: its answer and the data of it (R431). -/
def State.ownerRun (s : State) (r : Request) (g : GangMsg) : State × Answer :=
  let pa := r.pa.toNat
  match r.op with
  | .load => (s, .ok 0)
  | .store =>
    let t := (s.write pa (natBytes r.data.toNat r.size)).touch pa true
    (if r.bad then (linesOf pa r.size).foldl State.poisonLine t else t, .ok 0)
  | .atomic fn =>
    let n := r.bytes
    if (poisonIn s pa n).isSome then (s, .poison)
    else
      let m := s.get pa n
      let a : Atom := if fn = 2 then { fn := fn, cmp := bitsNat r.data (8 * n - 1) 0, b := r.data.toNat >>> (8 * n) }
        else { fn := fn, b := r.data.toNat, cmp := 0 }
      ((s.write pa (natBytes (a.apply n m) n)).touch pa true, .ok (BitVec.ofNat 64 m))
  | .prepare => s.prepare g
  | .commit => s.commitGang g
  | .abort => (s.abortGang g, .ok 0)
  | .go => (s.goGang g, .ok 0)
  | .collective => (s, .ok 0)

/-- A mutating request is mapped (R489); a message has no address. -/
def State.requestMapped (s : State) (r : Request) : Bool := r.op.isMsg || s.ownerMapped r.pa.toNat r.bytes

/-- Rows 3 of Table 16.6: a load. -/
def State.ownerLoad (s : State) (r : Request) (g : GangMsg) : State :=
  let pa := r.pa.toNat
  if !(s.granted r g && s.requestMapped r) then s.reply r .denied 0
  else if (poisonIn s pa r.size).isSome then s.reply r .poison 0
  else (s.touch pa false).reply r (.ok 0) (BitVec.ofNat 512 (s.get pa r.size))

/-- Rows 4 to 10 of Table 16.6: a mutating request. -/
def State.ownerMutate (s : State) (r : Request) (g : GangMsg) (w : BitVec 32) : State :=
  let made (s : State) (a : Answer) : State :=
    let e : RCache := { node := r.node, slot := r.slot, serial := r.serial, digest := r.digest, answer := a }
    { s with rcache := s.rcache ++ [e] }.reply r a 0
  match s.rcache.find? fun e => e.of r && e.serial == r.serial with
  | some e => s.reply r (if e.digest = r.digest then e.answer else .serialDigest) e.data
  | none =>
    if 2 ^ 31 ≤ (r.serial - w).toNat then s.reply r .retired 0
    else if 65536 ≤ (r.serial - w).toNat then (s.dropOwner r).reply r .sessionLost 0
    else if 65536 ≤ s.rcache.length then s.reply r .busy 0
    else if !(s.granted r g && s.requestMapped r) then made s .denied
    else
      let a := s.ownerRun r g
      made a.1 a.2

/-- An owner acts on an arriving request by the first row of Table 16.6 that applies (R430). -/
def State.ownerAct (s : State) (r : Request) (g : GangMsg) : State :=
  match s.osession r with
  | none => s.reply r .sessionLost 0
  | some x =>
    if x.nonce ≠ r.nonce then s.reply r .sessionLost 0
    else
      let s := s.heard r r.w
      if r.op = .load then s.ownerLoad r g
      else s.ownerMutate r g (((s.osession r).map (·.w)).getD 0)

/-- OWNER_REQUEST: request `about.req`, a load, store, atomic or collective message of at most 64 bytes, arrives (R430).
(DESIGN CHOICE: log entry 75.) -/
def execOwnerRequest (s : State) : Out :=
  let r := s.about.req
  .next (if r.op.isGang ∨ 64 < r.size then s else s.ownerAct r {})

/-- A gang message arrives: the request and its content `about.gang`, whose node is the requester's.
(DEDUCED: log entry 77.) -/
def State.gangEvent (s : State) (op : RemoteOp) : State :=
  let r := s.about.req
  if r.op = op then s.ownerAct r { s.about.gang with node := r.node } else s

/-- GANG_PREPARE: a PREPARE arrives (R446). -/
def execGangPrepare (s : State) : Out := .next (s.gangEvent .prepare)

/-- GANG_COMMIT: a COMMIT arrives (R446). -/
def execGangCommit (s : State) : Out := .next (s.gangEvent .commit)

/-- GANG_ABORT: an ABORT arrives (R446). -/
def execGangAbort (s : State) : Out := .next (s.gangEvent .abort)

/-- GANG_GO: a GO arrives (R446). -/
def execGangGo (s : State) : Out := .next (s.gangEvent .go)

/-- The timer of a held gang has ended: WDOG µs (R446). -/
def GangHeld.expired (h : GangHeld) (now : Nat) : Bool := decide (h.since + 1400 * h.msg.wdog.toNat ≤ now)

/-- GANG_HOLD_EXPIRY: the hold timer of gang `about.k` ends, and it is dropped (R446). -/
def execGangHoldExpiry (s : State) : Out :=
  match s.gangs[s.about.k]? with
  | some h => if !h.armed && h.expired s.net2 then .next { s with gangs := s.gangs.eraseIdx s.about.k } else .next s
  | none => .next s

/-- GANG_WATCHDOG_EXPIRY: the watchdog of gang `about.k` ends: GANG_INCOMPLETE is posted to the bound context of its queue,
which is killed (R446). -/
def execGangWatchdogExpiry (s : State) : Out :=
  match s.gangs[s.about.k]? with
  | some h =>
    if h.armed && h.expired s.net2 then
      let slot := (s.queue h.msg.queue.toNat).ctx
      let s := { s with gangs := s.gangs.eraseIdx s.about.k }
      let s := s.nocore slot cGANG_INCOMPLETE 0 ((0 : BitVec 20) ++ h.msg.node ++ h.msg.gang) 0 0 false
      .next (s.kill slot)
    else .next s
  | none => .next s

/-! ### Opening and closing as owner (R426) -/

/-- OWNER_OPEN: an OPEN of requester `about.req` arrives (R426). -/
def execOwnerOpen (s : State) : Out :=
  let r := s.about.req
  if (s.exportsFor r.node r.slot).isEmpty then .next (s.reply r .refused 0)
  else if (s.osession r).isNone ∧ 16384 ≤ s.osessions.length then .next (s.reply r .ownerFull 0)
  else
    let v := Config.nonceBits s.fresh
    let nonce := if v = 0 then 1 else v
    let s := { s with fresh := s.fresh + 1 }.dropOwner r
    let x : OSession := { nonce := nonce, lastAt := s.net2 }
    .next ({ s with osessions := s.osessions ++ [(r.who, x)] }.reply r (.ok nonce) 0)

/-- OWNER_CLOSE: a CLOSE of requester `about.req` arrives: the session with its nonce is discarded with its entries (R426); a nonce that
matches none is answered SESSION_LOST (R439). -/
def execOwnerClose (s : State) : Out :=
  let r := s.about.req
  .next (if (s.osession r).any fun x => x.nonce == r.nonce then (s.dropOwner r).reply r (.ok 0) 0 else s.reply r .sessionLost 0)

/-- OWNER_SESSION_EXPIRY: no packet with the nonce of the session of requester `about.req` has come for 1 ms (R426). -/
def execOwnerSessionExpiry (s : State) : Out :=
  let r := s.about.req
  .next (if (s.osession r).any fun x => decide (x.lastAt + nsToNet 1000000 ≤ s.net2) then s.dropOwner r else s)

/-- WATERMARK_RECEIPT: a watermark of requester `about.req` arrives (R431): a heartbeat or one of LRETIRE, or, with a number in its
serial, one of LSYNC, which is acknowledged with that number (R438). -/
def execWatermarkReceipt (s : State) : Out :=
  let r := s.about.req
  .next (if (s.osession r).any fun x => x.nonce == r.nonce then
      (if r.serial = 0 then s.heard r r.w else (s.heard r r.w).reply r (.ok 0) 0)
    else s.reply r .sessionLost 0)

/-! ### The in-doubt list (R435) -/

/-- The oldest entries of a list leave it. -/
def State.idpop (s : State) (slot : Slot) (n : Nat) : State := s.modCtx slot fun k => { k with indoubt := k.indoubt.drop n }

/-- IDPOP: the oldest `about.k` entries of the list of slot `about.slot` are removed (R435). -/
def execIdpop (s : State) : Out := .next (s.idpop s.about.slot (s.about.k % 65536))

end Sys2Proof.Machine
end

