-- ==== Sys2Proof/Machine/System.lean ====
section
/-! DEFINITION. Control and status registers (R205, R206), the system instructions (R207) and IINV (R192), the end of a
member by TEXIT (R322), and ILLEGAL_OP (R149). -/

namespace Sys2Proof.Machine

/-! ### Registers read by CSRR -/

/-- VT (Table 8.1). -/
def csrVT : BitVec 12 := 0x000
def csrVSTAT : BitVec 12 := 0x004
def csrSLOTMAP : BitVec 12 := 0x014
def csrDBGCTL : BitVec 12 := 0x016
def csrAGEIV : BitVec 12 := 0x030

/-- REPS (Table 8.5). -/
def Reps.word (r : Reps) : BitVec 32 :=
  (if r.active then (1 : BitVec 1) else 0) ++ (if r.popped then (1 : BitVec 1) else 0) ++ r.sd ++ r.sa ++ r.sb ++ (0 : BitVec 1) ++
    r.count ++ (0 : BitVec 1) ++ r.done ++ (0 : BitVec 8)

/-- MCFG (Table 9.2). -/
def Core.mcfg (k : Core) : BitVec 32 :=
  (0 : BitVec 4) ++ k.shst ++ (if k.swpend.isSome then (1 : BitVec 1) else 0) ++ (if k.bscv then (1 : BitVec 1) else 0) ++
    (0 : BitVec 4) ++ k.wSh.fmt ++ k.wAct.fmt ++ k.fmtB ++ k.fmtA

/-- The physical site of a local coordinate, with its skipped line (R14). -/
def physSite (skip : BitVec 5) (l : Nat) : Nat := if l < skip.toNat then l else l + 1

/-- COREXY (Table 1.2). -/
def State.corexy (s : State) (c : Nat) : BitVec 32 :=
  let k := stackOf c
  (0 : BitVec 10) ++ BitVec.ofNat 5 (physSite (vget s.ky k 0) (c / 32 % 16)) ++
    BitVec.ofNat 5 (physSite (vget s.kx k 0) (c % 16)) ++ BitVec.ofNat 2 k ++ BitVec.ofNat 10 c

/-- CTXID (Table 15.2). -/
def State.ctxidOf (s : State) (c : Nat) : BitVec 32 :=
  (0 : BitVec 10) ++ fld (s.desc c).priv 0 2 ++ s.hub.nodeid ++ s.slotOf c

/-- MGMT_STATUS (Table 17.2): THERM and DEGR follow the temperatures, LAYERAVAIL and the cores that failed a scan. -/
def State.mgmtStatus (s : State) : BitVec 32 :=
  let h := s.hub
  let b (v : Bool) : BitVec 1 := if v then 1 else 0
  h.code ++ h.phase ++ (0 : BitVec 15) ++ b (h.temps.any fun (t : BitVec 8) => decide (95 ≤ t.toNat)) ++
    b (s.layeravail != 0xFFFF || !s.scanFailed.isEmpty) ++ b h.fatal ++ b h.failed ++ b h.ready

/-- The GSC of a core's group; 0 on an idle core (R337). -/
def State.gscOf (s : State) (c : Nat) : X64 := ((s.taskOf c).map (·.gsc)).getD 0

/-- The value of a CSR of a core (Table 6.11); `none` for a number that the table lacks.
(DEDUCED: log entry 24.) -/
def State.csr (s : State) (c : Nat) (n : BitVec 12) : Option X64 :=
  let k := s.core c
  match n.toNat with
  | 0x000 => some (zx k.vt)
  | 0x001 => some (zx k.vrot)
  | 0x002 => some (zx k.prot)
  | 0x003 => some (zx k.reps.word)
  | 0x004 => some (zx k.vstat)
  | 0x005 => some (zx k.mcfg)
  | 0x010 => some (zx (s.corexy c))
  | 0x011 => some (zx k.grpshape)
  | 0x012 => some (s.gscOf c)
  | 0x013 => some (zx (s.ctxidOf c))
  | 0x014 => some (k.slotmapNext.getD k.slotmap)
  | 0x015 => some (zx s.layeravail)
  | 0x016 => some (zx (s.ctx (s.slotOf c)).dbgctl)
  | 0x020 => some (zx k.tcause)
  | 0x021 => some (zx k.tpc)
  | 0x022 => some (zx k.tstream)
  | 0x030 => some (zx s.hub.ageiv)
  | 0x031 => some (zx (vget s.hub.budget 0 0))
  | 0x032 => some (zx (vget s.hub.budget 1 0))
  | 0x033 => some (zx (vget s.hub.budget 2 0))
  | 0x034 => some (zx (vget s.hub.budget 3 0))
  | 0x040 => some (zx s.mgmtStatus)
  | _ => none

/-- A CSRR of this number needs P1 (Table 6.11). -/
def csrrP1 (n : BitVec 12) : Bool := decide (0x20 ≤ n.toNat) && decide (n.toNat ≤ 0x34)

/-- A CSRW of this number needs P1: those that the table gives P1, and those without effect whose CSRR needs it. -/
def csrwP1 (n : BitVec 12) : Bool := n == csrSLOTMAP || n == csrDBGCTL || csrrP1 n

/-- BUDGET0 to BUDGET3, which only P2 writes. -/
def csrBudget (n : BitVec 12) : Bool := decide (0x31 ≤ n.toNat) && decide (n.toNat ≤ 0x34)

/-- A CSRR of VSTAT waits for the flags of the A-stream instructions that have issued (R61). -/
def Core.vstatWaits (k : Core) (n : BitVec 12) : Bool := n == csrVSTAT && !(k.aPend.isEmpty && k.mmas.isEmpty)

/-- csrr xd, csr (R205, R206).
(DEDUCED: log entry 33.) -/
def execCsrr (d : BitVec 5) (n : BitVec 12) (s : State) : Out :=
  let c := s.me
  .next (s.finish
    (match s.csr c n with
     | none => .trap (s.illegal false)
     | some v =>
       if csrrP1 n && !s.isP1 c then .trap (s.privTrap (zx n))
       else if (s.core c).vstatWaits n then .wait s .other
       else .ok (s.setX d v)))

/-! ### Registers written by CSRW -/

/-- A reserved owner code of SLOTMAP is stored as 0 (R7, Table 3.5).
(DEDUCED: log entry 25.) -/
def slotmapNibbles (v : X64) : Nat → X64
  | 0 => 0
  | n + 1 =>
    let code := bitsNat v (4 * n + 3) (4 * n)
    slotmapNibbles v n ||| (if code ≤ 9 then BitVec.ofNat 64 (code * 2 ^ (4 * n)) else 0)

/-- A CSRW of SLOTMAP goes to every member column of the writer's group and takes effect at the next frame boundary
(R339). -/
def State.writeSlotmap (s : State) (c : Nat) (v : X64) : State :=
  let t := (s.core c).task
  { s with cores := s.cores.map fun (e : Nat × Core) =>
      if e.2.task = t ∧ t.isSome then (e.1, { e.2 with slotmapNext := some (slotmapNibbles v 16), slotmapAt := s.cycle }) else e }

/-- The effect of a CSRW that is permitted (Table 6.11). -/
def State.writeCsr (s : State) (c : Nat) (n : BitVec 12) (v : X64) : State :=
  if n = csrVSTAT then s.modCore c fun k => { k with vstat := w1c k.vstat v ||| k.vstatNow }
  else if n = csrSLOTMAP then s.writeSlotmap c v
  else if n = csrDBGCTL then s.modCtx (s.slotOf c) fun k => { k with dbgctl := v.setWidth 1 }
  else if n = csrAGEIV then { s with hub := { s.hub with ageiv := v.setWidth 32 } }
  else s

/-- csrw csr, xa (R205, R61, R339). -/
def execCsrw (a : BitVec 5) (n : BitVec 12) (s : State) : Out :=
  let c := s.me
  .next (s.finish
    (match s.csr c n with
     | none => .trap (s.illegal false)
     | some _ =>
       if csrBudget n || (csrwP1 n && !s.isP1 c) then .trap (s.privTrap (zx n))
       else .ok (s.writeCsr c n (s.x a))))

/-- SLOTMAP_TAKES_EFFECT: a written SLOTMAP of core `about.core` holds from a frame boundary on (R339, R87).
(DEDUCED: log entry 56.) -/
def execSlotmapTakesEffect (s : State) : Out :=
  match (s.core s.me).slotmapNext with
  | some v =>
    .next (if s.cycle % 8 = 0 ∧ (s.core s.me).slotmapAt < s.cycle then
        s.modCore s.me fun k => { k with slotmap := v, slotmapNext := none }
      else s)
  | none => .next s

/-! ### System instructions -/

/-- trap n (R207). -/
def execTrap (n : BitVec 8) (s : State) : Out :=
  .next (s.finish
    (if s.inSlot then .trap (s.illegal false)
     else .trap { cause := cDEBUG, detail := BitVec.ofNat 64 (1 + 256 * n.toNat) }))

/-- dbgbrk (R207): DEBUG when DBGCTL.EN is 1, else NOP. -/
def execDbgbrk (s : State) : Out :=
  .next (s.finish (if (s.ctx (s.slotOf s.me)).dbgctl = 1 then .trap { cause := cDEBUG } else .ok s))

/-- The members of the issuing core's task. -/
def State.members (s : State) : List Nat := match (s.core s.me).task with
  | some t => s.coresOf t
  | none => []

/-- eret (R207, R406): in a handler task it stops the task's streams, and when nothing of the task is under way it answers
the record as RESUME does and ends the task. -/
def execEret (s : State) : Out :=
  if s.inSlot then .next (s.finish (.trap (s.illegal false)))
  else match (s.core s.me).task, (s.taskOf s.me).bind (·.handler) with
    | some t, some (slot, rid) =>
      if s.members.all s.spent then
        let s' := s.members.foldl (fun s c => s.modCore c fun k => { k.stopAll with ended := true }) s
        let s' := match (s.ctx slot).unanswered rid with
          | some p => (match p.item with
            | .trap r => if r.async then s' else s'.resume slot p
            | .fault _ => s')
          | none => s'
        .next (s'.endTask t)
      else
        let stop (c : Nat) (k : Core) : Core :=
          let q := k.stopAll
          if c = s.me then q.setSeq .c (k.seq .c) else q
        let s' := s.members.foldl (fun s c => s.modCore c (stop c)) s
        .next (s'.finish (.wait s' .other))
    | _, _ => .next (s.finish (.trap (s.privTrap 0)))

/-- texit (R322): the member's streams stop, and it ends when nothing it issued is under way. -/
def execTexit (s : State) : Out :=
  if s.inSlot then .next (s.finish (.trap (s.illegal false)))
  else .next ((s.modCore s.me Core.stopAll).endMember s.me)

/-- halt (R207, R355): as TEXIT, and the core leaves dispatch when its task has ended. -/
def execHalt (s : State) : Out :=
  if s.inSlot then .next (s.finish (.trap (s.illegal false)))
  else if !s.isP1 s.me then .next (s.finish (.trap (s.privTrap 0)))
  else
    let s' := s.modCore s.me Core.stopAll
    .next (((s.core s.me).task.elim s' (s'.removeAfter s.about.core)).endMember s.me)

/-- A target buffer has a line within a byte range (R192). -/
def Steer.inRange (j : Steer) (start n : Nat) : Bool :=
  (j.st == .ready || j.st == .fetching) &&
    (decide (2 ^ 32 ≤ n) ||
      decide (j.target.toNat - j.target.toNat % 64 < start + n) && decide (start < j.target.toNat - j.target.toNat % 64 + 256))

/-- iinv xa, xb (R192): it waits as fence.rel.pkg; a length of 0 changes nothing.
(DEDUCED: log entry 36.) -/
def execIinv (a b : BitVec 5) (s : State) : Out :=
  let start := bitsNat (s.x a) 55 0
  let n := (s.x b).toNat
  let stale (j : Steer) : Steer := if j.inRange start n then { j with st := .stale } else j
  .next (s.finish
    (if !s.fenceRel 3 then .wait s .fence
     else if n = 0 then .ok s
     else .ok (s.modCore s.me fun k =>
       { k with seqs := k.seqs.map fun (q : Seq) => { q with j := q.j.map stale } })))

/-- ILLEGAL_OP: the word at the program counter of stream `about.stream` of core `about.core` is no instruction of the
stream (R149). -/
def execIllegalOp (s : State) : Out :=
  match s.fetch s.me s.st with
  | .word w =>
    if (decode s.st w).isNone && s.mayIssue s.me s.st then
      let s := { s with word := w }
      .next (s.raise s.me s.st (s.illegal false))
    else .next s
  | _ => .next s

end Sys2Proof.Machine
end

