-- ==== Sys2Proof/Machine/Hub.lean ====
section
/-! DEFINITION. The hub range (R314, R450): reads and writes of its registers, of the queue pages (R315), of the in-doubt
windows (R435), of the mailbox (R466) and of the error log (R463), and the event of a write by the host. -/

namespace Sys2Proof.Machine

/-- First physical address of the hub range (Table 3.8). -/
def hubBase : Nat := 0x2000000000000

/-- Bytes of BAR0 of PF0, which the host reaches the hub range through; and the class code, processing accelerator (R450). -/
def bar0Size : Nat := 0x100000000
def classCode : BitVec 16 := 0x1200

/-- The Memory_Active bit of each CXL memory range: 0 before READY, and after FAILED or FATAL (R453). -/
def Hub.memoryActive (h : Hub) : Bool := h.ready

/-! ### Reads -/

/-- TELEM (Table 17.1). -/
def Hub.telem (h : Hub) : X64 :=
  (0 : BitVec 8) ++ h.inlet ++ vget h.temps 3 0 ++ vget h.temps 2 0 ++ vget h.temps 1 0 ++ vget h.temps 0 0 ++ h.power

/-- FWVER (Table 17.1). -/
def Hub.fwver (h : Hub) : X64 := (0 : BitVec 15) ++ h.fw.slot ++ h.fw.security ++ h.fw.version

/-- QSTAT (Table 11.5). -/
def State.qstat (s : State) (q : Nat) : X64 :=
  let k := s.queue q
  (0 : BitVec 16) ++ k.fault ++ (0 : BitVec 5) ++ BitVec.ofNat 3 k.st.code ++ k.head

/-- The 16 bytes of an in-doubt entry (Table 16.8). -/
def InDoubt.bits (e : InDoubt) : BitVec 128 := e.pa ++ (0 : BitVec 8) ++ e.op ++ e.reason ++ e.node ++ e.serial

/-- An 8-byte word of the in-doubt window of a context slot (Table 16.7). -/
def Ctx.doubtWord (k : Ctx) (o : Nat) : X64 :=
  if o = 0 then BitVec.ofNat 64 k.indoubt.length
  else if o < 0x10 then 0
  else match k.indoubt[(o - 0x10) / 16]? with
    | some e => if o % 16 = 0 then fld e.bits 0 64 else fld e.bits 64 64
    | none => 0

/-- The mailbox as 256 bytes: CMD, STATUS and ARGS (R466). -/
def Mbox.word (m : Mbox) (o : Nat) : X64 :=
  if o = 0 then m.cmd
  else if o = 8 then zx (if m.running then (0xFF : BitVec 8) else m.status)
  else fld m.args (8 * (o - 16)) 64

/-- The 8-byte word at an offset of the hub range that is a multiple of 8; a register that is write-only, and an offset without
a register, read 0.
(DEDUCED: log entry 95.) -/
def State.hubWord (s : State) (o : Nat) : X64 :=
  let h := s.hub
  if o < 0x1000 then
    (match o with
     | 0x000 => zx s.mgmtStatus
     | 0x008 => zx h.modlim
     | 0x010 => h.telem
     | 0x020 => zx (vget h.budget 0 0)
     | 0x028 => zx (vget h.budget 1 0)
     | 0x030 => zx (vget h.budget 2 0)
     | 0x038 => zx (vget h.budget 3 0)
     | 0x040 => zx h.poisonfwd
     | 0x048 => h.errcnt
     | 0x050 => h.fwver
     | _ => if 0x800 ≤ o ∧ o < 0x900 then h.mbox.word (o - 0x800) else 0)
  else if o < 0x2000 then
    (match o with
     | 0x1010 => h.qtbase
     | 0x1018 => h.gtbase
     | 0x1028 => zx h.scanper
     | 0x1038 => h.plbase
     | 0x1040 => zx h.plcount
     | 0x1058 => h.ctbase
     | 0x1060 => zx h.fhctx
     | 0x1068 => zx h.nodeid
     | 0x1070 => zx h.rto
     | 0x1078 => h.expbase
     | 0x1080 => zx h.expcount
     | 0x1088 => h.ktbase
     | _ => 0)
  else if 0x10000 ≤ o ∧ o < 0x12000 then fld ((look ((o - 0x10000) / 32) h.errlog).getD 0) (8 * (o % 32)) 64
  else if 0x40000000 ≤ o ∧ o < 0x60000000 then (if o % 0x1000 = 8 then s.qstat ((o - 0x40000000) / 0x1000) else 0)
  else if 0x80000000 ≤ o ∧ o < 0x90000000 then
    (s.ctx (BitVec.ofNat 8 ((o - 0x80000000) / 0x100000))).doubtWord (o % 0x100000)
  else 0

/-- `n` bytes of the hub range from a physical address (R314): a read of any size returns the bytes it covers. -/
def State.hubBytes (s : State) (pa : Nat) : Nat → List Byte
  | 0 => []
  | n + 1 =>
    let o := pa - hubBase
    fld (s.hubWord (o - o % 8)) (8 * (o % 8)) 8 :: s.hubBytes (pa + 1) n

/-! ### Writes -/

/-- The state after an event's meaning. -/
def State.via (s : State) (f : State → Out) (a : About) : State :=
  match f { s with about := a } with
  | .next t => { t with about := s.about }
  | _ => s

/-- A write to QCMD (Table 11.3). -/
def State.qcmd (s : State) (v : X64) : State :=
  let a : About := { k := bitsNat v 17 0 }
  match bitsNat v 63 56 with
  | 1 => s.via execQueueEnable a
  | 2 => s.via execQueueDrain a
  | 3 => s.via execQueueHalt a
  | 4 => s.via execQueueResume a
  | 5 => s.via execQueueSkip a
  | 6 => s.via execQueueDisable a
  | _ => s

/-- A write to GCMD (Table 11.3). -/
def State.gcmd (s : State) (v : X64) : State :=
  let a : About := { k := bitsNat v 12 0 }
  match bitsNat v 63 56 with
  | 1 => s.via execGraphLoad a
  | 2 => s.via execGraphUnload a
  | _ => s

/-- A write to CORECMD (Table 12.8). -/
def State.corecmd (s : State) (v : X64) : State :=
  match bitsNat v 63 56 with
  | 1 => s.coreReturn (fld v 0 10)
  | 2 => s.coreRemove (fld v 0 10)
  | _ => s

/-- A write to FAULTCMD (Table 14.7). -/
def State.faultcmd (s : State) (v : X64) : State :=
  match bitsNat v 63 56 with
  | 1 => s.faultRetry (bitsNat v 15 0)
  | 2 => s.faultAbsent (bitsNat v 15 0)
  | _ => s

/-- A write to TRAPCMD by a context, or by the host (Table 15.4). -/
def State.trapWrite (s : State) (v : X64) (by_ : Option Slot) : State :=
  let slot : Slot := fld v 32 8
  let rid := bitsNat v 31 0
  match bitsNat v 63 56 with
  | 1 => s.trapcmd slot rid .resume (by_ == some slot)
  | 2 => s.trapcmd slot rid .handler (by_ == some slot)
  | 3 => s.trapcmd slot rid .kill (by_ == some slot)
  | 4 => s.trapcmd slot rid .rollback (by_ == some slot)
  | _ => s

/-- A write to CTXCMD by a context, or by the host (Table 15.4). -/
def State.ctxWrite (s : State) (v : X64) (by_ : Option Slot) : State :=
  let slot : Slot := fld v 0 8
  let own := by_ == some slot
  match bitsNat v 63 56 with
  | 1 => s.ctxcmd slot .create own
  | 2 => s.ctxcmd slot .load own
  | 3 => s.ctxcmd slot .start own
  | 4 => s.ctxcmd slot .freeze own
  | 5 => s.ctxcmd slot .unfreeze own
  | 6 => s.ctxcmd slot .kill own
  | 7 => s.ctxcmd slot .rollback own
  | 8 => s.ctxcmd slot .destroy own
  | _ => s

/-- No pool slot but an EMPTY one (Table 14.7). -/
def State.poolEmpty (s : State) : Bool := s.pool.all fun (e : Nat × PoolSlot) => e.2.st == .empty

/-- A session is open on the package, as requester or as owner (R418). -/
def State.sessionOpen (s : State) : Bool :=
  !s.osessions.isEmpty || s.ctxs.any fun (e : Nat × Ctx) => e.2.sessions.any fun (x : Nat × Session) =>
    x.2.st == .opened || x.2.st == .opening || x.2.st == .closing

/-- A base register holds a multiple of 4 KiB (Tables 11.3, 14.7, 15.4, 16.1, 17.1).
(DEDUCED: log entry 88.) -/
def pageBase (v : X64) : X64 := v &&& 0xFFFFFFFFFFFFF000

/-- A whole 8-byte write to the register at an offset of the hub range (R314): writes that a register does not take are
ignored. -/
def State.hubReg (s : State) (o : Nat) (v : X64) (by_ : Option Slot) : State :=
  let h := s.hub
  match o with
  | 0x0040 => { s with hub := { h with poisonfwd := v.setWidth 2 } }
  | 0x1000 => s.qcmd v
  | 0x1008 => s.gcmd v
  | 0x1010 => { s with hub := { h with qtbase := pageBase v } }
  | 0x1018 => { s with hub := { h with gtbase := pageBase v } }
  | 0x1020 => s.corecmd v
  | 0x1028 =>
    let p := bitsNat v 6 0
    if 11 ≤ p ∧ p ≤ 100 then { s with hub := { h with scanper := BitVec.ofNat 7 p } } else s
  | 0x1030 => s.faultcmd v
  | 0x1038 => if s.poolEmpty then { s with hub := { h with plbase := pageBase v } } else s
  | 0x1040 =>
    if s.poolEmpty && decide (bitsNat v 14 0 ≤ 24576) then { s with hub := { h with plcount := v.setWidth 15 } } else s
  | 0x1048 => s.trapWrite v by_
  | 0x1050 => s.ctxWrite v by_
  | 0x1058 => { s with hub := { h with ctbase := pageBase v } }
  | 0x1060 => { s with hub := { h with fhctx := v.setWidth 8 } }
  | 0x1068 => if s.sessionOpen then s else { s with hub := { h with nodeid := v.setWidth 12 } }
  | 0x1070 =>
    let r := bitsNat v 19 0
    if 1000 ≤ r ∧ r ≤ 1000000 then { s with hub := { h with rto := BitVec.ofNat 20 r } } else s
  | 0x1078 => { s with hub := { h with expbase := pageBase v } }
  | 0x1080 => if bitsNat v 10 0 ≤ 1024 then { s with hub := { h with expcount := v.setWidth 11 } } else s
  | 0x1088 => { s with hub := { h with ktbase := pageBase v } }
  | _ =>
    if 0x40000000 ≤ o ∧ o < 0x60000000 ∧ o % 0x1000 = 0 then s.kickQueue ((o - 0x40000000) / 0x1000) v
    else if 0x80000000 ≤ o ∧ o < 0x90000000 ∧ o % 0x100000 = 8 then
      s.idpop (BitVec.ofNat 8 ((o - 0x80000000) / 0x100000)) (bitsNat v 15 0)
    else s

/-- Commands of the mailbox that need READY (Table 17.10). -/
def mboxNeedsReady (cmd : X64) : Bool := cmd == 1 || cmd == 2 || cmd == 3

/-- A command reaches the mailbox (R466): a code that Table 17.10 lacks is a bad argument. -/
def Mbox.start (m : Mbox) (ready : Bool) (cmd : X64) : Mbox :=
  if m.running then m
  else if !(decide (1 ≤ cmd.toNat) && decide (cmd.toNat ≤ 5)) then { m with cmd := cmd, status := 1 }
  else if mboxNeedsReady cmd && !ready then { m with cmd := cmd, status := 2 }
  else { m with cmd := cmd, running := true }

/-- A command of the board controller reaches the mailbox with its arguments (R466). -/
def Mbox.board (m : Mbox) (ready : Bool) (cmd : Nat) (bs : List Byte) : Mbox :=
  if m.running then m else { m with args := BitVec.ofNat 1920 (bytesNat bs) }.start ready (BitVec.ofNat 64 cmd)

/-- One byte of ARGS is written. -/
def Mbox.setArg (m : Mbox) (i : Nat) (b : Byte) : Mbox :=
  let mask : BitVec 1920 := (0xFF : BitVec 1920) <<< (8 * i)
  { m with args := (m.args &&& ~~~ mask) ||| (b.setWidth 1920 <<< (8 * i)) }

/-- Bytes written to the mailbox from an offset of it (R466): ARGS byte by byte, then the command when byte 0 is covered. A
write to STATUS has no effect.
(DESIGN CHOICE: log entry 85.) -/
def Mbox.write (m : Mbox) (ready : Bool) (o : Nat) (bs : List Byte) : Mbox :=
  let m' := bs.zipIdx.foldl (fun (m : Mbox) e =>
    let i := o + e.2
    if 16 ≤ i ∧ i < 256 then m.setArg (i - 16) e.1 else m) m
  if o < 8 then
    let old := natBytes m.cmd.toNat 8
    let new := (old.take o ++ bs ++ old.drop (o + bs.length)).take 8
    if o = 0 then m'.start ready (BitVec.ofNat 64 (bytesNat new))
    else if m.running then m' else { m' with cmd := BitVec.ofNat 64 (bytesNat new) }
  else m'

/-- The whole registers that a write of bytes at an offset of the hub range covers, in order (R314). -/
def hubRegs (o : Nat) (bs : List Byte) : List (Nat × X64) :=
  if o % 8 = 0 then (List.range (bs.length / 8)).map fun i => (o + 8 * i, BitVec.ofNat 64 (bytesNat ((bs.drop (8 * i)).take 8)))
  else []

/-- A write of bytes to the hub range from a physical address (R314), by a context or by the host: it writes each register that it
covers whole, when it is aligned to 8, and of the mailbox every byte that it covers. -/
def State.hubWrite (s : State) (pa : Nat) (bs : List Byte) (by_ : Option Slot) : State :=
  let o := pa - hubBase
  let first := Nat.max o 0x800
  let part := (bs.drop (first - o)).take (0x900 - first)
  let s := if part = [] then s else { s with hub := { s.hub with mbox := s.hub.mbox.write s.hub.ready (first - 0x800) part } }
  (hubRegs o bs).foldl (fun s e => s.hubReg e.1 e.2 by_) s

/-- A write to the hub range gives a value to a KICK (R315). -/
def kicks (pa : Nat) (bs : List Byte) : Bool :=
  (hubRegs (pa - hubBase) bs).any fun e => decide (0x40000000 ≤ e.1) && decide (e.1 < 0x60000000) && e.1 % 0x1000 == 0

/-- Such a write of the host port, rank 0, or of a core, in its turn (R316); none when it reaches the hub in a later cycle. -/
def State.hubWriteFrom (s : State) (rank pa : Nat) (bs : List Byte) (by_ : Option Slot) : Option State :=
  if kicks pa bs then
    (if s.kickTurn rank then some ({ s with kickAt := (s.cycle, rank) }.hubWrite pa bs by_) else none)
  else some (s.hubWrite pa bs by_)

/-- REGISTER_WRITE: the host writes the bytes `about.bytes` at offset `about.addr` of BAR0 (R314, R450). Before READY and after
FAILED or FATAL the management page alone takes writes (R453). -/
def execRegisterWrite (s : State) : Out :=
  let o := s.about.addr.toNat
  .next (if o < bar0Size ∧ (s.hub.ready ∨ o + s.about.bytes.length ≤ 0x1000) then
      (s.hubWriteFrom 0 (hubBase + o) s.about.bytes none).getD s
    else s)

end Sys2Proof.Machine
end

