-- ==== Sys2Proof/Machine/Repair.lean ====
section
/-! DEFINITION. The upkeep of the tower: write buffers (R84), corrected lines and scrubbing (R82), failed banks and their rebuild
(R109 to R112), lanes (R98, R100) and the loss of a layer (R113 to R115). -/

namespace Sys2Proof.Machine

/-! ### Code groups (R80) -/

/-- The code group that an event is about: column, layer and group, where they exist. -/
def State.aboutGroup (s : State) : Option (Nat × Nat × Nat) :=
  let layer := s.about.level.toNat
  let g := s.about.n
  if 1 ≤ layer ∧ layer ≤ 4 ∧ g < groupsOf layer then some (s.about.core.toNat, layer, g) else none

/-! ### The repair record (R17) -/

/-- What the repair record holds of a code group: its failed banks and those that spares replace. -/
def BankGroup.recorded (b : BankGroup) : BankGroup := { failed := b.failed, replaced := b.replaced }

/-- The signature of a record verifies under key slot 1 (R17). -/
def RepairRec.verified (r : RepairRec) : Bool := ecdsaOk devicePublic (Config.recordBytes { r with sig := 0 }) r.sig

/-- The record that the machine's lanes, banks and the layers outside the map make. -/
def State.recordNow (s : State) (layers : BitVec 16) : RepairRec :=
  { s.repairs with lanes := s.spares, banks := s.banks.map fun (e : Nat × BankGroup) => (e.1, e.2.recorded), layers := layers }

/-- REPAIR_RECORD_WRITE: a changed record is signed with key slot 1 and written to flash (R17, R457).
(DEDUCED: log entry 101.) -/
def State.putRecord (s : State) (r : RepairRec) : State :=
  if r = s.repairs then s
  else
    let r := { r with sig := 0 }
    { s with repairs := { r with sig := deviceSign (Config.recordBytes r) s.fresh }, fresh := s.fresh + 1 }

/-- The record takes the lanes and banks of the machine as they now are (R17, R98, R109). -/
def State.recordRepairs (s : State) : State := s.putRecord (s.recordNow s.repairs.layers)

/-! ### Write buffers and corrections -/

/-- WRITE_BUFFER_DRAIN: the write buffer of code group `about.n` of layer `about.level` of column `about.core` drains into the
banks, with no effect that an agent can observe (R84). -/
def execWriteBufferDrain (s : State) : Out :=
  .next (match s.aboutGroup with
    | none => s
    | some (c, k, g) => { s with wbuf := s.wbuf.filter fun l => !((lineGroup l).any fun e => e.1 == groupKey c k g) })

/-- CORRECTED_WRITE_BACK: the corrected line number `about.k` is written back (R82). -/
def execCorrectedWriteBack (s : State) : Out := .next { s with soft := s.soft.filter fun l => l != s.about.k }

/-- A running rebuild of a group has passed `n` rows, or more (R110). -/
def State.walkTo (s : State) (g n rows : Nat) : State :=
  let b := s.bank g
  if b.rebuilding.isSome then s.setBank g { b with walked := Nat.max b.walked (Nat.min n rows) } else s

/-- The symbols in error of codeword `c` of a row with these erasures, of a list whose entries are 4 · bank + codeword (R81). -/
def errorsOf (erased errs : List Nat) (c : Nat) : List Nat :=
  errs.eraseDups.filter fun n => n % 4 == c && decide (n / 4 < 18) && !erased.contains (n / 4)

/-- A read of a line of the tower of column `c` finds the symbols `errs` in error beside its erasures: each codeword corrects one symbol when
no symbol of it is an erasure; more is detected, and the line is poisoned (R82, R83, R111). A correction is an error of
Table 17.7. -/
def State.meetErrors (s : State) (c line : Nat) (errs : List Nat) : State :=
  match lineGroup line with
  | none => s
  | some (g, row) =>
    let erased := (s.bank g).erased row
    let bad := (List.range 4).map (errorsOf erased errs)
    if bad.all List.isEmpty then s
    else if erased = [] ∧ (bad.all fun l => decide (l.length ≤ 1)) then
      { s.error 0 0 c 0xFF (BitVec.ofNat 64 (64 * line)) 0 with soft := setIns line s.soft }
    else s.poisonLine line

/-- SCRUB: row `about.k` of a code group is read, and `about.nats` are the symbols in error, each as 4 · bank + codeword, beside the
erasures; a rebuild's walk has passed `about.w0` rows (R82, R83, R110 to R112).
(DESIGN CHOICE: log entry 30.) -/
def execScrub (s : State) : Out :=
  .next (match s.aboutGroup with
    | none => s
    | some (c, k, g) =>
      let line := rowLine c k g s.about.k
      let s := s.walkTo (groupKey c k g) s.about.w0.toNat (rowsOf k)
      if rowsOf k ≤ s.about.k ∨ !layerIn s.layeravail (stackOf c) k ∨ s.wbuf.contains line then s
      else s.meetErrors c line s.about.nats)

/-! ### Layer loss -/

/-- A layer of a stack becomes RETIRING, once (Table 3.9): a contained error (Table 17.7). -/
def State.retire (s : State) (stack layer : Nat) : State :=
  if layerIn s.retiring stack layer || !layerIn s.layeravail stack layer then s
  else { s with retiring := s.retiring ||| BitVec.ofNat 16 (2 ^ (4 * stack + (layer - 1))) }.error 1 0 stack 0xFF 0
    (BitVec.ofNat 64 layer)

/-- A context holds an allotment in a layer of a stack. -/
def Desc.hasLayer (d : Desc) (stack layer : Nat) : Bool :=
  d.layers.getLsbD layer && (List.range 1024).any fun c => d.colmask.getLsbD c && stackOf c == stack

/-- The runtime has saved or killed every context that holds an allotment in a layer (R113). -/
def State.layerFree (s : State) (stack layer : Nat) : Bool :=
  s.ctxs.all fun (e : Nat × Ctx) =>
    e.2.st == .saved || e.2.st == .dead || e.2.st == .destroyed || e.2.st == .created || !e.2.desc.hasLayer stack layer

/-- A key lies in a layer of a stack. -/
def inLayer (stack layer key : Nat) : Bool := match regionOf key with
  | .tower k c _ => k == layer && stackOf c == stack
  | _ => false

/-- RECOVERY_POINT: layer `about.level` of stack `about.n`, RETIRING and held by no context, leaves the address map, the
repair record is updated, and its contents are lost (R17, R113, R115). -/
def execRecoveryPoint (s : State) : Out :=
  let k := s.about.n
  let layer := s.about.level.toNat
  let gone (l : Nat) : Bool := inLayer k layer (64 * l)
  .next (if k < 4 ∧ 1 ≤ layer ∧ layer ≤ 4 ∧ layerIn s.retiring k layer ∧ s.layerFree k layer then
      let bit : BitVec 16 := BitVec.ofNat 16 (2 ^ (4 * k + (layer - 1)))
      { s.putRecord (s.recordNow (s.repairs.layers ||| bit)) with
        layeravail := s.layeravail &&& ~~~ bit
        retiring := s.retiring &&& ~~~ bit
        mem := s.mem.filter fun (e : Host.Cell) => !inLayer k layer e.1
        poison := s.poison.filter fun l => !gone l
        wbuf := s.wbuf.filter fun l => !gone l
        soft := s.soft.filter fun l => !gone l }
    else s)

/-! ### Banks (R109 to R112) -/

/-- A bank of a group is marked failed: a rebuild starts when the spare is unused (R110); a second failure stops it, and the spare
keeps the rows it holds (R112). -/
def BankGroup.fail (b : BankGroup) (i : Nat) : BankGroup :=
  if b.failed.contains i then b
  else if b.failed = [] ∧ b.replaced = [] then { failed := [i], rebuilding := some i, spareFor := some i }
  else { b with failed := b.failed ++ [i], rebuilding := none }

/-- The lines of a group whose rows have two erasures are poisoned, whether or not its write buffer holds them (R84, R112).
(DEDUCED: log entry 26.) -/
def State.poisonLost (s : State) (c k g : Nat) : State :=
  (List.range (rowsOf k)).foldl (fun s row =>
    let line := rowLine c k g row
    if s.lineLost line then s.poisonLine line else s) s

/-- BANK_MARKED_FAILED: bank `about.k` of code group `about.n` of layer `about.level` of column `about.core` is marked failed; the
walk of a rebuild in progress has passed `about.w0` rows (R109, R110, R112). The repair record takes it (R17).
(DESIGN CHOICE: log entry 27.) -/
def execBankMarkedFailed (s : State) : Out :=
  .next (match s.aboutGroup with
    | none => s
    | some (c, k, g) =>
      let i := s.about.k
      let key := groupKey c k g
      let s := s.walkTo key s.about.w0.toNat (rowsOf k)
      if 18 ≤ i ∨ (s.bank key).failed.contains i then s
      else
        let s := ((s.error 0 0 c 0xFF 0 (BitVec.ofNat 64 i)).setBank key ((s.bank key).fail i)).recordRepairs
        if (s.bank key).lost then (s.poisonLost c k g).retire (stackOf c) k else s)

/-- REBUILD_COMPLETE: the walk of the rebuild of code group `about.n` of layer `about.level` of column `about.core` has ended, and at
a frame boundary the spare replaces the failed bank (R110). -/
def execRebuildComplete (s : State) : Out :=
  .next (match s.aboutGroup with
    | none => s
    | some (c, k, g) =>
      let b := s.bank (groupKey c k g)
      match b.rebuilding with
      | some i =>
        if s.cycle % 8 = 0 then
          (s.setBank (groupKey c k g) { failed := b.failed.filter fun x => x != i, replaced := [i] }).recordRepairs
        else s
      | none => s)

/-! ### Lanes (R98, R100) -/

/-- Core cycles in 1 ms at 700 MHz (R31). -/
def cyclesPerMs : Nat := 700000

/-- A lane of a group of a segment has had two errors within 1 ms (R98). -/
def State.laneFails (s : State) (key : Nat) : Bool :=
  let mine := s.laneErrs.filter fun e => e.1 / 33 == key
  mine.zipIdx.any fun a => mine.zipIdx.any fun b =>
    decide (a.2 < b.2) && a.1.1 == b.1.1 && decide (b.1.2 - a.1.2 ≤ cyclesPerMs)

/-- LANE_RETIREMENT: a lane of group `about.n` of segment `about.level` (0: compute die to T1) of column `about.core` that has had two
errors within 1 ms, or that fails the lane test, with `about.yes`, is retired. At a frame boundary its group is steered onto the
spare, which the repair record takes (R17); with the spare in use, the layers from the segment's far end on are retired (R98, R100). -/
def execLaneRetirement (s : State) : Out :=
  let c := s.about.core.toNat
  let seg := s.about.level.toNat
  let key := c * 128 + seg * 32 + s.about.n
  .next (if 4 ≤ seg ∨ 32 ≤ s.about.n ∨ s.cycle % 8 ≠ 0 ∨ !(s.about.yes || s.laneFails key) then s
    else if s.spares.contains key then
      (List.range (4 - seg)).foldl (fun s i => s.retire (stackOf c) (seg + 1 + i)) s
    else
      let t := s.error 0 3 c 0xFF 0 (BitVec.ofNat 64 (32 * seg + s.about.n))
      ({ t with spares := setIns key s.spares, laneErrs := s.laneErrs.filter fun e => e.1 / 33 != key } : State).recordRepairs)

end Sys2Proof.Machine
end

