-- ==== Sys2Proof/Machine/Bringup.lean ====
section
/-! DEFINITION. Bring-up (R452 to R456), the mailbox commands (R466), uncontained errors (R462), power and temperature
(R468, R469), the host port (R453, R459) and SPDM (R458). -/

namespace Sys2Proof.Machine

/-! ### The grid (R14) -/

/-- Every site that a choice of KX and KY of a die keeps passes self-test. -/
def gridOk (stack resets : Nat) (k : Nat × Nat) : Bool :=
  (List.range 17).all fun x => (List.range 17).all fun y =>
    x == k.1 || y == k.2 || Config.sitePasses stack x y resets

/-- Skipped lines in the die's interior. -/
def interior (k : Nat × Nat) : Nat :=
  (if 1 ≤ k.1 ∧ k.1 ≤ 15 then 1 else 0) + (if 1 ≤ k.2 ∧ k.2 ≤ 15 then 1 else 0)

/-- The preferred one of two choices: fewest skipped lines in the interior, then the larger KY, then the larger KX. -/
def betterGrid (a b : Nat × Nat) : Bool :=
  decide (interior a < interior b) ||
    (interior a == interior b && (decide (b.2 < a.2) || (a.2 == b.2 && decide (b.1 < a.1))))

/-- KX and KY of a die (R14): the repair record's choice while it still passes, else the best one that passes. -/
def RepairRec.grid (r : RepairRec) (stack resets : Nat) : Option (Nat × Nat) :=
  let kept := (vget r.sites stack none).filter fun k =>
    decide (k.1 ≤ 16) && decide (k.2 ≤ 16) && gridOk stack resets k
  match kept with
  | some k => some k
  | none =>
    let all := (List.range 17).flatMap fun x => (List.range 17).map fun y => (x, y)
    (all.filter (gridOk stack resets)).foldl (fun (r : Option (Nat × Nat)) k => match r with
      | none => some k
      | some b => if betterGrid k b then some k else some b) none

/-! ### Firmware (R454, R456) -/

/-- The image of a firmware slot may run. -/
def Firmware.valid (f : Firmware) (i : BitVec 1) : Bool :=
  let e := vget f.images i.toNat (0, 0, false)
  e.2.2 && decide (f.floor.toNat ≤ e.2.1.toNat)

/-- The selector as the ROM reads it: PREF and TRIAL. -/
def Firmware.selector (f : Firmware) (resets : Nat) : BitVec 1 × Option (BitVec 1) :=
  if Config.selectorOk resets then (f.pref, f.trial) else (0, none)

/-- The slots in the order in which they are tried. -/
def Firmware.order (f : Firmware) (resets : Nat) : List (BitVec 1) :=
  match f.selector resets with
  | (pref, some t) => [t, pref]
  | (pref, none) => [pref, ~~~ pref]

/-- Phase 1: the selector's TRIAL is cleared, and the first slot that verifies runs. -/
def Firmware.boot (f : Firmware) (resets : Nat) : Option Firmware :=
  let f' := { f with pref := (f.selector resets).1, trial := none }
  ((f.order resets).find? f.valid).map fun i =>
    let e := vget f.images i.toNat (0, 0, false)
    { f' with slot := i, version := e.1, security := e.2.1 }

/-- READY is reached: PREF becomes the running slot, and a staged image raises the security version floor. -/
def Firmware.reached (f : Firmware) (staged : Bool) : Firmware :=
  { f with pref := f.slot, floor := if staged && decide (f.floor.toNat < f.security.toNat) then f.security else f.floor }

/-! ### Budgets (R469) -/

/-- BUDGETk for a module limit in W, the fixed power in mW and F(k) in hundredths. -/
def budgetOf (modlim fixed f : Nat) : BitVec 24 := BitVec.ofNat 24 (Nat.min ((modlim * 1000 - fixed) * f / 400) 409600)

/-- BUDGET0 to BUDGET3 are written. -/
def Hub.putBudgets (h : Hub) (fixed : Nat) : Hub :=
  { h with budget := h.factor.map fun f => budgetOf h.modlim.toNat fixed f }

/-- F(k) after a period, by the die's temperature. -/
def nextFactor (temp f : Nat) : Nat := if 95 ≤ temp then Nat.max (f - 5) 50 else if temp ≤ 90 then Nat.min (f + 1) 100 else f

/-- BUDGET_PERIOD: a period of 1 ms has ended, with a mean of `about.w0` mW for LPDDR-6, links, hub and leakage, a module power of
`about.k` W and a coolant inlet of `about.n` °C: F(k) and the budgets are computed and written (R469), and TELEM (R450). Each period is
accounted once, in the cycle in which it ends. -/
def execBudgetPeriod (s : State) : Out :=
  if s.cycle / cyclesPerMs ≤ s.periods then .next s else
  let h := s.hub
  let f := Vector.ofFn fun (i : Fin 4) => nextFactor (vget h.temps i.val 0).toNat (vget h.factor i.val 100)
  let h := { h with factor := f, power := BitVec.ofNat 16 s.about.k, inlet := BitVec.ofNat 8 s.about.n }
  .next { s with hub := h.putBudgets s.about.w0.toNat, periods := s.periods + 1 }

/-! ### Module reset (R452) -/

/-- The repair state of a code group after self-test: a failed bank with an unused spare is rebuilt (Table 17.3, phase 4). -/
def BankGroup.rebuilt (b : BankGroup) : BankGroup :=
  match b.failed, b.replaced with
  | x :: t, [] => { failed := t, replaced := [x] }
  | f, r => { failed := f, replaced := r }

/-- A module reset loses everything but host memory, the flash with its firmware and its repair record (R17, R454), the key slots and
the host's own settings; the temperatures are measured anew by events, and till then THERM reads its reset value 0 (R8, Table 17.2); the
inlet and the power of TELEM, for which the spec gives no reset value, keep their last values. The count of resets rises by 1.
(DESIGN CHOICE: log entry 89.) -/
def State.coldStart (s : State) : State :=
  let h := s.hub
  { mem := s.mem.filter fun e => !inPackage e.1
    fresh := s.fresh
    about := s.about
    repairs := s.repairs
    hub := { fw := h.fw, keys := h.keys, inlet := h.inlet, power := h.power, severity := h.severity
             msgs := h.msgs, cxlCache := h.cxlCache, hdmBase := h.hdmBase, hdmSize := h.hdmSize
             resets := h.resets + 1 } }

/-- Bring-up stops in a phase (R452): CODE and FAILED are set, and a record goes to ERRLOG.
(DEDUCED: log entry 90.) -/
def State.bringupFails (s : State) (phase code src detail : Nat) : State :=
  let s := s.logErr 4 src 0 0xFF 0 (BitVec.ofNat 64 detail)
  { s with hub := { s.hub with phase := BitVec.ofNat 4 phase, code := BitVec.ofNat 8 code, failed := true } }

/-- Phase 2: the record that bring-up starts from; one whose signature does not verify is ignored (Table 17.3). -/
def State.bootRecord (s : State) : RepairRec := if s.repairs.verified then s.repairs else {}

/-- A failing lane joins those steered onto spares (R98). -/
def lanesAfter (r : RepairRec) (resets : Nat) : List Nat := (Config.lanesFound resets).foldl (fun l k => setIns k l) r.lanes

/-- A failing bank joins those of its group that are marked failed (R109). -/
def addFailed (banks : List (Nat × BankGroup)) (e : Nat × Nat) : List (Nat × BankGroup) :=
  let b := (look e.1 banks).getD {}
  if b.failed.contains e.2 ∨ b.replaced.contains e.2 ∨ 18 ≤ e.2 then banks else put e.1 { b with failed := b.failed ++ [e.2] } banks

/-- The banks after phase 4: those of the record and those that self-test finds, rebuilt where a spare is left (Table 17.3). -/
def banksAfter (r : RepairRec) (resets : Nat) : List (Nat × BankGroup) :=
  ((Config.banksFound resets).foldl addFailed r.banks).map fun (e : Nat × BankGroup) => (e.1, e.2.rebuilt)

/-- A lane fails that needs a spare in use: the segment's layers are lost (R100). -/
def lanesLost (r : RepairRec) (resets stack layer : Nat) : Bool :=
  (Config.lanesFound resets).any fun k => r.lanes.contains k && stackOf (k / 128) == stack && decide (k % 128 / 32 < layer)

/-- A code group of a layer has lost two banks (R112). -/
def banksLost (banks : List (Nat × BankGroup)) (stack layer : Nat) : Bool :=
  banks.any fun (e : Nat × BankGroup) => e.2.lost && stackOf (e.1 / 8) == stack && e.1 / 2 % 4 + 1 == layer

/-- The layers that phase 4 leaves out of the map (R113 to R115; Table 17.3). -/
def layersLost (r : RepairRec) (banks : List (Nat × BankGroup)) (resets : Nat) : BitVec 16 :=
  (List.range 16).foldl (fun v i =>
    if !Config.layerPasses (i / 4) (i % 4 + 1) resets || lanesLost r resets (i / 4) (i % 4 + 1) || banksLost banks (i / 4) (i % 4 + 1) then
      v ||| BitVec.ofNat 16 (2 ^ i)
    else v) 0

/-- The errors that self-test finds are recorded (R98, R109, R113, R461, Table 17.7): the lanes and banks that it adds to the record, and the
layers that phase 4 retires. -/
def State.testErrors (s : State) (r : RepairRec) (lost : BitVec 16) : State :=
  let n := s.hub.resets
  let s := ((Config.lanesFound n).filter fun k => !r.lanes.contains k).foldl
    (fun (s : State) k => s.error 0 3 (k / 128) 0xFF 0 (BitVec.ofNat 64 (k % 128))) s
  let known (e : Nat × Nat) : Bool := (look e.1 r.banks).any fun b => b.failed.contains e.2 || b.replaced.contains e.2
  let s := ((Config.banksFound n).filter fun e => decide (e.2 < 18) && !known e).foldl
    (fun (s : State) e => s.error 0 0 (e.1 / 8) 0xFF 0 (BitVec.ofNat 64 e.2)) s
  ((List.range 16).filter fun i => lost.getLsbD i && !r.layers.getLsbD i).foldl
    (fun (s : State) i => s.error 1 0 (i / 4) 0xFF 0 (BitVec.ofNat 64 (i % 4 + 1))) s

/-- The phases of Table 17.3 after phase 1, with the running firmware and whether it is a staged image, and the fixed power
that phase 8 takes. -/
def State.phases (s : State) (fw : Firmware) (staged : Bool) (fixed : Nat) : State :=
  let n := s.hub.resets
  let s := { s with hub := { s.hub with fw := fw } }
  let r := s.bootRecord
  if !Config.phasePasses 2 n then s.bringupFails 3 2 6 0
  else if !Config.phasePasses 3 n then s.bringupFails 3 3 4 0
  else
    let grid := (List.range 4).map fun k => r.grid k n
    match grid.findIdx? Option.isNone with
    | some k => s.bringupFails 4 4 1 k
    | none =>
      let banks := banksAfter r n
      let lost := layersLost r banks n
      let new : RepairRec :=
        { sites := Vector.ofFn fun i => (grid[i.val]?).getD none, lanes := lanesAfter r n, layers := lost, sig := r.sig
          banks := banks.map fun (e : Nat × BankGroup) => (e.1, e.2.recorded) }
      let s := s.testErrors r lost
      if !Config.phasePasses 5 n then s.bringupFails 5 5 2 0
      else if new ≠ s.repairs ∧ !Config.phasePasses 6 n then s.bringupFails 7 6 11 0
      else
        let s := s.putRecord new
        let site (i : Nat) : Nat × Nat := ((grid[i]?).getD none).getD (16, 16)
        let h := { [0, 1, 2, 3].foldl (fun h port => h.enumerate port n) s.hub with ready := true, phase := 8, fw := fw.reached staged }
        { s with
          kx := Vector.ofFn fun i => BitVec.ofNat 5 (site i.val).1
          ky := Vector.ofFn fun i => BitVec.ofNat 5 (site i.val).2
          spares := new.lanes
          banks := banks
          layeravail := ~~~ lost
          hub := h.putBudgets fixed }

/-- A module reset and its bring-up.
(DESIGN CHOICE: log entry 91.) -/
def State.moduleReset (s : State) (fixed : Nat) : State :=
  let s := s.coldStart
  let f := s.hub.fw
  match f.boot s.hub.resets with
  | none =>
    let f' := { f with pref := (f.selector s.hub.resets).1, trial := none }
    { s with hub := { s.hub with fw := f' } }.bringupFails 1 1 11 0
  | some fw => s.phases fw ((f.selector s.hub.resets).2 == some fw.slot) fixed

/-- MODULE_RESET: a reset input, a reset of the host link, or the board controller's reset (R452); phase 8 takes a fixed power of
`about.w0` mW. -/
def execModuleReset (s : State) : Out := .next (s.moduleReset s.about.w0.toNat)

/-! ### Errors that stop the module (R462) -/

/-- A mailbox command that needs READY does not outlive it: STATUS 2 (R462, R466). -/
def Mbox.unready (m : Mbox) : Mbox := if m.running && mboxNeedsReady m.cmd then { m with running := false, status := 2 } else m

/-- An uncontained error: its record, its report, FATAL, and no READY; requests in flight are discarded.
(DEDUCED: log entry 93.) -/
def State.uncontained (s : State) (src unit : Nat) (addr detail : X64) : State :=
  let s := s.error 2 src unit 0xFF addr detail
  { s with hub := { s.hub with fatal := true, ready := false, mbox := s.hub.mbox.unready }, net := [] }

/-- UNCONTAINED_ERROR: one occurs, with SRC `about.k`, UNIT `about.n`, ADDR `about.addr` and DETAIL `about.w0`, whether or not READY is 1
(R462); or, with `about.yes`, a corrected flit of the Mbayr port `about.n`, a correctable error (R461, Table 17.7).
(DESIGN CHOICE: log entry 122.) -/
def execUncontainedError (s : State) : Out :=
  .next (if s.about.yes then s.error 0 5 s.about.n 0xFF 0 0
    else s.uncontained (s.about.k % 12) s.about.n s.about.addr s.about.w0)

/-- DIE_TEMPERATURE_CHANGE: the hottest point of the die of stack `about.n` is at `about.k` °C (R450); a die that comes to 105 °C or above
is an uncontained error, whether or not READY is 1 (R462, R469, R470). -/
def execDieTemperatureChange (s : State) : Out :=
  let k := s.about.n
  let t := Nat.min s.about.k 255
  let hot := decide (k < 4) && decide (105 ≤ t) && decide ((vget s.hub.temps k 0).toNat < 105)
  let s := { s with hub := { s.hub with temps := vset s.hub.temps k (BitVec.ofNat 8 t) } }
  .next (if hot then s.uncontained 9 k 0 (BitVec.ofNat 64 t) else s)

/-! ### Mailbox commands (R466) -/

/-- What a mailbox event does: the host port's or the board controller's running command of this code is carried out, with the mailbox's
arguments; or, with `about.yes`, the board controller puts the command, with the arguments `about.bytes`, into the mailbox, if that is
free. -/
def State.mboxDo (s : State) (cmd : Nat) (run : List Byte → State) : State :=
  let m := s.hub.mbox
  if s.about.yes then { s with hub := { s.hub with mbox := m.board s.hub.ready cmd s.about.bytes } }
  else if m.running ∧ m.cmd.toNat = cmd then run (natBytes m.args.toNat 240)
  else s

/-- The command in the mailbox ends with a status. -/
def State.mboxEnd (s : State) (status : BitVec 8) : State :=
  { s with hub := { s.hub with mbox := { s.hub.mbox with running := false, status := status } } }

/-- A number among the arguments: 8 bytes.
(DESIGN CHOICE: log entry 84.) -/
def argNat (l : List Byte) (o : Nat) : Nat := bytesNat ((l.drop o).take 8)

/-- KEYINST: the key of the arguments' bytes 8 to 103, x and y of its point, big-endian, is put into the key slot of bytes 0 to 7 (R455, R466). -/
def execKeyinst (s : State) : Out :=
  .next (s.mboxDo 1 fun l =>
      let i := argNat l 0
      if 8 ≤ i ∧ i ≤ 63 then
        let key : BitVec 768 := BitVec.ofNat 768 (bigNat ((l.drop 8).take 96))
        { s with hub := { s.hub with keys := put i key s.hub.keys } }.mboxEnd 0
      else s.mboxEnd 1)

/-- KEYDEL: the key slot of bytes 0 to 7 is emptied (R455, R466). -/
def execKeydel (s : State) : Out :=
  .next (s.mboxDo 2 fun l =>
      let i := argNat l 0
      if 8 ≤ i ∧ i ≤ 63 then { s with hub := { s.hub with keys := drop i s.hub.keys } }.mboxEnd 0 else s.mboxEnd 1)

/-- FWSTAGE: the image at the host physical address of bytes 0 to 7, as long as bytes 8 to 15 say, is written into the slot
that is not running and verified there, and TRIAL becomes that slot (R454, R456).
(DEDUCED: log entry 87.) -/
def execFwstage (s : State) : Out :=
  .next (s.mboxDo 3 fun l =>
      let pa := argNat l 0
      let n := argNat l 8
      if pa < 0x8000000000000 ∨ 2 ^ 52 < pa + n then s.mboxEnd 1
      else
        let slot := ~~~ s.hub.fw.slot
        let put (e : BitVec 32 × BitVec 16 × Bool) (t : Option (BitVec 1)) : State :=
          let fw := { s.hub.fw with images := vset s.hub.fw.images slot.toNat e, trial := t }
          { s with hub := { s.hub with fw := fw } }
        let t := if s.hub.fw.trial = some slot then none else s.hub.fw.trial
        match Config.firmware (s.bytesAt pa n) with
        | some (v, sec) =>
          if s.hub.fw.floor.toNat ≤ sec.toNat then (put (v, sec, true) (some slot)).mboxEnd 0
          else (put (v, sec, true) t).mboxEnd 1
        | none => (put (0, 0, false) t).mboxEnd 1)

/-- SETLIM: MODLIM becomes bytes 0 to 7, in W (R468). -/
def execSetlim (s : State) : Out :=
  .next (s.mboxDo 4 fun l =>
      let w := argNat l 0
      if 1200 ≤ w ∧ w ≤ 2400 then { s with hub := { s.hub with modlim := BitVec.ofNat 12 w } }.mboxEnd 0 else s.mboxEnd 1)

/-- MBOX_RESET: RESET starts a module reset (R452, R466), with the fixed power of `about.w0` mW at phase 8. -/
def execMboxReset (s : State) : Out :=
  .next (s.mboxDo 5 fun _ => s.moduleReset s.about.w0.toNat)

/-! ### The host port (R453, R459) -/

/-- The device physical address of a host physical address, for `n` bytes of the host-managed range (R459). -/
def State.hdm (s : State) (n : Nat) : Option Nat :=
  let h := s.hub
  let hpa := s.about.addr.toNat
  if h.ready ∧ h.hdmBase ≤ hpa ∧ hpa + n ≤ h.hdmBase + h.hdmSize ∧ hpa - h.hdmBase + n ≤ 0x14000000000 then
    some (hpa - h.hdmBase)
  else none

/-- A message leaves the host port.
(DESIGN CHOICE: log entry 92.)
(DEDUCED: log entry 100.) -/
def State.hostMsg (s : State) (m : HostMsg) : State := { s with hub := { s.hub with msgs := s.hub.msgs ++ [m] } }

/-- A request of the host to `n` bytes at an offset of BAR0 is served (R453). -/
def State.bar0Serves (s : State) (o n : Nat) (write : Bool) : Bool :=
  (s.hub.ready && decide (o + n ≤ bar0Size)) || decide (o + n ≤ 0x1000) ||
    (!write && decide (0x10000 ≤ o) && decide (o + n ≤ 0x12000))

/-- HOST_MEM_READ: the host reads `about.k` bytes at host address `about.addr`; a poisoned line returns data marked poison
(R459). With `about.yes` it reads them at offset `about.addr` of BAR0 (R314, R450, R453); with `about.rid` 1 and 2 it reads the class
code and the Memory_Active bit of its memory range from configuration space (R450, R453).
(DESIGN CHOICE: log entry 94.) -/
def execHostMemRead (s : State) : Out :=
  let o := s.about.addr.toNat
  .next (if s.about.rid = 1 then s.hostMsg (.classCode classCode)
  else if s.about.rid = 2 then s.hostMsg (.memoryActive s.hub.memoryActive)
  else if s.about.yes then
    (if bar0Size ≤ o then s
     else s.hostMsg (if s.bar0Serves o s.about.k false then .data (s.hubBytes (hubBase + o) s.about.k) false else .unsupported))
  else match s.hdm s.about.k with
    | none => s
    | some pa =>
      (s.hostMsg (.data (natBytes (s.get pa s.about.k) s.about.k) (poisonIn s pa s.about.k).isSome)).touch pa false)

/-- The host's configuration of the device, whose requests the PCIe rules serve (R453): the base and the size, at most 1280 GiB, of its HDM
decoder, whether CXL.cache is enabled, and its severity setting for contained errors (R459, Table 17.7).
(DESIGN CHOICE: log entry 94.) -/
def Hub.configured (h : Hub) (about : About) : Hub :=
  match about.rid.toNat with
  | 1 => { h with hdmBase := about.addr.toNat, hdmSize := Nat.min about.w0.toNat 0x14000000000 }
  | 2 => { h with cxlCache := about.yes }
  | _ => { h with severity := about.yes }

/-- HOST_MEM_WRITE: the host writes the bytes `about.bytes` at host address `about.addr`; they are visible when the channel
controller has accepted them, and their completion is sent (R459). Data marked poison, when `about.yes`, poison their lines (R83). With
`about.rid` 1 to 3 the host writes a setting of its own in configuration space (R453). -/
def execHostMemWrite (s : State) : Out :=
  let bs := s.about.bytes
  .next (if s.about.rid = 1 ∨ s.about.rid = 2 ∨ s.about.rid = 3 then { s with hub := s.hub.configured s.about }
  else match s.hdm bs.length with
    | none => s
    | some pa =>
      let s := ((s.write pa bs).touch pa true).hostMsg .written
      if s.about.yes then (linesOf pa bs.length).foldl State.poisonLine s else s)

/-- BAR0_UNSUPPORTED_REQUEST: before READY, or after FAILED or FATAL, a memory request of the host to offset `about.addr` of
BAR0, a write when `about.yes`, that is not served completes as Unsupported Request, and its data is discarded (R453). -/
def execBar0UnsupportedRequest (s : State) : Out :=
  let o := s.about.addr.toNat
  .next (if s.hub.ready ∨ bar0Size ≤ o ∨ s.bar0Serves o 1 s.about.yes then s else s.hostMsg .unsupported)

/-! ### SPDM (R458) -/

/-- The security processor runs: a firmware slot has verified (Table 17.3). -/
def Hub.answersSpdm (h : Hub) : Bool := h.phase != 0 && h.code != 1

/-- An SPDM response, with slot 1's signature over what it says (R457). -/
def State.spdmAnswer (s : State) (code : Nat) (payload : List Byte) : State :=
  if !s.hub.answersSpdm then s
  else
    let body := natBytes 0x12 1 ++ natBytes code 1 ++ payload
    { s with fresh := s.fresh + 1 }.hostMsg
      (.spdm (BitVec.ofNat 8 code) (payload ++ natBytes (deviceSign body s.fresh).toNat 96))

/-- Bytes of a response that the spec does not state. -/
def spdmFree (code n : Nat) : List Byte := (List.range n).map (Config.spdmByte code)

/-- A measurement (R458): its index and its digest. Index 4 is the digest of key slots 8 to 63. -/
def State.measurement (s : State) (i : Nat) : List Byte :=
  natBytes i 1 ++ natBytes (if i = 4 then Config.keyDigest s.hub.keys else Config.measurement i s.hub.resets).toNat 48

/-- GET_VERSION: VERSION, with version 1.2 only (R458).
(PRESUMED: log entry 86.) -/
def execGetVersion (s : State) : Out := .next (s.spdmAnswer 0x04 (spdmFree 0x04 2 ++ natBytes 0x1200 2))

/-- GET_CAPABILITIES: CAPABILITIES (R458). -/
def execGetCapabilities (s : State) : Out := .next (s.spdmAnswer 0x61 (spdmFree 0x61 16))

/-- The rest of an ALGORITHMS response behind its code: no algorithm structures, 40 bytes, DMTF measurements with SHA-384, no base
asymmetric algorithm, the base hash SHA-384, and one extended asymmetric algorithm, the curve of R454 (R458).
(PRESUMED: log entry 86.) -/
def algorithms : List Byte :=
  [0, 0, 40, 0, 1, 0, 4, 0, 0, 0, 0, 0, 0, 0, 2, 0, 0, 0] ++ List.replicate 12 0 ++ [1, 0, 0, 0, 1, 0, 0x31, 0]

/-- NEGOTIATE_ALGORITHMS: ALGORITHMS, the one curve of R454 and SHA-384 (R458). -/
def execNegotiateAlgorithms (s : State) : Out := .next (s.spdmAnswer 0x63 algorithms)

/-- GET_DIGESTS: DIGESTS, of the device certificate chain (R457, R458). -/
def execGetDigests (s : State) : Out := .next (s.spdmAnswer 0x01 (spdmFree 0x01 48))

/-- GET_CERTIFICATE: CERTIFICATE, with `about.n` bytes of the chain from offset `about.k` (R457, R458). -/
def execGetCertificate (s : State) : Out :=
  .next (s.spdmAnswer 0x02 ((List.range s.about.n).map fun i => Config.certificate (s.about.k + i)))

/-- CHALLENGE: CHALLENGE_AUTH, over the requester's nonce `about.bytes` (R457, R458). -/
def execChallenge (s : State) : Out := .next (s.spdmAnswer 0x03 s.about.bytes)

/-- GET_MEASUREMENTS: MEASUREMENTS: measurement `about.k` of 1 to 4, or all of them (R457, R458). -/
def execGetMeasurements (s : State) : Out :=
  let l := if 1 ≤ s.about.k ∧ s.about.k ≤ 4 then s.measurement s.about.k
    else s.measurement 1 ++ s.measurement 2 ++ s.measurement 3 ++ s.measurement 4
  .next (s.spdmAnswer 0x60 l)

/-- SPDM_UNSUPPORTED: any other request answers UnsupportedRequest (R458). -/
def execSpdmUnsupported (s : State) : Out := .next (s.spdmAnswer 0x7F (natBytes 0x07 1))

end Sys2Proof.Machine
end

