-- ==== Sys2Proof/Machine/Links.lean ====
section
/-! DEFINITION. The requester on the links: opening, closing and synchronising sessions (R425, R427, R438), its answers, tries and
losses (R432 to R434), heartbeats (R426), and gangs that the package launches (R444, R445). -/

namespace Sys2Proof

/-- The operand bytes of a gang message: identifier, queue, kick value and watchdog.
(DEDUCED: log entry 76.) -/
def GangMsg.bytes (m : GangMsg) : List Byte :=
  Machine.natBytes m.gang.toNat 4 ++ Machine.natBytes m.queue.toNat 4 ++ Machine.natBytes m.kick.toNat 8 ++ Machine.natBytes m.wdog.toNat 4

end Sys2Proof

namespace Sys2Proof.Machine

/-! ### Sessions -/

/-- Sessions of a context, and of the package as requester, that are not CLOSED (R423). -/
def Ctx.liveSessions (k : Ctx) : Nat := (k.sessions.filter fun (e : Nat × Session) => e.2.st != .closed).length
def State.liveSessions (s : State) : Nat := s.ctxs.foldl (fun n (e : Nat × Ctx) => n + e.2.liveSessions) 0

/-- A session is CLOSED (R427). -/
def State.closeSession (s : State) (slot : Slot) (node : Node) : State :=
  s.modCtx slot fun k => { k with sessions := drop node.toNat k.sessions }

/-- The store-buffer entries of a lost session count as complete from SETTLE on (R433). -/
def State.settleStores (s : State) (slot : Slot) (node : Node) : State :=
  { s with cores := s.cores.map fun (e : Nat × Core) =>
      if (s.taskOf e.1).isSome ∧ s.slotOf e.1 = slot then
        (e.1, { e.2 with cStores := e.2.cStores.filter fun (x : Store) => !(x.remote && x.node == node) })
      else e }

/-- A LOST session has settled (R433). -/
def State.settled (s : State) (x : Session) : Bool := decide (x.settle ≤ s.net2)

/-- The packet of what a session has under way: OPEN, CLOSE, or its watermark. -/
def Session.opPacket (x : Session) (slot : Slot) (node : Node) : Packet := match x.st with
  | .opening => .openReq slot node
  | .closing => .closeReq slot node x.nonce x.next ((x.op.map (·.tag)).getD 0)
  | _ => .watermark slot node x.nonce x.w ((x.op.map (·.tag)).getD 0)

/-- An OPEN, CLOSE or LSYNC watermark is sent for the first time. -/
def State.startOp (s : State) (slot : Slot) (node : Node) : State :=
  let x := s.session slot node
  let x := { x with op := some { at_ := s.net2, rto := s.rto, tag := x.tag + 1 }, tag := x.tag + 1, lastSent := s.net2 }
  { s.setSession slot node x with net := s.net ++ [x.opPacket slot node] }

/-- A watermark is sent without waiting for its acknowledgement (R426, R438). -/
def State.sendMark (s : State) (slot : Slot) (node : Node) : State :=
  let x := s.session slot node
  { s.setSession slot node { x with lastSent := s.net2 } with net := s.net ++ [.watermark slot node x.nonce x.w 0] }

/-! ### lsopen (R425) -/

/-- The status that the answer of an OPEN gives: REFUSED, OWNER_FULL, UNREACHABLE. -/
def openStatus : Answer → X64
  | .refused => 3
  | .ownerFull => 4
  | _ => 5

/-- lsopen of this core, under way: it completes when OPEN has its answer. -/
def State.lsopenWait (s : State) (d : BitVec 5) (slot : Slot) (node : Node) : Res :=
  let c := s.me
  let x := s.session slot node
  let done (s : State) (v : X64) : Res := .ok ((s.modCore c fun k => { k with cmd := none }).setX d v)
  match x.op.bind (·.answer) with
  | none => if x.st = .opening then .wait s .other else done s 5
  | some (.ok nonce) => done (s.setSession slot node { st := .opened, nonce := nonce, lastSent := x.lastSent }) 0
  | some a => done (s.closeSession slot node) (openStatus a)

/-- lsopen xd, xa (R425). -/
def execLsopen (d a : BitVec 5) (s : State) : Out :=
  let c := s.me
  let slot := s.slotOf c
  let node : Node := fld (s.x a) 0 12
  let x := s.session slot node
  .next (s.finish
    (if (s.core c).cmd = some (.lsopen node) then s.lsopenWait d slot node
     else if node = s.hub.nodeid then .ok (s.setX d 2)
     else if fld (s.desc c).node 0 12 ≠ s.hub.nodeid then .ok (s.setX d 7)
     else if x.st = .opening ∨ x.st = .closing then .wait s .other
     else if x.st = .opened then .ok (s.setX d 1)
     else if x.st = .lost ∧ !s.settled x then .wait s .other
     else if 64 ≤ (s.ctx slot).liveSessions ∨ 4096 ≤ s.liveSessions then .ok (s.setX d 6)
       else
         let s := s.settleStores slot node
         let s := (s.setSession slot node { st := .opening }).startOp slot node
         .wait (s.modCore c fun k => { k with cmd := some (.lsopen node) }) .other))

/-! ### lsclose (R427) -/

/-- Nothing of a closing session is outstanding, unsent or withheld: CLOSE may be sent (R427).
(DEDUCED: log entry 79.) -/
def State.closable (s : State) (slot : Slot) (node : Node) : Bool :=
  let x := s.session slot node
  x.outs.isEmpty && x.withheld.isEmpty && s.unsent slot node == 0

/-- lsclose of this core, under way. -/
def State.lscloseWait (s : State) (slot : Slot) (node : Node) : Res :=
  let x := s.session slot node
  let done (s : State) : Res := .ok (s.modCore s.me fun k => { k with cmd := none })
  match x.st with
  | .closing => match x.op with
    | none => if s.closable slot node then .wait (s.startOp slot node) .other else .wait s .other
    | some o => if o.answer.isSome then done (s.closeSession slot node) else .wait s .other
  | .lost => if s.settled x then done ((s.settleStores slot node).closeSession slot node) else .wait s .other
  | _ => done s

/-- lsclose xa (R427). -/
def execLsclose (a : BitVec 5) (s : State) : Out :=
  let c := s.me
  let slot := s.slotOf c
  let node : Node := fld (s.x a) 0 12
  let x := s.session slot node
  .next (s.finish
    (if (s.core c).cmd = some (.lsclose node) then s.lscloseWait slot node
     else match x.st with
       | .closed => .ok s
       | .opening | .closing => .wait s .other
       | .opened =>
         .wait ((s.setSession slot node { x with st := .closing, op := none }).modCore c fun k =>
           { k with cmd := some (.lsclose node) }) .other
       | .lost =>
         if s.settled x then .ok ((s.settleStores slot node).closeSession slot node) else .wait s .other))

/-! ### lretire and lsync (R438) -/

/-- The sessions that x[xa] names, one node's or all of the context, that are not CLOSED. -/
def State.live (s : State) (slot : Slot) (v : X64) : List Node :=
  ((s.ctx slot).sessions.filter fun (e : Nat × Session) =>
    e.2.st != .closed && (v.getLsbD 63 || e.1 == bitsNat v 11 0)).map fun e => BitVec.ofNat 12 e.1

/-- The OPEN sessions that x[xa] names. -/
def State.named (s : State) (slot : Slot) (v : X64) : List Node :=
  (s.live slot v).filter fun n => (s.session slot n).st == .opened

/-- lretire xa (R438). -/
def execLretire (a : BitVec 5) (s : State) : Out :=
  let slot := s.slotOf s.me
  .next (s.finish (.ok ((s.named slot (s.x a)).foldl (fun s n => s.sendMark slot n) s)))

/-- A remote operation that a core's C-stream or an item of it has sent on a session is neither answered nor settled (R433, R438). -/
def State.coreWaits (s : State) (c : Nat) (slot : Slot) (node : Node) : Bool :=
  let x := s.session slot node
  !(x.st == .lost && s.settled x) && x.outs.any fun (o : Outs) => o.core.toNat == c && o.saved.isNone && o.hold.isNone &&
    match o.who with
    | .read _ _ | .store _ _ | .item _ _ => true
    | _ => false

/-- lsync xa (R438). -/
def execLsync (a : BitVec 5) (s : State) : Out :=
  let c := s.me
  let slot := s.slotOf c
  let l := s.named slot (s.x a)
  .next (s.finish
    (match (s.core c).cmd with
     | some (.lsync nodes) =>
       if nodes.any fun n => (s.session slot n).st == .opened && (s.session slot n).op.isSome then .wait s .other
       else .ok (s.modCore c fun k => { k with cmd := none })
     | _ =>
       if !s.fenceRel 4 then .wait s .fence
       else if (s.live slot (s.x a)).any fun n => s.coreWaits c slot n then .wait s .other
       else if l.isEmpty then .ok s
       else .wait ((l.foldl (fun s n => s.startOp slot n) s).modCore c fun k => { k with cmd := some (.lsync l) }) .other))

/-! ### Gangs that the package launches (R444, R445) -/

/-- The content of a gang message to a member. -/
def GangOut.msg (g : GangOut) (node : Node) (m : Node × BitVec 18 × X64) : GangMsg :=
  { gang := g.gang, node := node, queue := m.2.1, kick := m.2.2, wdog := g.wdog }

/-- A message to a member at the package's own node is served locally (R445): its answer. -/
def State.gangLocal (s : State) (op : RemoteOp) (slot : Slot) (m : GangMsg) : State × Answer :=
  let r : Request := { node := s.hub.nodeid, slot := slot, op := op }
  if s.granted r m then s.ownerRun r m else (s, .denied)

/-- The gang of a number is changed. -/
def State.modGang (s : State) (id : Nat) (f : GangOut → GangOut) : State :=
  { s with gangOuts := s.gangOuts.map fun (g : GangOut) => if g.id = id then f g else g }

/-- A message to member `rank` of a gang: locally, or in the session of its node; a session that is not OPEN answers nothing and
counts as lost, and one at its cap holds the message (R437, R445). -/
def State.gangSend (s : State) (g : GangOut) (op : RemoteOp) (rank : Nat) : State :=
  match g.members[rank]? with
  | none => s
  | some m =>
    let msg := g.msg s.hub.nodeid m
    if m.1 = s.hub.nodeid then
      let a := s.gangLocal op g.ctx msg
      a.1.gangAnswer g.id rank (a.2 = .ack ∨ a.2 = .ok 0)
    else if (s.session g.ctx m.1).st ≠ .opened then s.gangAnswer g.id rank false
    else if s.capped g.ctx m.1 then s.modGang g.id fun x => { x with unsent := x.unsent ++ [(op, rank)] }
    else
      let bs := msg.bytes
      s.send g.ctx m.1 { op := op, size := bs.length, data := BitVec.ofNat 512 (bytesNat bs) } (.gang g.id rank) 0 g.pc

/-- A message to every member. -/
def State.gangAll (s : State) (g : GangOut) (op : RemoteOp) : State :=
  (List.range g.members.length).foldl (fun s r => s.gangSend g op r) s

/-- The gang of a number. -/
def State.gangOut (s : State) (id : Nat) : Option GangOut := s.gangOuts.find? fun (g : GangOut) => g.id == id

/-- A COMMIT has been answered OK: 1 is added to the counter (R445). -/
def State.gangCount (s : State) (g : GangOut) : State :=
  let t := s.taskOf g.core.toNat
  (s.hubAdd g.ctx
    { key := g.ctr, addr := g.ctrAddr, who := some (g.core, g.pc), queue := (t.map fun x => BitVec.ofNat 18 x.queue).getD 0
      card := (t.map (·.cardNo)).getD 0 }).pump g.ctx

/-- A gang whose every GO or ABORT has been answered is over. -/
def State.gangOver (s : State) (id : Nat) : State :=
  { s with gangOuts := s.gangOuts.filter fun (x : GangOut) =>
      !(x.id == id && x.phase == 2 && x.unsent.isEmpty && x.ended.all Option.isSome) }

/-- The hub continues a committed gang: when every COMMIT has been answered, GO is sent to every member if all were answered OK,
and the gang is over once each GO is answered (R445). -/
def State.gangSettle (s : State) (id : Nat) : State :=
  match s.gangOut id with
  | none => s
  | some g =>
    if g.phase = 1 ∧ g.committed.all Option.isSome then
      let all := g.committed.all (· == some true)
      let s := s.modGang id fun x => { x with phase := 2, ended := g.members.map fun _ => if all then none else some false }
      (if all then s.gangAll g .go else s).gangOver id
    else s.gangOver id

/-- A message to a member has been answered; a COMMIT that is answered OK counts (R445). -/
def State.gangHear (s : State) (id rank : Nat) (ok : Bool) : State :=
  match s.gangOut id with
  | none => s
  | some g =>
    let s := s.gangAnswer id rank ok
    (if g.phase = 1 ∧ ok then s.gangCount g else s).gangSettle id

/-- The messages of a gang that a cap has held are sent as far as it allows, and the gang goes on (R437, R445). -/
def State.gangStep (s : State) (id : Nat) : State :=
  match s.gangOut id with
  | none => s
  | some g =>
    let s := g.unsent.foldl (fun (s : State) m =>
      (s.modGang id fun x => { x with unsent := x.unsent.erase m }).gangSend g m.1 m.2) s
    s.gangSettle id

/-- Every gang that the package launches goes on. -/
def State.gangsStep (s : State) : State := s.gangOuts.foldl (fun s (g : GangOut) => s.gangStep g.id) s

/-- The COMMITs of a gang: those to the own node are answered at once (R445). -/
def State.gangCommitAll (s : State) (g : GangOut) : State :=
  let s := (s.modGang g.id fun x => { x with phase := 1, committed := g.members.map fun _ => none }).gangAll g .commit
  match s.gangOut g.id with
  | none => s
  | some x => ((x.committed.filter (· == some true)).foldl (fun s _ => s.gangCount g) s).gangSettle g.id

/-- STATUS, and FAILRANK of an aborted gang, are written into the descriptor (Table 16.13). -/
def State.gangStatus (s : State) (slot : Slot) (desc status : Nat) (fail : Option Nat) : Option State :=
  match s.commit slot (s.plogKey slot desc) (desc + 6) (natBytes status 1) with
  | none => none
  | some s => match fail with
    | none => some s
    | some r => s.commit slot (s.plogKey slot desc) (desc + 0x0C) (natBytes r 2)

/-- A GANG completes with its status (R445). -/
def State.gangDone (s : State) (desc status : Nat) (fail : Option Nat) (next : State → State) : Res :=
  let slot := s.slotOf s.me
  match s.gangStatus slot desc status fail with
  | none => .hold (s.logFull slot s.me (s.seq s.me .c).pc .c)
  | some s => .ok ((next s).modCore s.me fun k => { k with cmd := none })

/-- GANG under way: every PREPARE is answered, or its session is lost (R445). -/
def State.gangWait (s : State) (id : Nat) : Res :=
  match s.gangOut id with
  | none => .ok (s.modCore s.me fun k => { k with cmd := none })
  | some g =>
    if !(g.prepared.all Option.isSome) then .wait s .other
    else if g.prepared.all (· == some true) then s.gangDone g.desc 1 none fun s => s.gangCommitAll g
    else
      let acked := (List.range g.members.length).filter fun r => ((g.prepared[r]?).getD none) == some true
      let fail := ((List.range g.members.length).find? fun r => ((g.prepared[r]?).getD none) != some true).getD 0
      s.gangDone g.desc 2 (some fail) fun s =>
        let ended := g.prepared.map fun p => if p == some true then none else some false
        let s := s.modGang id fun x => { x with phase := 2, ended := ended }
        (acked.foldl (fun s r => s.gangSend g .abort r) s).gangOver id

/-- The members of a gang descriptor (Table 16.13). -/
def State.gangMembers (s : State) (desc n : Nat) : List (Node × BitVec 18 × X64) :=
  (List.range n).map fun r =>
    let a := desc + 0x40 + 16 * r
    (BitVec.ofNat 12 (s.get a 2), BitVec.ofNat 18 (s.get (a + 4) 4), BitVec.ofNat 64 (s.get (a + 8) 8))

/-- GANG begins (R445), its descriptor and counter checked: PREPARE goes to every member. -/
def State.gangStart (s : State) (desc n ctr : Nat) (ctrAddr : X64) : Res :=
  let c := s.me
  let slot := s.slotOf c
  let wdog := s.get (desc + 8) 4
  let l := s.gangMembers desc n
  if n = 0 ∨ 4096 < n ∨ wdog = 0 ∨ !noTwice (l.map (·.1)) then s.gangDone desc 3 none fun s => s
  else if l.any fun m => m.1 != s.hub.nodeid && (s.session slot m.1).st != .opened then s.gangDone desc 4 none fun s => s
  else
    let g : GangOut :=
      { id := s.nextId, gang := BitVec.ofNat 32 (s.get desc 4), core := s.about.core, ctx := slot, desc := desc, ctr := ctr
        ctrAddr := ctrAddr, pc := (s.seq c .c).pc, wdog := BitVec.ofNat 32 wdog, members := l
        prepared := l.map fun _ => none, committed := l.map fun _ => none }
    let s := { s with gangOuts := s.gangOuts ++ [g], nextId := s.nextId + 1 }.modCore c fun k => { k with cmd := some (.gang g.id) }
    .wait (s.gangAll g .prepare) .other

/-- The descriptor of GANG, whole (R444): its place over 64 bytes, then over all members.
(DEDUCED: log entry 80.) -/
def State.gangDesc (s : State) (v : X64) : Except Trap (Nat × Nat) :=
  let p : PlaceAddr := fld v 0 32
  match s.place s.me p (offOf p) 64 64 with
  | .error t => .error t
  | .ok key =>
    let n := s.get (key + 4) 2
    match s.place s.me p (offOf p) (64 + 16 * n) 64 with
    | .error t => .error t
    | .ok _ => match poisonIn s key (64 + 16 * n) with
      | some l => .error (poisonTrap s.me l true)
      | none => .ok (key, n)

/-- gang xa, xb (R444, R445). -/
def execGang (a b : BitVec 5) (s : State) : Out :=
  let c := s.me
  .next (s.finish
    (match (s.core c).cmd with
     | some (.gang id) => s.gangWait id
     | _ => match s.gangDesc (s.x a) with
       | .error t => .trap t
       | .ok (desc, n) => match s.object (s.x b) 8 2 with
         | .trap t s' => .after s' t
         | .hold s' => .hold s'
         | .key key _ s' => if s'.fenceRel 4 then (s'.hubRead desc).gangStart desc n key (s.x b) else .wait s' .fence
         | .hub _ _ s' | .remote _ _ _ s' => .after s' { cause := cPAGE_PERM, addr := s.x b }))

/-! ### Answers (R432, R434) -/

/-- An answer that completes an operation reaches its issuer, or waits for the start of the task that it belongs to (R432, R434,
R441). -/
def State.deliver (s : State) (slot : Slot) (o : Outs) (a : Answer) (data : BitVec 512) : State :=
  match o.who, o.hold with
  | .gang id rank, _ => s.gangHear id rank (a = .ack ∨ a = .ok 0)
  | _, some t => s.mail slot t (.answer o a data)
  | _, none => s.reach slot o a data

/-- The core of the issuer of an operation, for a record. -/
def State.issuer (_s : State) (o : Outs) : Option Nat := match o.who with
  | .gone => none
  | _ => some o.core.toNat

/-- SERIAL_DIGEST (R434): a record, and the kill of the context. -/
def State.digestFail (s : State) (slot : Slot) (node : Node) (o : Outs) : State :=
  let d : X64 := (0 : BitVec 20) ++ node ++ o.serial
  let va : X64 := if o.req.op.isMsg then 0 else o.va
  let s := match s.issuer o with
    | some c => s.async slot { cause := cSERIAL_DIGEST, addr := va, detail := d } c o.pc .c (s.taskOf c)
    | none => s.nocore slot cSERIAL_DIGEST va d 0 0 true
  s.kill slot

/-- An operation leaves the outstanding ones; a mutating one is withheld until it is retirable (R436). -/
def State.closeOuts (s : State) (slot : Slot) (node : Node) (o : Outs) : State :=
  let v := (s.ctx slot).vouched
  s.modSession slot node fun x =>
    let x := { x with outs := x.outs.filter fun (p : Outs) => !(p.isLoad == o.isLoad && p.serial == o.serial) }
    if o.isLoad then x
    else
      let w : Withheld := { serial := o.serial, interval := o.interval, op := o.req.op.code, pa := o.req.digestPa }
      { x with withheld := x.withheld ++ [w] }.retire v

/-- A BUSY answer: it counts as no try, and the request is sent again RTO later (R432).
(DEDUCED: log entry 81.) -/
def Outs.busy (o : Outs) (now : Nat) : Outs :=
  { o with tries := o.tries - 1, sentAt := now, busyAt := some (o.busyAt.getD now) }

/-- The answer to an outstanding operation (R432 to R434). -/
def State.answered (s : State) (slot : Slot) (node : Node) (o : Outs) (a : Answer) (data : BitVec 512) : State :=
  match a with
  | .busy =>
    s.modSession slot node fun x =>
      { x with outs := x.outs.map fun p => if p.isLoad = o.isLoad ∧ p.serial = o.serial then p.busy s.net2 else p }
  | .retired => s.loseSession slot node (some o.serial) 4 false
  | .sessionLost => s.loseSession slot node none 2 true
  | .serialDigest => s.digestFail slot node o
  | _ => (s.closeOuts slot node o).deliver slot o a data

/-- The answer to an OPEN, a CLOSE or a watermark, with its number: that of a LSYNC ends its wait (R438), that of CLOSE the wait of LSCLOSE
(R427), and SESSION_LOST of either loses the session (R433, R439). -/
def State.answeredOp (s : State) (slot : Slot) (node : Node) (x : Session) (a : Answer) (tag : BitVec 32) : State :=
  match x.st, a with
  | .opened, .sessionLost | .closing, .sessionLost => s.loseSession slot node none 2 true
  | .opened, _ => if x.op.any fun o => o.tag == tag then s.setSession slot node { x with op := none } else s
  | .closing, _ =>
    s.setSession slot node { x with op := x.op.map fun o => if o.tag = tag then { o with answer := some a } else o }
  | .opening, _ => s.setSession slot node { x with op := x.op.map fun o => { o with answer := some a } }
  | _, _ => s

/-- REQUESTER_ANSWER: answer `about.answer` with data `about.data` reaches the session of slot `about.slot` with node
`about.node` and nonce `about.nonce`, for the load or the serial `about.serial`; or, when `about.yes`, for its OPEN, CLOSE or
watermark. An answer that matches nothing outstanding is discarded (R432). -/
def execRequesterAnswer (s : State) : Out :=
  let p := s.about
  let x := s.session p.slot p.node
  let open_ := x.st = .opened ∨ x.st = .closing
  .next
    (if p.yes then
       (if (x.st = .opening ∧ x.op.any fun o => o.answer.isNone) ∨ (open_ ∧ x.nonce = p.nonce) then
          s.answeredOp p.slot p.node x p.answer p.serial
        else s)
     else if open_ ∧ x.nonce = p.nonce then
       match x.outs.find? fun (o : Outs) => o.isLoad == p.isLoad && o.serial == p.serial && o.saved.isNone with
       | some o => s.answered p.slot p.node o p.answer p.data
       | none => s
     else s)

/-! ### Timers (R432, R426, R433, R419) -/

/-- An OPEN, CLOSE or watermark whose last try has gone unanswered for RTO: sent again, or, after 16 tries, given up: the OPEN is
UNREACHABLE, the session that closes is closed, the one that synchronises is lost (R425, R427, R438). -/
def State.retryOp (s : State) (slot : Slot) (node : Node) (x : Session) (o : LinkTry) : State :=
  if o.answer.isSome ∨ s.net2 < o.at_ + o.rto then s
  else if o.tries < 16 then
    { s.setSession slot node { x with op := some { o with tries := o.tries + 1, at_ := s.net2, rto := s.rto }, lastSent := s.net2 } with
      net := s.net ++ [x.opPacket slot node] }
  else if x.st = .opened then s.loseSession slot node none 1 false
  else s.setSession slot node { x with op := some { o with answer := some .expired } }

/-- An outstanding operation whose last try has gone unanswered for RTO: sent again, or timed out after 16 tries (R432, R433). -/
def State.retry (s : State) (slot : Slot) (node : Node) (x : Session) (o : Outs) : State :=
  if s.net2 < o.sentAt + o.rto then s
  else if 16 ≤ o.tries then s.loseSession slot node (if o.isLoad then none else some o.serial) 1 false
  else
    let req := { o.req with w := x.w }
    let again (p : Outs) : Outs :=
      if p.isLoad = o.isLoad ∧ p.serial = o.serial then { p with tries := p.tries + 1, sentAt := s.net2, rto := s.rto, req := req } else p
    { s.setSession slot node { x with outs := x.outs.map again, lastSent := s.net2 } with
      net := s.net ++ [.request node req req.digest] }

/-- RETRANSMIT_TIMEOUT: RTO has passed for the load or serial `about.serial` of the session of slot `about.slot` with node
`about.node`; or, when `about.yes`, for its OPEN, CLOSE or watermark (R432). -/
def execRetransmitTimeout (s : State) : Out :=
  let p := s.about
  let x := s.session p.slot p.node
  .next
    (if p.yes then
       match x.op with
       | some o => s.retryOp p.slot p.node x o
       | none => s
     else if x.st = .opened ∨ x.st = .closing then
       match x.outs.find? fun (o : Outs) => o.isLoad == p.isLoad && o.serial == p.serial && o.saved.isNone with
       | some o => s.retry p.slot p.node x o
       | none => s
     else s)

/-- BUSY_LIMIT: the load or serial `about.serial` of a session has been refused BUSY for 1 ms (R432, R433). -/
def execBusyLimit (s : State) : Out :=
  let p := s.about
  let x := s.session p.slot p.node
  match x.outs.find? fun (o : Outs) => o.isLoad == p.isLoad && o.serial == p.serial && o.saved.isNone with
  | some o =>
    if (x.st = .opened ∨ x.st = .closing) ∧ o.busyAt.any (fun b => decide (b + nsToNet 1000000 ≤ s.net2)) then
      .next (s.loseSession p.slot p.node (if o.isLoad then none else some o.serial) 3 false)
    else .next s
  | none => .next s

/-- HEARTBEAT: the session of slot `about.slot` with node `about.node` has sent nothing for 1 µs: its watermark is sent (R426). -/
def execHeartbeat (s : State) : Out :=
  let slot := s.about.slot
  let node := s.about.node
  let x := s.session slot node
  let st := (s.ctx slot).st
  if (x.st = .opened ∨ x.st = .closing) ∧ st ≠ .dead ∧ st ≠ .destroyed ∧ x.lastSent + nsToNet 1000 ≤ s.net2 then
    .next (s.sendMark slot node)
  else .next s

/-- SESSION_SETTLE: the LOST session of slot `about.slot` with node `about.node` reaches SETTLE: its operations count complete
(R433). -/
def execSessionSettle (s : State) : Out :=
  let x := s.session s.about.slot s.about.node
  if x.st = .lost ∧ s.settled x then
    .next ((s.setSession s.about.slot s.about.node { x with outs := [] }).settleStores s.about.slot s.about.node)
  else .next s

/-- PACKET_EXPIRY: packet `about.k` is 100 µs old, and ports and switches discard it (R419). -/
def execPacketExpiry (s : State) : Out := .next { s with net := s.net.eraseIdx s.about.k }

end Sys2Proof.Machine
end

