-- ==== Sys2Proof/Machine/Clock.lean ====
section
/-! DEFINITION. The end of a cycle of the core clock (R337): GSC, the cycles of stalls and of waits, which count only while their
group is not frozen (R25, R209, R278, R340, R356, R408), and what the hub does without a command of its own. -/

namespace Sys2Proof.Machine

/-- A task's counters after a cycle: GSC once its first instruction may issue, and the cycles of a rendezvous in progress
(R337, R408). -/
def Task.tick (t : Task) (cycle : Nat) : Task :=
  if (t.st = .running ∨ t.st = .saving) ∧ !t.frozenIn cycle then
    { t with
      gsc := if t.start ≤ cycle then t.gsc + 1 else t.gsc
      rendezvous := t.rendezvous.map fun r => (r.1, r.2 + 1) }
  else t

/-- A wait with a limit of its own, which a rendezvous does not suspend (R226, R368, R408, R413). -/
def Why.isWait : Why → Bool
  | .wait .. => true
  | _ => false

/-- The stalls of a sequencer have lasted one more cycle, or, of a reason that no longer stands, are over; with a rendezvous in progress
only its waits count (R25, R408). -/
def Seq.tick (q : Seq) (meeting : Bool) (stands : Why → Bool) : Seq :=
  { q with
    stall := q.stall.map fun w => { w with
      cycles := if !stands w.why then 0 else if meeting && !w.why.isWait then w.cycles else w.cycles + 1 }
    due := q.due.map fun d => { d with cycles := if meeting then d.cycles else d.cycles + 1 } }

/-- Core `c` at the end of a cycle: its stalls, when they count, what its matrix words have to read in the cycle, and what the cycle has
pushed, shown and written (R24, R61, R79, R212, R272). -/
def State.tickCore (s : State) (c : Nat) (k : Core) : Core :=
  let k := { s.readTiles c k with tokNew := Vector.replicate 16 0, shown := [], rowsThen := [], rowsNow := [], vstatNow := 0 }
  if s.stallCounts k then
    let meeting := (k.task.bind fun t => look t s.tasks).any fun t => t.rendezvous.isSome
    { k with seqs := Vector.ofFn fun i => (vget k.seqs i.val {}).tick meeting (s.stands c (streamOf i.val)) }
  else k

/-- An accepted item's wait has lasted one more cycle, unless its group is frozen (R278). WLIM counts from its acceptance, also while earlier
items of its unit still hold the unit.
(DESIGN CHOICE: log entry 113.) -/
def State.tickItem (s : State) (i : Item) : Item :=
  match i.st with
  | .queued => i
  | .accepted =>
    if s.itemFrozen i || (bWt i.block && i.fn != 8 && s.phaseShown i) then i else { i with waited := i.waited + 1 }
  | _ => if s.itemFrozen i then i else { i with waited := i.waited + 1 }

/-- The drain of a scan has lasted one more cycle, unless the core's group is frozen (R356, R357). -/
def State.tickScan (s : State) (x : Scan) : Scan :=
  match x.draining with
  | some c => if (s.taskOf c.toNat).any (·.frozenIn s.cycle) then x else { x with waited := x.waited + 1 }
  | none => x

/-- The counters of a cycle that ends. -/
def State.endCycle (s : State) : State :=
  { s with
    tasks := s.tasks.map fun (e : Nat × Task) => (e.1, e.2.tick s.cycle)
    cores := s.cores.map fun (e : Nat × Core) => (e.1, s.tickCore e.1 e.2)
    items := s.items.map s.tickItem
    scans := s.scans.map s.tickScan
    l0Then := []
    cycle := s.cycle + 1 }

/-- What waited in a context goes on: SeqAdds that found the log full, and handlers that found the pool of accepted tasks full (R406,
R415). -/
def State.ctxStep (s : State) (slot : Slot) : State :=
  let s := s.spawnHandlers slot
  let k := s.ctx slot
  if k.adds = [] ∨ k.st = .frozen then s
  else
    let s := s.payAll slot k.adds
    (match (s.ctx slot).adds.head? with
     | some a => s.addFull slot a
     | none => s).pump slot

/-- Something must happen before the cycle ends: a stall on a token queue ends or traps (R24, R25), the ages of the pool advance (R396), a
stall wire is released (R340), a save whose drain has reached its limit is written (R440), or the budgets of a period are written
(R469). -/
def State.cycleHeld (s : State) : Bool :=
  s.cycleOpen || decide (s.poolAges < s.cycle / ageCycles) || decide (s.periods < s.cycle / cyclesPerMs) ||
    s.tasks.any fun (e : Nat × Task) => e.2.thaws s.cycle || s.drainOver e.1 e.2

/-- What the hub does as a cycle ends: gangs, scans, rollbacks and the SeqAdds and handlers of contexts go on. -/
def State.hubStep (s : State) : State :=
  let t := [0, 1, 2, 3].foldl State.scanIdle s.gangsStep
  t.ctxs.foldl (fun u e => (u.rollStep (BitVec.ofNat 8 e.1)).ctxStep (BitVec.ofNat 8 e.1)) t

/-- GSC_ADVANCE: a cycle of the core clock ends (R337), unless something must happen in it first. While the module is not READY nothing but
time goes on (R462).
(DESIGN CHOICE: log entry 2.) -/
def execGscAdvance (s : State) : Out :=
  if !s.hub.ready then .next { s with cycle := s.cycle + 1 }
  else if s.cycleHeld then .next s
  else .next s.endCycle.hubStep

end Sys2Proof.Machine
end

