-- ==== Sys2Proof/Machine/Firefly.lean ====
section
/-! DEFINITION. Firefly (R287, R288): each result is the exact value of the function, rounded once. The exact value is enclosed
between two rationals that round alike, at the first of three precisions that settles the rounding. An input below 512 lies at
least e^-512 away from its limit, which the second precision tells from the limit; were there an input that none settles, its
result is the opaque Config.fireflyFree. -/

namespace Sys2Proof.Machine

/-! ### Enclosures -/

/-- A real number lies between lo · 2^e and hi · 2^e. -/
structure Enc where
  lo : Int
  hi : Int
  e : Int
  deriving DecidableEq, Repr, Inhabited

/-- The integer square root by its bits, from bit `b - 1` down. -/
def isqrtFrom (n : Nat) : Nat → Nat → Nat
  | 0, r => r
  | b + 1, r => isqrtFrom n b (if (r + 2 ^ b) * (r + 2 ^ b) ≤ n then r + 2 ^ b else r)

/-- ⌊√n⌋. -/
def isqrt (n : Nat) : Nat := isqrtFrom n (n.log2 / 2 + 1) 0

/-- Sum of pw · q^j / (2j + 1) in units of 2^-p, rounded down at each step. -/
def atanhSum (p q : Nat) : Nat → Nat → Nat → Nat → Nat
  | 0, _, _, acc => acc
  | n + 1, j, pw, acc => atanhSum p q n (j + 1) (pw * q / 2 ^ p) (acc + pw / (2 * j + 1))

/-- 2 · atanh(a / b) in units of 2^-p for a / b ≤ 1/3: a lower and an upper bound. -/
def atanh2 (p a b : Nat) : Nat × Nat :=
  let n := p / 3 + 4
  let lo := 2 * atanhSum p (a * a * 2 ^ p / (b * b)) n 0 (a * 2 ^ p / b) 0
  (lo, if a = 0 then lo else lo + 8 * n + 8)

/-- ln 2 in units of 2^-p. -/
def ln2 (p : Nat) : Nat × Nat := atanh2 p 1 3

/-- Sum of the terms of e^r from term `j` on, in units of 2^-p, rounded down at each step. -/
def expSum (p r : Nat) : Nat → Nat → Nat → Nat → Nat
  | 0, _, _, acc => acc
  | n + 1, j, t, acc => expSum p r n (j + 1) (t * r / 2 ^ p / (j + 1)) (acc + t)

/-- e^r for an enclosed r near [0, ln 2], in units of 2^-p. -/
def expSmall (p : Nat) (lo hi : Int) : Int × Int :=
  let n := p / 4 + 20
  let l : Int := if lo < 0 then 2 ^ p + lo else expSum p lo.toNat n 0 (2 ^ p) 0
  (l, (expSum p hi.toNat n 0 (2 ^ p) 0 : Int) + 2 * n + 4)

/-- e^x for an enclosed x in units of 2^-p. -/
def expEnc (p : Nat) (lo hi : Int) : Enc :=
  let l := ln2 p
  let k := lo.fdiv l.1
  let r := expSmall p (lo - k * (if 0 ≤ k then l.2 else l.1)) (hi - k * (if 0 ≤ k then l.1 else l.2))
  ⟨r.1, r.2, k - p⟩

/-- 2^x for an enclosed x in units of 2^-p. -/
def exp2Enc (p : Nat) (lo hi : Int) : Enc :=
  let l := ln2 p
  let k := lo.fdiv (2 ^ p)
  let f := lo - k * 2 ^ p
  let g := hi - k * 2 ^ p
  let r := expSmall p (f * l.1 / 2 ^ p) (g * l.2 / 2 ^ p + 1)
  ⟨r.1, r.2, k - p⟩

/-- A non-negative enclosure in units of 2^-p. -/
def Enc.fixed (x : Enc) (p : Nat) : Int × Int :=
  let d := x.e + p
  if 0 ≤ d then (x.lo * 2 ^ d.toNat, x.hi * 2 ^ d.toNat) else (x.lo / 2 ^ (-d).toNat, x.hi / 2 ^ (-d).toNat + 1)

/-- 1 / (1 + e^-w) for an enclosed w ≥ 0, or, with `neg`, of -w. -/
def sigmoidEnc (p : Nat) (neg : Bool) (lo hi : Int) : Enc :=
  let u := expEnc p (-hi) (-lo)
  let f := u.fixed p
  let one : Int := 2 ^ p
  if neg then ⟨u.lo * one / (one + f.2), u.hi * one / (one + max 0 f.1) + 1, u.e⟩
  else ⟨one * one / (one + f.2), one * one / (one + max 0 f.1) + 1, -p⟩

/-- tanh of an enclosed w ≥ 0. -/
def tanhEnc (p : Nat) (lo hi : Int) : Enc :=
  let f := (expEnc p (-(2 * hi)) (-(2 * lo))).fixed p
  let one : Int := 2 ^ p
  ⟨max 0 ((one - f.2) * one / (one + f.2)), (one - max 0 f.1) * one / (one + max 0 f.1) + 1, -p⟩

/-- Alternating sum of pw · q^j / (2j + 1), in units of 2^-p. -/
def atanSum (p d : Nat) : Nat → Nat → Nat → Int → Int
  | 0, _, _, acc => acc
  | n + 1, j, pw, acc =>
    atanSum p d n (j + 1) (pw / (d * d)) (if j % 2 = 0 then acc + pw / (2 * j + 1) else acc - pw / (2 * j + 1))

/-- π in units of 2^-p, by Machin's formula. -/
def piEnc (p : Nat) : Int × Int :=
  let n := p / 4 + 4
  let v := 16 * atanSum p 5 n 0 (2 ^ p / 5) 0 - 4 * atanSum p 239 n 0 (2 ^ p / 239) 0
  (v - 64 * n, v + 64 * n)

/-- √(8 / π) in units of 2^-p. -/
def geluConst (p : Nat) : Nat × Nat :=
  let c := piEnc p
  (isqrt (8 * 2 ^ (3 * p) / c.2.toNat), isqrt (8 * 2 ^ (3 * p) / c.1.toNat + 1) + 1)

/-! ### The functions at a finite input that is not zero -/

/-- |x| = m · 2^e in units of 2^-p. -/
def absFixed (p m : Nat) (e : Int) : Int × Int :=
  let d := e + p
  if 0 ≤ d then (m * 2 ^ d.toNat, m * 2 ^ d.toNat)
  else (m / 2 ^ (-d).toNat, if m % 2 ^ (-d).toNat = 0 then m / 2 ^ (-d).toNat else m / 2 ^ (-d).toNat + 1)

def Enc.neg (x : Enc) : Enc := ⟨-x.hi, -x.lo, x.e⟩

/-- The enclosure times ±m · 2^e. -/
def Enc.scale (x : Enc) (neg : Bool) (m : Nat) (e : Int) : Enc :=
  let y : Enc := ⟨x.lo * m, x.hi * m, x.e + e⟩
  if neg then y.neg else y

/-- A value that is the integer `n` in units of 2^e, or lies just above it. -/
def sticky (n : Nat) (exact_ : Bool) (e : Int) : Enc := if exact_ then ⟨n, n, e⟩ else ⟨2 * n + 1, 2 * n + 1, e - 1⟩

/-- w = 2 · √(2/π) · (|x| + 0.044715 |x|³), in units of 2^-p. -/
def geluArg (p m : Nat) (e : Int) : Int × Int :=
  let d := (-e).toNat
  let m := m * 2 ^ e.toNat
  let num := m * (1000000 * 2 ^ (2 * d) + 44715 * m * m)
  let den := 1000000 * 2 ^ (3 * d)
  let c := geluConst p
  (c.1 * num / den, c.2 * num / den + 1)

/-- ln x, or log2 x when `two`, of x = m · 2^e > 0. -/
def logEnc (p : Nat) (two : Bool) (m : Nat) (e : Int) : Enc :=
  let k := e + m.log2
  let b := 2 ^ m.log2
  let z := atanh2 p (m - b) (m + b)
  let l := ln2 p
  if two then ⟨k * 2 ^ p + z.1 * 2 ^ p / l.2, k * 2 ^ p + (z.2 * 2 ^ p / l.1 + (if m = b then 0 else 1) : Nat), -p⟩
  else if 0 ≤ k then ⟨k * l.1 + z.1, k * l.2 + z.2, -p⟩ else ⟨k * l.2 + z.1, k * l.1 + z.2, -p⟩

/-- A factor just below 1. -/
def belowOne : Enc := ⟨2 ^ 600 - 1, 2 ^ 600 - 1, -600⟩

/-- A function at ±m · 2^e, m not 0, enclosed with precision `p`; a negative input of log2, ln, sqrt and rsqrt does not come
here (Table 9.12). Beyond 512, and beyond 16 for gelu, a value too close to its limit to round otherwise stands for the
value.
(DESIGN CHOICE: log entry 19.) -/
def fireflyEnc (p fn : Nat) (neg : Bool) (m : Nat) (e : Int) : Enc :=
  let big := decide (9 ≤ msbExp m e)
  let x := absFixed p m e
  let even := e % 2 = 0
  let m2 := if even then m else 2 * m
  let e2 := if even then e else e - 1
  match fn with
  | 0 =>
    if big then ⟨1, 1, if neg then -512 else 512⟩
    else if neg then exp2Enc p (-x.2) (-x.1) else exp2Enc p x.1 x.2
  | 1 =>
    if big then ⟨1, 1, if neg then -512 else 512⟩
    else if neg then expEnc p (-x.2) (-x.1) else expEnc p x.1 x.2
  | 2 => logEnc p true m e
  | 3 => logEnc p false m e
  | 4 => (fun y : Enc => if neg then y.neg else y) (sticky (2 ^ 400 / m) (2 ^ 400 % m == 0) (-400 - e))
  | 5 =>
    let n := isqrt (m2 * 2 ^ 400)
    sticky n (n * n == m2 * 2 ^ 400) (e2 / 2 - 200)
  | 6 =>
    let n := isqrt (2 ^ 800 / m2)
    sticky n (n * n * m2 == 2 ^ 800) (-400 - e2 / 2)
  | 7 => if big then (if neg then ⟨1, 1, -512⟩ else belowOne) else sigmoidEnc p neg x.1 x.2
  | 8 => (fun y : Enc => if neg then y.neg else y) (if big then belowOne else tanhEnc p x.1 x.2)
  | 9 =>
    if 4 ≤ msbExp m e then (if neg then ⟨-1, -1, -512⟩ else belowOne.scale false m e)
    else
      let w := geluArg p m e
      (sigmoidEnc p neg w.1 w.2).scale neg m e
  | _ =>
    if big then (if neg then ⟨-1, -1, -512⟩ else belowOne.scale false m e)
    else (sigmoidEnc p neg x.1 x.2).scale neg m e

/-- An input whose exact result is a number of the form n · 2^k: 2^x of an integer, log2 of a power of two, ln 1. -/
def fireflyExact (fn : Nat) (neg : Bool) (m : Nat) (e : Int) : Option Val :=
  let whole := decide (0 ≤ e) || m % 2 ^ (-e).toNat == 0
  let n : Int := if 0 ≤ e then m * 2 ^ e.toNat else (m / 2 ^ (-e).toNat : Nat)
  if fn = 0 ∧ whole ∧ n < 512 then some (.fin false 1 (if neg then -n else n))
  else if fn = 2 ∧ m = 2 ^ m.log2 then some (valOfInt (e + m.log2))
  else if fn = 3 ∧ m = 2 ^ m.log2 ∧ e + m.log2 = 0 then some (.fin false 0 0)
  else none

/-! ### Special inputs and results -/

/-- Table 9.12 at −∞, −0, +0, +∞ and NaN, and at a negative number where the result is NaN; otherwise none. -/
def fireflySpecial (fn : Nat) (x : Val) : Option Val :=
  let zero (s : Bool) : Val := .fin s 0 0
  let one : Val := .fin false 1 0
  match x with
  | .nan => some .nan
  | .inf neg =>
    some (if neg then
      (match fn with
       | 0 | 1 | 7 => zero false
       | 2 | 3 | 5 | 6 => .nan
       | 8 => .fin true 1 0
       | _ => zero true)
    else
      (match fn with
       | 4 | 6 => zero false
       | 7 | 8 => one
       | _ => .inf false))
  | .fin neg m _ =>
    if m = 0 then
      some (match fn with
        | 0 | 1 => one
        | 2 | 3 => .inf true
        | 4 | 6 => .inf neg
        | 7 => .fin false 1 (-1)
        | _ => zero neg)
    else if neg && (fn == 2 || fn == 3 || fn == 5 || fn == 6) then some .nan else none

/-- A value taken to OFMT (R288): RoundTo with .rne, or, for s16, scaled by 2^OSH and converted by R55. -/
def fireflyOut (ofmt osh : Nat) (v : Val) : Nat :=
  match floatFmt ofmt with
  | some f => (f.roundTo v 0 0 0).1
  | none =>
    let v : Val := match v with
      | .fin s m e => .fin s m (e + osh)
      | v => v
    wrapTo 16 (toIntFmt 0x04 v 0 0 0).1

/-- An integer in units of 2^e as a value. -/
def valAt (n e : Int) : Val := .fin (decide (n < 0)) n.natAbs e

/-- The result that both ends of an enclosure round to, if it is one. -/
def Enc.settle (x : Enc) (ofmt osh : Nat) : Option Nat :=
  let a := fireflyOut ofmt osh (valAt x.lo x.e)
  if a = fireflyOut ofmt osh (valAt x.hi x.e) then some a else none

/-- A function of Firefly at one input encoding (R288, Table 9.12). -/
def firefly (fn ifmt ofmt osh bits : Nat) : Nat :=
  let x := laneVal ifmt bits
  match fireflySpecial fn x with
  | some v => fireflyOut ofmt osh v
  | none => match x with
    | .fin neg m e =>
      match fireflyExact fn neg m e with
      | some v => fireflyOut ofmt osh v
      | none =>
        ([96, 1000, 8000].findSome? fun p => (fireflyEnc p fn neg m e).settle ofmt osh).getD
          (Config.fireflyFree fn bits ofmt osh % 2 ^ 16)
    | _ => 0

/-! ### The fex command -/

/-- The fex body and FLAGS (Table 9.11). -/
def xFn (b : BitVec 1024) : Nat := bitsNat b 3 0
def xSrc (b : BitVec 1024) : PlaceAddr := fld b (8 * 0x20) 32
def xDst (b : BitVec 1024) : PlaceAddr := fld b (8 * 0x24) 32
def xCount (b : BitVec 1024) : Nat := blk b 0x28 4
def xIfmt (b : BitVec 1024) : Nat := bitsNat b (8 * 0x2C + 4) (8 * 0x2C)
def xOfmt (b : BitVec 1024) : Nat := bitsNat b (8 * 0x2C + 12) (8 * 0x2C + 8)
def xOsh (b : BitVec 1024) : Nat := bitsNat b (8 * 0x2C + 19) (8 * 0x2C + 16)

/-- The checks of a fex body (R75, R287). -/
def State.fexCheck (s : State) (i : Item) : Check :=
  let b := i.block
  let n := xCount b
  let f := xIfmt b
  let g := xOfmt b
  (i.need (decide (xFn b ≤ 10) && decide (1 ≤ n) && decide (n ≤ 65536) && (f == 0x0F || f == 0x10 || f == 0x11) &&
    (g == 0x0F || g == 0x10 || g == 0x04))).orElse fun _ =>
  (s.needPlace i (xSrc b) (n * fmtBits f / 8) 1).orElse fun _ => s.needPlace i (xDst b) (n * fmtBits g / 8) 1

/-- The results of a sweep; one that overlaps the source is indeterminate, unless every result replaces its own input
(R288). -/
def fexBytes (i : Item) (l : List DByte) : List DByte :=
  let b := i.block
  let c := i.core.toNat
  let f := xIfmt b
  let g := xOfmt b
  let wf := fmtBits f / 8
  let wg := fmtBits g / 8
  let src := placeKey c (xSrc b)
  let dst := placeKey c (xDst b)
  let own := decide (src = dst ∧ wf = wg)
  let a := l.toArray
  (List.range (xCount b)).flatMap fun k =>
    let v := firefly (xFn b) f g (xOsh b) (elemOf a (8 * wf) k).1
    let clash := !own && rangesMeet (dst + k * wg) wg src (xCount b * wf)
    (natBytes v wg).map fun x => { v := x, hole := clash }

/-- What a fex item moves. -/
def Item.fexXfer (i : Item) : Xfer :=
  let b := i.block
  let c := i.core.toNat
  { src := [(.key (placeKey c (xSrc b)), xCount b * fmtBits (xIfmt b) / 8)]
    dst := [(.key (placeKey c (xDst b)), xCount b * fmtBits (xOfmt b) / 8)]
    f := fexBytes i, consumes := xCount b * fmtBits (xIfmt b) / 8 }

/-- fex [xa] (R287). -/
def execFexPlace (a : BitVec 5) (s : State) : Out := .next (s.finish (commandTo 4 (s.placeBlock a 4)))

/-- fex [hN + xb] (R287). -/
def execFexHandle (h b : BitVec 5) (s : State) : Out := .next (s.finish (commandTo 4 (s.handleBlock h b)))

/-- FIREFLY_SWEEP_COMPLETE: fex item `about.k`, the first of its Firefly, writes its results and makes its completion actions
(R278, R288). The count for CK = 1 is that of the output bytes. -/
def execFireflySweepComplete (s : State) : Out :=
  match s.item s.about.k with
  | some i =>
    if i.fn = 4 ∧ s.canRun i then
      .next (s.orFinish i fun s =>
        s.transfer i i.fexXfer fun _ => (·.finishItem i (xCount i.block * fmtBits (xOfmt i.block) / 8)))
    else .next s
  | none => .next s

end Sys2Proof.Machine
end

