-- ==== Sys2Proof/Machine/Scarab.lean ====
section
/-! DEFINITION. Scarab and the tile stream format (R289 to R292). -/

namespace Sys2Proof.Machine

/-! ### The scrb body (Table 9.13) -/

def rSmem (b : BitVec 1024) : Bool := b.getLsbD 0
def rSrc (b : BitVec 1024) : Nat := blk b 0x20 8
def rDst (b : BitVec 1024) : PlaceAddr := fld b (8 * 0x28) 32
def rDlim (b : BitVec 1024) : Nat := blk b 0x2C 4
def rDict (b : BitVec 1024) : PlaceAddr := fld b (8 * 0x30) 32
def rDlen (b : BitVec 1024) : Nat := blk b 0x34 4
def rSlen (b : BitVec 1024) : Nat := blk b 0x38 4

/-- Bytes `o` to `o + 3` of a stream, little-endian. -/
def word32 (l : List Byte) (o : Nat) : Nat := bytesNat ((l.drop o).take 4)

/-- The header of a stream is right for its card (Table 9.14, R291). -/
def headerOk (b : BitVec 1024) (l : List Byte) : Bool :=
  decide (16 ≤ l.length) && l.take 4 == [0x47, 0x54, 0x53, 0x31] && decide (16 + word32 l 8 = rSlen b) &&
    decide (word32 l 4 ≤ rDlim b)

/-- The header as acceptance can read it: none when its page is absent or remote, or its line poisoned; the item then
reads it as it decodes. -/
def State.header (s : State) (i : Item) : Option (List Byte) :=
  match s.resolve i 0 [(i.loc (rSmem i.block) (rSrc i.block), Nat.min 16 (rSlen i.block))] [] with
  | .ok ps s =>
    if (s.poisonParts ps).isSome || (ps.any fun p => match p with | .rem .. => true | .mem .. => false) then none
    else some ((s.gatherBytes i [] 0 ps).map (·.v))
  | _ => none

/-- An accepted job holds the translation of its header (R383, R387). -/
def State.holdHeader (s : State) (i : Item) : State :=
  match s.resolve i 0 [(i.loc (rSmem i.block) (rSrc i.block), Nat.min 16 (rSlen i.block))] [] with
  | .ok _ s => s
  | _ => s

/-- The checks of a scrb card (R75, R289, R291). -/
def State.scrbCheck (s : State) (i : Item) : Check :=
  let b := i.block
  (i.need (decide (1 ≤ rDlim b) && decide (rDlim b ≤ 2 ^ 19) && decide (rDlen b ≤ 2048))).orElse fun _ =>
  (s.needPlace i (rDst b) (rDlim b) 1).orElse fun _ =>
  (checkIf (rDlen b != 0) (s.needPlace i (rDict b) (rDlen b) 1)).orElse fun _ =>
  (checkIf (!rSmem b && rSlen b != 0) (s.needPlace i (BitVec.ofNat 32 (rSrc b)) (rSlen b) 1)).orElse fun _ =>
  match s.header i with
  | some l => i.need (headerOk b l)
  | none => none

/-! ### ScarabDecode (R291) -/

/-- Output so far, and whether no Fault has come. -/
abbrev Scb := Array Byte × Bool

/-- Prior(q) with q = p − d: an earlier output byte, or a byte of the dictionary. -/
def prior (dict out : Array Byte) (d : Nat) : Option Byte :=
  if d ≤ out.size then out[out.size - d]?
  else if d - out.size ≤ dict.size then dict[dict.size - (d - out.size)]? else none

/-- A back-reference of `n` bytes at offset `d`, byte by byte. -/
def copyBack (ulen : Nat) (dict : Array Byte) (d : Nat) : Nat → Array Byte → Scb
  | 0, out => (out, true)
  | n + 1, out =>
    match prior dict out d with
    | some b => if ulen ≤ out.size then (out, false) else copyBack ulen dict d n (out.push b)
    | none => (out, false)

/-- A literal run of `n` bytes from position `c`. -/
def literal (ulen : Nat) (src : Array Byte) : Nat → Nat → Array Byte → Scb
  | 0, _, out => (out, true)
  | n + 1, c, out =>
    match src[c]? with
    | some b => if ulen ≤ out.size then (out, false) else literal ulen src n (c + 1) (out.push b)
    | none => (out, false)

/-- The commands from position `c` on; `fuel` bounds their number. -/
def decodeFrom (ulen : Nat) (dict src : Array Byte) : Nat → Nat → Array Byte → Scb
  | 0, _, out => (out, true)
  | fuel + 1, c, out =>
    match src[c]? with
    | none => (out, true)
    | some b =>
      if b.getLsbD 7 = false then
        let n := b.toNat + 1
        match literal ulen src n (c + 1) out with
        | (out, true) => decodeFrom ulen dict src fuel (c + 1 + n) out
        | r => r
      else match src[c + 1]? with
        | none => (out, false)
        | some e =>
          let d := bitsNat b 2 0 * 256 + e.toNat + 1
          let l := bitsNat b 6 3
          let more := if l = 15 then src[c + 2]? else some 0
          match more with
          | none => (out, false)
          | some x =>
            match copyBack ulen dict d (l + 3 + x.toNat) out with
            | (out, true) => decodeFrom ulen dict src fuel (c + (if l = 15 then 3 else 2)) out
            | r => r

/-- The output of a stream, and whether the decode ends without a Fault. -/
def scarabDecode (dict src : List Byte) : List Byte × Bool :=
  let ulen := word32 src 4
  let r := decodeFrom ulen dict.toArray src.toArray src.length 16 #[]
  let sum := r.1.foldl (fun n b => n + b.toNat) 0
  (r.1.toList, r.2 && decide (r.1.size = ulen) && decide (sum % 2 ^ 32 = word32 src 12))

/-! ### The command and its event -/

/-- scrb [xa] (R289). -/
def execScrbPlace (a : BitVec 5) (s : State) : Out := .next (s.finish (commandTo 5 (s.placeBlock a 5)))

/-- scrb [hN + xb] (R289). -/
def execScrbHandle (h b : BitVec 5) (s : State) : Out := .next (s.finish (commandTo 5 (s.handleBlock h b)))

/-- The output of a job from the bytes of its stream and dictionary, and whether it decodes without a Fault. -/
def scarabJob (b : BitVec 1024) (l : List DByte) : List Byte × Bool :=
  let src := (l.take (rSlen b)).map (·.v)
  if headerOk b src then scarabDecode ((l.drop (rSlen b)).map (·.v)) src else ([], false)

/-- What a job moves: poison in its stream or its dictionary is consumed (R83), and its output never alters its input (R289).
(DEDUCED: log entry 43.) -/
def Item.scrbXfer (i : Item) : Xfer :=
  let b := i.block
  { src := (i.loc (rSmem b) (rSrc b), rSlen b) :: (if rDlen b = 0 then [] else [(i.loc false (rDict b).toNat, rDlen b)])
    dst := [(i.loc false (rDst b).toNat, rDlim b)]
    f := fun l => (scarabJob b l).1.map fun v => { v := v }
    consumes := rSlen b + rDlen b, mixes := false }

/-- A job whose output is written makes its completion actions, or ends with ENGINE_FAULT (R291). -/
def State.scrbEnd (s : State) (i : Item) (l : List DByte) : State :=
  let r := scarabJob i.block l
  if r.2 then s.finishItem i r.1.length else s.itemTrap i i.fault

/-- SCARAB_DECODE: scrb item `about.k`, the first of its Scarab, decodes its stream (R291). -/
def execScarabDecode (s : State) : Out :=
  match s.item s.about.k with
  | some i =>
    if i.fn = 5 ∧ s.canRun i then .next (s.orFinish i fun s => s.transfer i i.scrbXfer fun l s => s.scrbEnd i l) else .next s
  | none => .next s

end Sys2Proof.Machine
end

