-- ==== Sys2Proof/Machine/Cred.lean ====
section
/-! DEFINITION. The collective unit (R447 to R449), and the acceptance of every command whose block its engine reads
(R28, R139). What the other ranks contribute comes from outside with the event. -/

namespace Sys2Proof.Machine

/-! ### The cred body (Table 16.15) -/

def kOp (b : BitVec 1024) : Nat := bitsNat b 1 0
def kRed (b : BitVec 1024) : Nat := bitsNat b 3 2
def kSmem (b : BitVec 1024) : Bool := b.getLsbD 4
def kDmem (b : BitVec 1024) : Bool := b.getLsbD 5
def kSrc (b : BitVec 1024) : Nat := blk b 0x20 8
def kDst (b : BitVec 1024) : Nat := blk b 0x28 8
def kCount (b : BitVec 1024) : Nat := blk b 0x30 4
def kGang (b : BitVec 1024) : Nat := blk b 0x34 4
def kRank (b : BitVec 1024) : Nat := blk b 0x38 2
def kMemb (b : BitVec 1024) : Nat := blk b 0x3A 2
def kFmt (b : BitVec 1024) : Nat := bitsNat b (8 * 0x3C + 4) (8 * 0x3C)
def kSeq (b : BitVec 1024) : Nat := blk b 0x3E 2
def kNodes (b : BitVec 1024) : PlaceAddr := fld b (8 * 0x40) 32

/-- Bytes of an element, of the contribution and of the results (R449). -/
def kWidth (b : BitVec 1024) : Nat := fmtBits (kFmt b) / 8
def kIn (b : BitVec 1024) : Nat := kCount b * kWidth b
def kOut (b : BitVec 1024) : Nat := if kOp b = 1 then kCount b / Nat.max 1 (kMemb b) * kWidth b else kIn b

/-- The member nodes in rank order. -/
def State.kNodeList (s : State) (i : Item) : List Node :=
  (List.range (kMemb i.block)).map fun r => BitVec.ofNat 12 (s.get (placeKey i.core.toNat (kNodes i.block) + 2 * r) 2)

/-- The nodes of the gang are fit for a collective (R448). -/
def State.kNodesOk (s : State) (i : Item) : Bool :=
  let l := s.kNodeList i
  l[kRank i.block]? == some s.hub.nodeid && noTwice l &&
    l.all fun n => n == s.hub.nodeid || (s.session i.ctx n).st == .opened

/-- The context has another unfinished CRED of the same gang and number (R448). -/
def State.kTwin (s : State) (i : Item) : Bool :=
  s.items.any fun (x : Item) => x.fn == 8 && x.ctx == i.ctx && x.id != i.id && x.st != .queued &&
    kGang x.block == kGang i.block && kSeq x.block == kSeq i.block

/-- The checks of a cred block (R75, R448). -/
def State.credCheck (s : State) (i : Item) : Check :=
  let b := i.block
  let n := kCount b
  let f := kFmt b
  (i.need (decide (kOp b ≤ 1) && decide (kRed b ≤ 2) && decide (1 ≤ n) && decide (n ≤ 2 ^ 22) && decide (1 ≤ kMemb b) &&
    decide (kMemb b ≤ 4096) && decide (kRank b < kMemb b) && (f == 6 || f == 7 || f == 0x0F || f == 0x10 || f == 0x11) &&
    (kOp b == 0 || n % kMemb b == 0))).orElse fun _ =>
  (s.needPlace i (kNodes b) (2 * kMemb b) 2).orElse fun _ =>
  (s.needRange i (kSmem b) (kSrc b) (kIn b)).orElse fun _ =>
  (s.needRange i (kDmem b) (kDst b) (kOut b)).orElse fun _ => i.need (s.kNodesOk i && !s.kTwin i)

/-- cred [xa] (R447). -/
def execCredPlace (a : BitVec 5) (s : State) : Out := .next (s.finish (commandTo 8 (s.placeBlock a 8)))

/-- cred [hN + xb] (R447). -/
def execCredHandle (h b : BitVec 5) (s : State) : Out := .next (s.finish (commandTo 8 (s.handleBlock h b)))

/-! ### The reduction -/

/-- One combination of two elements (R449): sum, max or min of a format. -/
def combine (fmt red a b : Nat) : Nat :=
  match floatFmt fmt with
  | some f =>
    if red = 0 then (f.finish (addVal (f.decode a) (f.decode b) 0) 0 0 0).1 else f.minMax (red == 1) a b
  | none =>
    if red = 0 then (a + b) % 2 ^ 32
    else
      let below := decide (intOf (isSigned fmt) 32 a < intOf (isSigned fmt) 32 b)
      if below == (red == 1) then b else a

/-- The result of one element from the ranks' contributions in order (R449). -/
def reduce (fmt red : Nat) (l : List Nat) : Nat := ((pairTree (combine fmt red) l.length l)[0]?).getD 0

/-- The first element and the number of elements that a rank receives (R449). -/
def kSlice (b : BitVec 1024) : Nat × Nat :=
  if kOp b = 1 then (kRank b * (kCount b / Nat.max 1 (kMemb b)), kCount b / Nat.max 1 (kMemb b)) else (0, kCount b)

/-- The bytes of the results: `ranks` are the contributions of the other ranks, `bad` the elements to which one of them
contributed from a poisoned line. -/
def credBytes (i : Item) (ranks : List (List (BitVec 32))) (bad : List Nat) : List DByte :=
  let b := i.block
  let w := kWidth b
  let mine : Array DByte := (i.kept.map fun (e : Byte × Bool) => { v := e.1, bad := e.2 }).toArray
  let sl := kSlice b
  (List.range sl.2).flatMap fun j =>
    let e := sl.1 + j
    let own := elemOf mine (8 * w) e
    let c := (List.range (kMemb b)).map fun r =>
      if r = kRank b then own.1 else ((((ranks[r]?).getD [])[e]?).getD 0).toNat % 2 ^ (8 * w)
    (natBytes (reduce (kFmt b) (kRed b) c) w).map fun v => { v := v, bad := own.2.1 || bad.contains e }

/-- The collective messages of a contribution: one for each 64 bytes to each other member, marked when it holds poisoned bytes.
(DESIGN CHOICE: log entry 42.) -/
def credMsgs (l : List DByte) (nodes : List Node) : List (Node × Nat × List Byte × X64 × Bool) :=
  nodes.flatMap fun n => (List.range ((l.length + 63) / 64)).map fun k =>
    let m := (l.drop (64 * k)).take 64
    (n, 0, m.map (·.v), 0, m.any DByte.sick)

/-- What a reference says: OP, RED, FMT, COUNT, NMEMB and NODES (R448).
(DESIGN CHOICE: log entry 42.) -/
def credRef (b : BitVec 1024) (nodes : List Node) : List Byte :=
  natBytes (kOp b + 4 * kRed b) 1 ++ natBytes (kFmt b) 1 ++ natBytes (kMemb b) 2 ++ natBytes (kCount b) 4 ++
    nodes.flatMap fun n => natBytes n.toNat 2

/-- The source of a CRED. -/
def Item.credSrc (i : Item) : List (Loc × Nat) := [(i.loc (kSmem i.block) (kSrc i.block), kIn i.block)]

/-- The destination of a CRED. -/
def Item.credDst (i : Item) : List (Loc × Nat) := [(i.loc (kDmem i.block) (kDst i.block), kOut i.block)]

/-- The contribution is read, and sent to the other members, by rank 0 behind its reference (R448). -/
def State.contribute (s : State) (i : Item) (ps : List EPiece) : State :=
  if s.tooFresh ps || !s.partsClear i ps then s
  else
    let l := s.gatherBytes i [] 0 ps
    let nodes := s.kNodeList i
    let others := nodes.filter (· != s.hub.nodeid)
    let first := if kRank i.block = 0 then credMsgs ((credRef i.block nodes).map fun v => { v := v }) others else []
    let i' : Item := { i with phase := 3, kept := l.map fun (d : DByte) => (d.v, d.sick) }
    ((s.touchParts ps).modItem i.id fun x => { x with phase := 3, kept := i'.kept }).sendStores i' (first ++ credMsgs l others)

/-- The contributions of the other ranks: those that have reached the item, or those that the event brings. -/
def State.heardBy (s : State) (i : Item) : List (List (BitVec 32)) × List Nat := i.heard.getD (s.about.ranks, s.about.nats)

/-- The item keeps what has reached it. -/
def State.keepHeard (s : State) (i : Item) : State :=
  s.modItem i.id fun x => { x with heard := some (x.heard.getD (s.about.ranks, s.about.nats)) }

/-- The results of a CRED. -/
def State.credOut (s : State) (i : Item) : List DByte :=
  let h := s.heardBy i
  credBytes i h.1 h.2

/-- The reference agrees, or the item is rank 0's: its results may be formed (R448). -/
def Item.agreed (i : Item) : Bool := i.phase == 3 && (kRank i.block == 0 || i.refOk)

/-- The results of a CRED are written, and its completion actions run (R449). -/
def State.credWrite (s : State) (i : Item) : State :=
  (s.keepHeard i).targets i i.credDst fun t ps =>
    if t.partsClear i ps then t.writeOut i ps (s.credOut i) (·.finishItem i (kOut i.block)) else s.keepHeard i

/-- CRED_COMPLETE: cred item `about.k` goes on. Its contribution is read and sent; when every message is answered, its
results are written, from the contributions `about.ranks` of the other ranks, with the elements `about.nats` to which they
contributed from poisoned lines, and its completion actions run (R448, R449). With `about.yes` rank 0's reference `about.bytes`
reaches it: a member whose block differs takes ENGINE_FAULT, and no other finishes without the reference. -/
def execCredComplete (s : State) : Out :=
  match s.item s.about.k with
  | some i =>
    let b := i.block
    if !(decide (i.fn = 8) && s.canRun i) then .next s
    else if s.about.yes then
      (if kRank b = 0 then .next s
       else if s.about.bytes = credRef b (s.kNodeList i) then .next (s.modItem i.id fun x => { x with refOk := true })
       else .next (s.itemTrap i i.fault))
    else .next (s.orFinish i fun s =>
      if i.phase = 2 then s.drainStores i (·.finishItem i (kOut b))
      else if i.phase ≠ 3 then s.sources i i.credSrc fun s ps => s.contribute i ps
      else if i.agreed then s.drainStores i fun s => s.credWrite i
      else s)
  | none => .next s

/-- One piece of a CRED by itself: of its contribution, which is read, or with `about.yes` of its results (R118, R136). -/
def State.credPiece (s : State) (i : Item) : State :=
  if s.about.yes then
    (if i.agreed then (s.keepHeard i).targets i i.credDst fun t ps =>
      match (partPieces ps 0)[s.about.n]? with
      | some p => t.putPiece i p (((s.credOut i).drop p.2.2.1).take p.2.1)
      | none => t
     else s)
  else if 1 < i.phase then s
  else match s.resolve i 0 i.credSrc [] with
    | .ok ps t => t.movePiece i { src := [], dst := [], f := fun l => l, mixes := false } ps []
    | _ => s

/-- The destination bytes of a collective that did not finish are indeterminate (R10, R448). -/
def State.credHoles (s : State) (i : Item) : State :=
  match s.resolve i 1 i.credDst [] with
  | .ok ps s => match s.putParts { i with wrote := [] } 0 ps (List.replicate (kOut i.block) { hole := true }) with
    | .ok s => s
    | _ => s
  | _ => s

/-- CRED_WAIT_LIMIT: cred item `about.k` has not finished within WLIM × 256 cycles of its acceptance (R447, R448). -/
def execCredWaitLimit (s : State) : Out :=
  match s.item s.about.k with
  | some i =>
    if i.fn = 8 ∧ i.st ≠ .queued ∧ i.overdue ∧ !s.itemFrozen i then
      .next ((s.credHoles i).itemFail i cWAIT_LIMIT i.blockAddr)
    else .next s
  | none => .next s

/-! ### Acceptance (R28, R75, R277) -/

/-- The body checks of a command whose block its engine reads. -/
def State.bodyCheck (s : State) (i : Item) : Check :=
  if i.fn = 3 then s.strmCheck i else if i.fn = 4 then s.fexCheck i else if i.fn = 5 then s.scrbCheck i
  else if i.fn = 8 then s.credCheck i else s.nvCheck i

/-- The port of a storage item is contained: the item stalls (R460). -/
def State.portHeld (s : State) (i : Item) : Bool :=
  (i.fn == 6 || i.fn == 7) && (vget s.hub.ports (nPort i.block) {}).contained

/-- An engine accepts an item: its block is read once and checked (R139); a failure ends the item (R29). -/
def State.acceptItem (s : State) (i : Item) : State :=
  match poisonIn s i.blockKey (blockBytes i.fn) with
  | some l => s.itemTrap i (poisonTrap i.core.toNat l false)
  | none =>
    let i : Item := { i with block := s.readBlock i }
    if s.portHeld i then s
    else match (s.headCheck i).orElse fun _ => s.bodyCheck i with
      | some t => s.itemTrap i t
      | none =>
        let st : ItemSt := if bWt i.block then .accepted else .running
        let s := (s.touch i.blockKey false).modItem i.id fun x => { x with block := i.block, st := st, pages := [] }
        let i : Item := { i with st := st, pages := [] }
        if i.fn = 6 ∨ i.fn = 7 then s.holdBuf i else if i.fn = 5 then s.holdHeader i else s

/-- ENGINE_ACCEPT: the engine of item `about.k`, submitted in an earlier cycle, accepts it, the oldest of its queue (R28). -/
def execEngineAccept (s : State) : Out :=
  match s.item s.about.k with
  | some i =>
    if i.st = .queued ∧ i.at_ < s.cycle ∧ (s.earlier i).all (fun (x : Item) => x.st != .queued) then .next (s.acceptItem i)
    else .next s
  | none => .next s

/-! ### Starting (R278) -/

/-- What an item that works on its bytes alone moves. -/
def State.work (s : State) (i : Item) : Option Xfer := match i.fn with
  | 0 | 2 => some i.copyXfer
  | 1 => s.indexXfer i
  | 3 => some i.strmXfer
  | 4 => some i.fexXfer
  | 5 => some i.scrbXfer
  | _ => none

/-- An item that runs moves one piece by itself, its turn come or not (R118, R136). -/
def State.onePiece (s : State) (i : Item) : State :=
  if i.moved.isSome then s
  else if i.fn = 8 then s.credPiece i
  else if i.fn = 6 ∨ i.fn = 7 then (if s.nvRuns i then s.nvPiece i else s)
  else match s.work i with
    | some x => s.moveOne i x
    | none => s

/-- An accepted item whose earlier ones of its engine have started starts, when the barrier at WBAR shows phase WPH (R278); as BWAIT,
it takes POISON of a poisoned barrier (R83, R370). -/
def State.startItem (s : State) (i : Item) : State :=
  if !(s.earlier i).all (fun (x : Item) => !x.inQueue) || (bWt i.block && s.itemFrozen i) then s
  else match (if bWt i.block then poisonIn s (placeKey i.core.toNat (bWbar i.block)) 16 else none) with
    | some l => s.itemTrap i (poisonTrap i.core.toNat l true)
    | none => if s.phaseShown i then s.modItem i.id fun i => { i with st := .running } else s

/-- ENGINE_ITEM_START: item `about.k`, accepted, starts (R278); one that runs, its turn come or not, moves one piece by itself (R28, R118,
R136). -/
def execEngineItemStart (s : State) : Out :=
  .next (match s.item s.about.k with
    | some i =>
      if i.st = .accepted then s.startItem i
      else if i.st = .running then s.onePiece i
      else s
    | none => s)

end Sys2Proof.Machine
end

