-- ==== Sys2Proof/Machine/Data.lean ====
section
/-! DEFINITION. The instructions of the L-stream and the S-stream (R211 to R234): row loads and stores, the scale queue,
notes and waits, marks and fences. -/

namespace Sys2Proof.Machine

/-! ### Address registers -/

/-- Register a`i` of a data stream (Table 7.1). -/
def Core.aReg (k : Core) (st : Stream) (i : BitVec 4) : PlaceAddr :=
  if st = .l then vget k.aL i.toNat 0 else vget k.aS i.toNat 0

def Core.setA (k : Core) (st : Stream) (i : BitVec 4) (p : PlaceAddr) : Core :=
  if st = .l then { k with aL := vset k.aL i.toNat p } else { k with aS := vset k.aS i.toNat p }

/-- The address register of an access: a C-stream payload replaces it first (Table 7.2). -/
def State.aOf (s : State) (i : BitVec 4) (payload : Option X64) : PlaceAddr :=
  match payload with
  | some v => fld v 0 32
  | none => (s.core s.me).aReg s.st i

/-- The register keeps the payload (Table 7.2). -/
def State.keepA (s : State) (i : BitVec 4) (payload : Option X64) : State :=
  match payload with
  | some v => s.modCore s.me fun k => k.setA s.st i (fld v 0 32)
  | none => s

/-! ### The pieces of an access -/

/-- The pieces of an access, or its trap. -/
abbrev Pieces := Except Trap (List (Nat × Nat))

/-- One contiguous access of `n` bytes (R216, R218, R224, R225). -/
def State.span (s : State) (p : PlaceAddr) (o : Int) (n align : Nat) : Pieces :=
  (s.place s.me p o n align).map fun k => [(k, n)]

/-- The 64 words of DirWords (R219), in the issuing core's own L0. -/
def State.dirWords (s : State) (p : PlaceAddr) (o : Int) (d : BitVec 1) : Pieces :=
  let w := o / 8
  if o % 8 ≠ 0 ∨ (d = 0 ∧ w % 64 ≠ 0) ∨ (d = 1 ∧ w / 64 % 64 ≠ 0) then
    .error { cause := cMISALIGN, addr := placeRec p o }
  else
    let step := if d = 0 then 8 else 512
    match s.placeCheck s.me p o (step * 63 + 8) true with
    | .error r => .error (placeTrap p o r 0)
    | .ok (_, col) => .ok ((List.range 64).map fun k => (keyL0 col (o.toNat + step * k), 8))

/-- The formed offset of lane `k` of a gather or a scatter (R220). -/
def laneOff (p : PlaceAddr) (idx : Row) (k : Nat) : Int := offOf p + 8 * bitsNat idx (32 * k + 31) (32 * k)

/-- The words of GatherScatter (R220) for the lanes `k` of an index row: the trap names the lowest failing lane. -/
def State.lanes (s : State) (p : PlaceAddr) (idx : Row) : List Nat → Pieces
  | [] => .ok []
  | k :: t =>
    let o := laneOff p idx k
    match s.placeCheck s.me p o 8 true with
    | .error r => .error (placeTrap p o r k)
    | .ok (_, col) => (s.lanes p idx t).map ((keyL0 col o.toNat, 8) :: ·)

/-- The 56 words of a gather or a scatter (R220): an OFFSET that is no multiple of 8 fails in every lane, the lowest one first
(R488). -/
def State.gather (s : State) (p : PlaceAddr) (vi : BitVec 6) : Pieces :=
  let idx := (s.core s.me).rowSeen vi.toNat
  if offOf p % 8 ≠ 0 then .error { cause := cMISALIGN, addr := placeRec p (laneOff p idx 0) }
  else s.lanes p idx (List.range 56)

/-! ### Loads -/

/-- Why an L-stream load may not issue yet, if it may not (R134, R213, R222). -/
def State.lHold (s : State) : Option Why :=
  let k := s.core s.me
  match k.markOpen.head? with
  | some m => some (.mark m)
  | none =>
    match k.markWait.find? fun m => !s.shownBefore s.me m.2 with
    | some m => some (.mark m.1)
    | none =>
      if decide (16 ≤ k.lReads.length) || (k.lReads.any fun (r : Read) => r.pieces.any fun p => farKey s.me p.1) ||
          k.lAt == some s.cycle then
        some .other
      else none

/-- An L-stream load issues: it is performed at once when its target is the own column, and injected when it is another one (R103,
R222). Marks whose stores are all visible are forgotten. -/
def State.issueL (s : State) (r : Read) : State :=
  let c := s.me
  let k := s.core c
  let r := { r with no := k.accNo, pc := s.pc }
  let (r, s) := if r.pieces.any fun p => farKey c p.1 then (r, s.inject c .l true r.no (r.pieces.map (·.1))) else s.perform r
  s.modCore c fun k => { k with lReads := k.lReads ++ [r], accNo := k.accNo + 1, markWait := [] }

/-- A load of the L-stream with token fields (R215 to R224): its push comes when its data has returned (R221). -/
def State.rowLoad (s : State) (a : BitVec 4) (tok : Tok) (dst : ReadDst) (pieces : PlaceAddr → Pieces) : Out :=
  .next (s.finish (s.tokRun tok true fun payload =>
    match s.lHold with
    | some w => .wait s w
    | none => match pieces (s.aOf a payload) with
      | .error t => .trap t
      | .ok ps => .ok ((s.keepA a payload).issueL { dst := dst, pieces := ps, push := tok.push })))

/-- ldv vr, [a + off] (R218). -/
def execLdv (v : BitVec 6) (a : BitVec 4) (imm : BitVec 12) (tok : Tok) (s : State) : Out :=
  s.rowLoad a tok (.row v) fun p => s.span p (offOf p + 64 * imm.toInt) 448 64

/-- ldvd vr, [a + off], d (R219). -/
def execLdvd (v : BitVec 6) (a : BitVec 4) (dir : BitVec 1) (imm : BitVec 11) (tok : Tok) (s : State) : Out :=
  s.rowLoad a tok (.rowWords v) fun p => s.dirWords p (offOf p + 64 * imm.toInt) dir

/-- ldvg vr, [a], vi (R220). -/
def execLdvg (v : BitVec 6) (a : BitVec 4) (vi : BitVec 6) (tok : Tok) (s : State) : Out :=
  s.rowLoad a tok (.row v) fun p => s.gather p vi

/-- ldsc [a + off] (R224): a full scale queue stalls it. -/
def execLdsc (a : BitVec 4) (imm : BitVec 12) (tok : Tok) (s : State) : Out :=
  if 16 ≤ (s.core s.me).scaleCount then
    .next (s.finish (s.tokRun tok true fun _ => .wait s .scaleFull))
  else s.rowLoad a tok .scale fun p => s.span p (offOf p + 64 * imm.toInt) 64 64

/-! ### Stores -/

/-- The column and level of a place store. -/
def Store.target (e : Store) : Option (Nat × Nat) :=
  e.pieces.head?.bind fun p => (placeOfKey p.1).map fun x => (x.1, x.2.1)

/-- Why an S-stream store may not issue yet: no free entry (R213), or an earlier store to another column or level is not
visible (R223). -/
def State.sHold (s : State) (e : Store) : Bool :=
  let k := s.core s.me
  decide (16 ≤ k.sStores.length) || k.sStores.any fun (x : Store) => x.target != e.target

/-- A store of the S-stream with token fields: it completes as it issues (R221). -/
def State.rowStore (s : State) (a : BitVec 4) (tok : Tok) (keep : Bool) (pieces : PlaceAddr → Pieces)
    (store : Option X64 → List (Nat × Nat) → Store) : Out :=
  .next (s.finish (s.tokRun tok false fun payload =>
    match pieces (s.aOf a (if keep then payload else none)) with
    | .error t => .trap t
    | .ok ps =>
      let e := store payload ps
      if s.sHold e then .wait s .other
      else
        let c := s.me
        let slot := s.slotOf c
        let s' := if keep then s.keepA a payload else s
        let no := (s.core c).accNo
        let log := ps.any fun p => s.plogKey slot p.1
        let full := if e.addOne then [] else ps.flatMap fun p => fullLines p.1 p.2
        .ok ((s'.modCore c fun k =>
          { k with sStores := k.sStores ++ [{ e with no := no, pc := s.pc, log := log, full := full }]
                   accNo := no + 1 }).inject c .s false no (ps.map (·.1)))))

/-- The physical row `v` of the row file (R212). -/
def State.row (s : State) (v : BitVec 6) : Row := (s.core s.me).rowSeen v.toNat

/-- stv vr, [a + off] (R218). -/
def execStv (v : BitVec 6) (a : BitVec 4) (imm : BitVec 12) (tok : Tok) (s : State) : Out :=
  s.rowStore a tok true (fun p => s.span p (offOf p + 64 * imm.toInt) 448 64) fun _ ps =>
    { pieces := ps.map fun p => (p.1, natBytes (s.row v).toNat 448) }

/-- Bytes of the words of a row, each of `w` bits in 8 bytes (R219, R220). -/
def rowWords (r : Row) (w : Nat) (ps : List (Nat × Nat)) : List (Nat × List Byte) :=
  ps.zipIdx.map fun e => (e.1.1, natBytes (r.toNat / 2 ^ (w * e.2) % 2 ^ w) 8)

/-- stvd vr, [a + off], d (R219). -/
def execStvd (v : BitVec 6) (a : BitVec 4) (dir : BitVec 1) (imm : BitVec 11) (tok : Tok) (s : State) : Out :=
  s.rowStore a tok true (fun p => s.dirWords p (offOf p + 64 * imm.toInt) dir) fun _ ps =>
    { pieces := rowWords (s.row v) 56 ps }

/-- Of the pieces that name one word, the last one (R220). -/
def lastWords : List (Nat × List Byte) → List (Nat × List Byte)
  | [] => []
  | e :: t => if t.any fun x => x.1 == e.1 then lastWords t else e :: lastWords t

/-- stvx vr, [a], vi (R220): of the lanes that name one word, the highest one is stored. -/
def execStvx (v : BitVec 6) (a : BitVec 4) (vi : BitVec 6) (tok : Tok) (s : State) : Out :=
  s.rowStore a tok true (fun p => s.gather p vi) fun _ ps => { pieces := lastWords (rowWords (s.row v) 64 ps) }

/-- note [a + off] (R225): a payload is stored; without one the word is raised by 1. -/
def execNote (a : BitVec 4) (imm : BitVec 12) (tok : Tok) (s : State) : Out :=
  s.rowStore a tok false (fun p => s.span p (offOf p + 8 * imm.toInt) 8 8) fun payload ps =>
    { pieces := ps.map fun p => (p.1, natBytes ((payload.map (·.toNat)).getD 0) 8)
      addOne := payload.isNone, note := true }

/-! ### Registers, waits, marks and fences -/

/-- ainc a, off (R217). -/
def execAinc (a : BitVec 4) (imm : BitVec 12) (tok : Tok) (s : State) : Out :=
  .next (s.finish (s.tokRun tok false fun payload =>
    let p := s.aOf a payload
    let off : BitVec 19 := fld p 0 19 + (imm.signExtend 19) * 64
    .ok (s.modCore s.me fun k => k.setA s.st a ((fld p 19 13 : BitVec 13) ++ off))))

/-- waita [a], limit (R226): the word is read at each issue, as an acquire load, behind what its stream has sent to the word's column
(R103, R104); the token of its pop stays until the push has room.
(DESIGN CHOICE: log entry 105.) -/
def execWaita (a : BitVec 4) (limit : BitVec 12) (tok : Tok) (s : State) : Out :=
  let done (s : State) : Res := match s.tokEnd tok.push with
    | .ok s => .ok (s.modCore s.me fun k => k.tokPop s.st tok)
    | r => r
  .next (s.finish (match s.tokWait tok true with
    | some w => .wait s w
    | none =>
      let p := (s.core s.me).aReg s.st a
      if (s.seq s.me s.st).met then done s
      else match (if s.st = .l then s.lHold else none), s.place s.me p (offOf p) 8 8 with
        | some w, _ => .wait s w
        | none, .error t => .trap t
        | none, .ok key =>
          let w : Why := .wait (256 * limit.toNat) (placeRec p (offOf p)) (BitVec.ofNat 64 (256 * limit.toNat))
          if !s.clearTo s.me key then .wait s w
          else match poisonIn s key 8 with
            | some l => .trap (poisonTrap s.me l true)
            | none =>
              let v := bytesNat (s.seen key 8)
              let s := s.touch key false
              let ok := match s.payload tok with
                | some e => decide (e.toNat ≤ v)
                | none => decide (v ≠ 0)
              if ok then done s else .wait s w))

/-- An L-side MARK (R134): it pairs with the oldest unpaired S-side MARK of its number, or waits for one. -/
def Core.markL (k : Core) (m : Nat) : Core :=
  let n := vget k.marks m 0
  let k := { k with marks := vset k.marks m (n - 1) }
  match vget k.markS m [] with
  | b :: t => { k with markS := vset k.markS m t, markWait := k.markWait ++ [(m, b)] }
  | [] => { k with markOpen := k.markOpen ++ [m] }

/-- An S-side MARK (R134). -/
def Core.markSide (k : Core) (m : Nat) : Core :=
  let n := vget k.marks m 0
  let k := { k with marks := vset k.marks m (n + 1) }
  if k.markOpen.contains m then { k with markOpen := k.markOpen.erase m, markWait := k.markWait ++ [(m, k.accNo)] }
  else { k with markS := vset k.markS m (vget k.markS m [] ++ [k.accNo]) }

/-- mark m (R134, R227). -/
def execMark (m : BitVec 4) (tok : Tok) (s : State) : Out :=
  let i := m.toNat
  let n := vget (s.core s.me).marks i 0
  .next (s.finish (s.tokRun tok false fun _ =>
    if (s.st = .l ∧ n ≤ -15) ∨ (s.st ≠ .l ∧ 15 ≤ n) then .wait s (.mark i)
    else .ok (s.modCore s.me fun k => if s.st = .l then k.markL i else k.markSide i)))

/-- fence.d.scope (R130): its pop comes first, then the wait, then its push (R23). -/
def execFenceD (scope : BitVec 3) (tok : Tok) (s : State) : Out :=
  .next (match s.tokBegin tok with
    | .inr w => s.finish (.wait s w)
    | .inl s =>
      let k := s.core s.me
      let done := if s.st = .l then k.lReads.all fun (r : Read) => r.value.isSome
        else k.sStores.all fun (e : Store) => !s.storeIn s.me scope e
      s.finish (if done || (s.seq s.me s.st).met then s.tokEnd tok.push else .wait s .fence))

/-- lfence (R131): it completes, and pushes, when every earlier store of the S-stream is visible; it stalls nothing. -/
def execLfence (tok : Tok) (s : State) : Out :=
  let c := s.me
  if (s.core c).sStores.isEmpty then .next (s.finish (s.tokRun tok false fun _ => .ok s))
  else
    .next (s.finish (s.tokRun tok true fun _ =>
      .ok (s.modCore c fun k => { k with lfences := k.lfences ++ [(k.accNo, tok.push, s.pc)] })))

/-- LFENCE_COMPLETE: LFENCE `about.k` of core `about.core` completes when every earlier S-stream store is visible, and
pushes; a full queue stalls its stream (R24, R131). -/
def execLfenceComplete (s : State) : Out :=
  let k := s.core s.me
  match k.lfences[s.about.k]? with
  | some (n, push, pc) =>
    if !(k.sStores.all fun (e : Store) => decide (n ≤ e.no)) then .next s
    else if k.tokRoom .s push then
      .next (s.modCore s.me fun k => { k.pushLate .s push pc n with lfences := k.lfences.eraseIdx s.about.k })
    else .next (s.modCore s.me fun k => k.owe .s push pc)
  | none => .next s

/-- The C-stream passes the fence.rel of a scope on which it stalls: it precedes no later load (R129, Tables 4.3 and 4.6).
(DEDUCED: log entry 124.) -/
def State.passRel (s : State) (scope : BitVec 3) : State :=
  (s.modCore s.me fun k => { k with rels := (k.rels.filter fun f => !s.relOver s.me f) ++ [(scope, k.accNo)] }).advance

/-- FENCE_COMPLETE: the fence on which stream `about.stream` of core `about.core` stalls completes; the stream is released
and the fence issues (R129, R130). With `about.yes` a stream that stalls on a fence.rel goes on with what the fence does not order. -/
def execFenceComplete (s : State) : Out :=
  match (s.seq s.me s.st).stall with
  | some x =>
    let again : State := { s with agenda := .issue s.about.core s.st :: s.agenda }
    match x.why with
    | .rel scope =>
      .next (if !s.about.yes then again
        else if s.st = .c ∧ s.mayIssue s.me .c ∧ (s.safeStop s.me .c).isNone then s.passRel scope else s)
    | .fence => .next again
    | _ => .next s
  | none => .next s

end Sys2Proof.Machine
end

