-- ==== Sys2Proof/Machine/Visible.lean ====
section
/-! DEFINITION. What becomes of accesses that have issued: they reach their target (R103), loads return their data (R91,
R213, R224, R232), stores become visible (R84, R92, R117 to R127, R225). -/

namespace Sys2Proof.Machine

/-! ### Reads -/

/-- A physical address of the hub range. -/
def isHub (key : Nat) : Bool := match regionOf key with
  | .hub => true
  | _ => false

/-- A read of the C-stream is performed at its target: a hub register's bytes (R314), or memory. -/
def State.readTarget (s : State) (c : Nat) (r : Read) : State :=
  match r.pieces with
  | (key, n) :: _ =>
    if isHub key then
      let bs := r.fwd.foldl (fun (l : List Byte) f => l.set f.1 f.2) (s.hubBytes key n)
      s.setRead c { r with value := some (bytesNat bs) }
    else s.doRead c r
  | [] => s.doRead c r

/-- Two reads write the same row (R213), or both fill the scale queue (R224). -/
def sameRow (a b : ReadDst) : Bool :=
  match a, b with
  | .row v, .row w | .row v, .rowWords w | .rowWords v, .row w | .rowWords v, .rowWords w => v == w
  | .scale, .scale => true
  | _, _ => false

/-- Two loads of the L-stream read one level of the core's own column, whose agents transfer in order in their slots (R90, R91).
(DEDUCED: log entry 123.) -/
def sameLevel (c : Nat) (a b : Read) : Bool :=
  match a.pieces.head?.bind fun p => placeOfKey p.1, b.pieces.head?.bind fun p => placeOfKey p.1 with
  | some (lv, col, _), some (lw, dol, _) => lv == lw && col == c && dol == c
  | _, _ => false

/-- The 64 words of a directed read, each cut to the 56 bits of a lane (R219). -/
def packWords (v : Nat) : Nat → Nat
  | 0 => 0
  | n + 1 => packWords v n + v / 2 ^ (64 * n) % 2 ^ 56 * 2 ^ (56 * n)

/-- The data of a load of the L-stream are written (R218, R219, R224). -/
def Core.writeL (k : Core) (dst : ReadDst) (v : Nat) : Core :=
  match dst with
  | .row r => k.putRow r.toNat (BitVec.ofNat 3584 v)
  | .rowWords r => k.putRow r.toNat (BitVec.ofNat 3584 (packWords v 64))
  | .scale => { k with scales := k.scales ++ [BitVec.ofNat 512 v] }
  | _ => k

/-- A load of the L-stream returns: no earlier load of its row, or of its level of the own column, is outstanding, and its push has room, or stalls the stream (R24, R213,
R221, R232). -/
def State.returnL (s : State) (c : Nat) (r : Read) (v : Nat) : State :=
  let k := s.core c
  if k.lReads.any fun (e : Read) => decide (e.no < r.no) && (sameRow e.dst r.dst || sameLevel c e r) then s
  else match r.poison with
    | some a => (s.failRead c .l r (poisonTrap c (a.toNat / 64) true)).pump (s.slotOf c)
    | none =>
      if !k.tokRoom .l r.push then (s.modCore c fun k => k.owe .l r.push r.pc).pump (s.slotOf c)
      else
        (s.modCore c fun k =>
          { (k.writeL r.dst v).pushLate .l r.push r.pc (r.no + 1) with
            lReads := k.lReads.filter fun (e : Read) => e.no != r.no }).pump (s.slotOf c)

/-! ### Errors of a transfer (R82, R97, R99, R108) -/

/-- The column on whose bus a transfer of bytes of `key` goes through segment `seg`, whichever agent's transfer it is. -/
def busOf (seg key : Nat) : Option Nat := match placeOfKey key with
  | some (lv, col, _) => if seg < lv then some col else none
  | none => none

/-- A parity error in segment `about.level`, group `about.w0`, of the transfer that carries bytes of `key` on the bus of their column: it
is found when the group's spare is unused, and counted against lane `about.w1` of the group, which the lane test finds (R97). -/
def State.parityError (s : State) (key : Nat) : Option State :=
  let seg := s.about.level.toNat
  let g := s.about.w0.toNat
  match busOf seg key with
  | none => none
  | some col =>
    let at_ := col * 128 + seg * 32 + g
    if 4 ≤ seg ∨ 32 ≤ g ∨ s.spares.contains at_ then none
    else
      some ({ s with laneErrs := s.laneErrs ++ [(33 * at_ + s.about.w1.toNat % 33, s.cycle)] }.error 0 3 col 0xFF 0
        (BitVec.ofNat 64 (32 * seg + g)))

/-- A retried transfer is late for an instruction of core `c` (R99). -/
def State.retryLate (s : State) (c : Nat) : State := match (s.core c).task with
  | some t => s.freeze t (.retry c)
  | none => s

/-- A late transfer of core `c` has completed (R99). -/
def State.retryDone (s : State) (c : Nat) (late : Bool) : State :=
  if late then match (s.core c).task with
    | some t => s.unfreeze t (.retry c)
    | none => s
  else s

/-- An access meets an error in the line `about.addr`: symbol errors `about.nats` in the tower, of which a codeword corrects one (R82); in
the second tier an error of one bit, or with `about.yes` one that cannot be corrected (R108). Answers the state, and whether
the line delivers poison. -/
def State.lineError (s : State) (c : Nat) : State × Bool :=
  let line := s.about.addr.toNat / 64
  let t := match regionOf (64 * line) with
    | .tower k col _ =>
      if s.wbuf.contains line || !layerIn s.layeravail (stackOf col) k then s else s.meetErrors c line s.about.nats
    | .second _ => if s.about.yes then s.poisonLine line else s.error 0 2 (channelUnit (64 * line)) 0xFF s.about.addr 0
    | _ => s
  (t, t.poison.contains line)

/-- A read meets an error in one of its lines: poison that it then delivers is consumed with it (R83, R108, R232). -/
def State.readError (s : State) (c : Nat) (r : Read) : State × Read :=
  let line := s.about.addr.toNat / 64
  let e := s.lineError c
  if (r.pieces.any fun p => (linesOf p.1 p.2).contains line) then
    (e.1, if e.2 && r.poison.isNone then { r with poison := some (BitVec.ofNat 64 (64 * line)) } else r)
  else (s, r)

/-- The state with an outstanding read of the L-stream replaced. -/
def State.setLRead (s : State) (c : Nat) (r : Read) : State :=
  s.modCore c fun k => { k with lReads := k.lReads.map fun (e : Read) => if e.no = r.no then r else e }

/-- The data of a performed read arrive (R91, R232). -/
def State.returnRead (s : State) (c : Nat) (st : Stream) (r : Read) : State :=
  let r' := { r with late := false }
  let s := if r.late then (if st = .l then s.setLRead c r' else s.setRead c r').retryDone c true else s
  if st = .l then match r.value with
    | some v => s.returnL c r' v
    | none => s
  else if r.value.isSome && !r.remote then (s.returnC c r).pump (s.slotOf c) else s

/-- The transfer of a read's data has a parity error: it is retried; one that is late holds its group (R97, R99). -/
def State.retryRead (s : State) (c : Nat) (st : Stream) (r : Read) : State :=
  match (r.pieces.head?.bind fun p => s.parityError p.1) with
  | none => s
  | some s =>
    if s.about.yes ∧ !r.late then
      let r := { r with late := true }
      (if st = .l then s.setLRead c r else s.setRead c r).retryLate c
    else s

/-- READ_DATA_RETURN: the data of read `about.k` of stream `about.stream` of core `about.core`, which has been performed, arrive at
their register or row (R91, R232); with `about.n` = 1 a line of it met an error (R82, R108), with 2 its transfer had a parity
error and is retried, late with `about.yes` (R97, R99). The answer to a remote read is an event of its own. Of stream A it
stands for a read by an engine, the hub, the host or another node that meets an error in the line `about.addr`, or, with `about.n` = 2,
for a transfer of such an agent that meets a parity error on the bus of the column of that address and is retried. -/
def execReadDataReturn (s : State) : Out :=
  let c := s.me
  let k := s.core c
  let st := s.st
  if st = .a then .next (if s.about.n = 2 then (s.parityError s.about.addr.toNat).getD s else (s.lineError c).1)
  else
    let found := if st = .l then k.lReads.find? fun (e : Read) => e.no == s.about.k else k.read s.about.k
    .next (match found with
      | some r =>
        if r.value.isNone || r.remote then s
        else if s.about.n = 2 then s.retryRead c st r
        else if s.about.n = 1 then
          let e := s.readError c r
          (if st = .l then e.1.setLRead c e.2 else e.1.setRead c e.2).returnRead c st e.2
        else s.returnRead c st r
      | none => s)

/-! ### Stores -/

/-- The 16-byte pieces of a run of bytes, each an event of its own (R118). -/
def cut16 (key : Nat) (bs : List Byte) : Nat → List (Nat × List Byte)
  | 0 => []
  | n + 1 => match bs with
    | [] => []
    | _ =>
      let h := 16 - key % 16
      (key, bs.take h) :: cut16 (key + h) (bs.drop h) n

/-- The events of a store (R118). -/
def Store.events (e : Store) : List (Nat × List Byte) := e.pieces.flatMap fun p => cut16 p.1 p.2 (p.2.length / 16 + 2)

/-- The bytes that an event of a store writes; a NOTE without a payload adds 1 to its word (R225). -/
def State.eventBytes (s : State) (e : Store) (p : Nat × List Byte) : List Byte :=
  if e.addOne then natBytes ((s.get p.1 8 + 1) % 2 ^ 64) 8 else p.2

/-- How a store that its stream's order lets become visible stands on its way to its target. -/
inductive Way where
  /-- it is there. -/
  | there
  /-- it is on its way, or behind another one. -/
  | under
  /-- it has not left. -/
  | here

/-- The way of a store of a stream of core `c` (R103, R104). -/
def State.way (s : State) (c : Nat) (st : Stream) (e : Store) : Way :=
  if (e.pieces.any fun p => (meshTo c p.1).isSome) then
    match flitIn s.fifo c st false e.no with
    | some f => if s.mayEnter f then .there else .under
    | none => if (flitIn s.mesh c st false e.no).isSome then .under else .here
  else if !e.arrived && e.pieces.any (fun p => farKey c p.1 && (placeOfKey p.1).isNone) then .under
  else .there

/-- A store that is visible in full leaves the queue of its column (R103). -/
def State.leaveFifo (s : State) (c : Nat) (st : Stream) (no : Nat) : State :=
  { s with fifo := s.fifo.filter fun f => !(f.core == c && f.stream == st && !f.isLoad && f.no == no) }

/-- The request of a remote store (R200). -/
def Store.request (e : Store) : Request :=
  { op := .store, pa := BitVec.ofNat 52 e.pa, size := (e.pieces.flatMap (·.2)).length
    data := BitVec.ofNat 512 (bytesNat (e.pieces.flatMap (·.2))) }

/-- A store of the store buffer of the C-stream of a core becomes visible, or is sent to its owner, or leaves for its column (R103, R117,
R123, R200, R314, R415). -/
def State.showC (s : State) (c : Nat) (e : Store) : State :=
  let slot := s.slotOf c
  if e.remote then
    if e.sent ∨ !((s.session slot e.node).st == .opened || (s.session slot e.node).st == .closing) then s
    else
      (s.send slot e.node e.request (.store (BitVec.ofNat 10 c) e.no) e.va e.pc).modCore c fun k =>
        { k with cStores := k.cStores.map fun (x : Store) => if x.no = e.no then { x with sent := true } else x }
  else match e.pieces, s.way c .c e with
    | [], _ | _, .under => s
    | ps, .here => s.inject c .c false e.no (ps.map (·.1))
    | (key, bs) :: _, .there =>
      let gone (s : State) : State :=
        ((s.modCore c fun k => { k with cStores := k.cStores.filter fun (x : Store) => x.no != e.no }).retryDone c e.late).leaveFifo
          c .c e.no
      if isHub key then ((gone s).hubWriteFrom (c + 1) key bs (some slot)).getD s
      else match s.commit slot e.log key bs with
        | none => s.logFull slot c e.pc .c
        | some s' => (gone s').pump slot

/-- One event of the oldest store of the S-stream of a core (R84, R118, R223, R415): a line that it covers is clean once all of it is
written (R83). -/
def State.showS (s : State) (c n : Nat) (e : Store) : State :=
  let slot := s.slotOf c
  match s.way c .s e with
  | .there =>
    let l := e.events
    match l[n % Nat.max 1 l.length]? with
    | none => s
    | some p => match s.commit slot e.log p.1 (s.eventBytes e p) with
      | none => s.logFull slot c e.pc .s
      | some s' =>
        let rest := l.eraseIdx (n % Nat.max 1 l.length)
        let whole := e.full.filter fun line => rest.all fun q => q.1 / 64 != line
        let s' := (s'.clean whole).modCore c fun k =>
          { k with shown := if k.shown.contains e.no then k.shown else e.no :: k.shown
                   sStores := if rest.isEmpty then k.sStores.tail
                              else { e with pieces := rest, full := e.full.filter fun x => !whole.contains x } :: k.sStores.tail }
        (if rest.isEmpty then (s'.retryDone c e.late).leaveFifo c .s e.no else s').pump slot
  | _ => s

/-- Two stores write to the same naturally aligned 16-byte piece (R122). -/
def samePiece (a b : Store) : Bool :=
  a.remote == b.remote && (!a.remote || (a.node == b.node && !a.sent && !b.sent)) &&
    (a.pieces.head?.any fun p => b.pieces.head?.any fun q => p.1 / 16 == q.1 / 16 && !isHub p.1)

/-- The bytes of two stores to one piece as one run, the later ones over the earlier ones, when they leave no gap (R122). -/
def joined (a b : Nat × List Byte) : Option (Nat × List Byte) :=
  let lo := Nat.min a.1 b.1
  let hi := Nat.max (a.1 + a.2.length) (b.1 + b.2.length)
  if b.1 ≤ a.1 + a.2.length ∧ a.1 ≤ b.1 + b.2.length then
    some (lo, (List.range (hi - lo)).map fun i =>
      let k := lo + i
      if b.1 ≤ k ∧ k < b.1 + b.2.length then b.2.getD (k - b.1) 0 else a.2.getD (k - a.1) 0)
  else none

/-- Entry `i` of the store buffer of the C-stream and the later entry `j`, to the same 16-byte piece, become visible as one event, or go to
their owner as one operation in the place of the earlier, when the order of the stream lets each become visible once the other has (R122).
(DEDUCED: log entry 32.) -/
def State.mergeC (s : State) (c i j : Nat) : State :=
  let k := s.core c
  match k.cStores[i]?, k.cStores[j]? with
  | some a, some b =>
    if !(decide (i < j) && samePiece a b && s.cReady c i) then s
    else
      let rest := s.modCore c fun k => { k with cStores := k.cStores.eraseIdx i }
      if !rest.cReady c (j - 1) then s
      else if a.remote then
        match a.pieces.head?.bind fun p => b.pieces.head?.bind fun q => joined p q with
        | some m =>
          let e := { b with no := a.no, pieces := [m], pa := m.1, rel := a.rel.or b.rel }
          (s.modCore c fun k => { k with cStores := (k.cStores.set i e).eraseIdx j }).showC c e
        | none => s
      else
        let t := (s.showC c a).showC c b
        if (t.core c).cStores.any fun (e : Store) => e.no == a.no || e.no == b.no then s else t
  | _, _ => s

/-- The last piece of the oldest store of the S-stream and event `n` of the next one, on the same 16-byte piece, become visible as one event
(R122). -/
def State.mergeS (s : State) (c n : Nat) : State :=
  match (s.core c).sStores with
  | a :: b :: _ =>
    match a.events, b.events[n % Nat.max 1 b.events.length]? with
    | [p], some q =>
      if p.1 / 16 = q.1 / 16 ∧ !a.note ∧ !b.note then
        let t := s.showS c 0 a
        if (t.core c).sStores.any fun (e : Store) => e.no == a.no then s else t.showS c n b
      else s
    | _, _ => s
  | _ => s

/-- The transfer of a store has a parity error: it is retried; one that is late holds its group (R97, R99). -/
def State.retryStore (s : State) (c : Nat) (st : Stream) (e : Store) : State :=
  match (e.pieces.head?.bind fun p => s.parityError p.1) with
  | none => s
  | some s =>
    if s.about.yes ∧ !e.late then
      let mark (l : List Store) : List Store := l.map fun x => if x.no = e.no then { x with late := true } else x
      (s.modCore c fun k => if st = .s then { k with sStores := mark k.sStores } else { k with cStores := mark k.cStores }).retryLate c
    else s

/-- STORE_VISIBLE: entry `about.k` of the store buffer of the C-stream, or event `about.n` of the oldest store of the S-stream, of core
`about.core` becomes visible when its order allows it (R92, R120), with `about.isLoad` as one event with the later entry
`about.n`, or with that event of the next store (R122). With `about.rid` = 2 its transfer had a parity error and is retried, late
with `about.yes` (R97, R99). -/
def execStoreVisible (s : State) : Out :=
  let c := s.me
  let k := s.core c
  let again := s.about.rid = 2
  if s.st = .s then
    .next (match k.sStores with
      | e :: _ => if again then s.retryStore c .s e else if s.about.isLoad then s.mergeS c s.about.n else s.showS c s.about.n e
      | [] => s)
  else
    .next (match k.cStores[s.about.k]? with
      | some e =>
        if !s.cReady c s.about.k then s
        else if again then s.retryStore c .c e
        else if s.about.isLoad then s.mergeC c s.about.k s.about.n
        else s.showC c e
      | none => s)

/-! ### Arrival at the target -/

/-- The 16-byte events of a read: key, bytes, and offset in its value (R118). -/
def cutRead : List (Nat × Nat) → Nat → List (Nat × Nat × Nat)
  | [], _ => []
  | p :: t, o =>
    ((cut16 p.1 (natBytes 0 p.2) (p.2 / 16 + 2)).map fun e => (e.1, e.2.length, o + (e.1 - p.1))) ++ cutRead t (o + p.2)

/-- Piece `n` of a load of the L-stream is read at another instant of the cycle in which the load is performed (R118, Table 7.3). -/
def State.rereadL (s : State) (c n : Nat) (r : Read) : State :=
  match r.value, (cutRead r.pieces 0)[n]? with
  | some v, some (key, len, o) =>
    if r.at_ ≠ s.cycle then s
    else
      let old := v / 256 ^ o % 256 ^ len
      let new := bytesNat (s.seen key len)
      let bad := if r.poison.isNone then (poisonIn s key len).map fun l => BitVec.ofNat 64 (64 * l) else r.poison
      s.setLRead c { r with value := some (v - old * 256 ^ o + new * 256 ^ o), poison := bad }
  | _, _ => s

/-- A flit of a read may reach its bank: nothing injected before it, and no store in the queue of its column, comes first (R103, R104). -/
def State.readArrives (s : State) (f : Flit) : Bool :=
  s.mayArrive f && s.fifo.all fun g => !(g.col == f.col && g.l0 == f.l0)

/-- A load of the L-stream of another column reaches its target and is performed there (R222). -/
def State.arriveL (s : State) (c : Nat) (r : Read) : State :=
  match flitIn s.mesh c .l true r.no with
  | some f =>
    if s.readArrives f then
      let (r', s') := s.perform r
      ((s'.leaveMesh f).setLRead c r').modCore c fun k => { k with lAt := some s.cycle }
    else s
  | none => s

/-- A read of the C-stream goes on: one of another column is injected once the order of its stream allows it, then reaches its target; one
of memory reaches it at once (R103, R120). -/
def State.arriveC (s : State) (c : Nat) (r : Read) : State :=
  if r.value.isSome || r.remote || !s.readReady c r then s
  else if r.forwarded || !(r.pieces.any fun p => (meshTo c p.1).isSome) then s.readTarget c r
  else match flitIn s.mesh c .c true r.no with
    | some f => if s.readArrives f then (s.leaveMesh f).readTarget c r else s
    | none => s.inject c .c true r.no (r.pieces.map (·.1))

/-- A store reaches its target: on the mesh it enters the queue of its column, in the order of R104. -/
def State.arriveStore (s : State) (c : Nat) (st : Stream) (no : Nat) : State :=
  match flitIn s.mesh c st false no with
  | some f => if s.mayArrive f then { s.leaveMesh f with fifo := s.fifo ++ [f] } else s
  | none =>
    let mark (l : List Store) : List Store := l.map fun e => if e.no = no then { e with arrived := true } else e
    s.modCore c fun k => if st = .s then { k with sStores := mark k.sStores } else { k with cStores := mark k.cStores }

/-- MESH_ARRIVAL: read `about.k`, when `about.isLoad`, or store `about.k` of stream `about.stream` of core `about.core` reaches its
target; a read is performed there (R103, R104, R117, R222). Of a load of the L-stream that has been performed in this cycle,
piece `about.n` is read at this instant (R118). -/
def execMeshArrival (s : State) : Out :=
  let c := s.me
  let no := s.about.k
  .next (if !s.about.isLoad then s.arriveStore c s.st no
    else if s.st = .l then
      match (s.core c).lReads.find? fun (e : Read) => e.no == no with
      | some r => if r.value.isNone then s.arriveL c r else s.rereadL c s.about.n r
      | none => s
    else match (s.core c).read no with
      | some r => s.arriveC c r
      | none => s)

end Sys2Proof.Machine
end

