-- ==== Sys2Proof/Machine/Dispatch.lean ====
section
/-! DEFINITION. The dispatch of every instruction and event to its meaning. -/

namespace Sys2Proof.Machine

def exec (i : Instr) (s : State) : Host.Outcome State Fault Refusal :=
  match i with
  | .add d a b => Sys2Proof.Machine.execAdd d a b s
  | .sub d a b => Sys2Proof.Machine.execSub d a b s
  | .and d a b => Sys2Proof.Machine.execAnd d a b s
  | .or d a b => Sys2Proof.Machine.execOr d a b s
  | .xor d a b => Sys2Proof.Machine.execXor d a b s
  | .shl d a b => Sys2Proof.Machine.execShl d a b s
  | .shr d a b => Sys2Proof.Machine.execShr d a b s
  | .sar d a b => Sys2Proof.Machine.execSar d a b s
  | .rotl d a b => Sys2Proof.Machine.execRotl d a b s
  | .min d a b => Sys2Proof.Machine.execMin d a b s
  | .max d a b => Sys2Proof.Machine.execMax d a b s
  | .minn d a b => Sys2Proof.Machine.execMinn d a b s
  | .maxn d a b => Sys2Proof.Machine.execMaxn d a b s
  | .clz d a => Sys2Proof.Machine.execClz d a s
  | .ctz d a => Sys2Proof.Machine.execCtz d a s
  | .popc d a => Sys2Proof.Machine.execPopc d a s
  | .sext8 d a => Sys2Proof.Machine.execSext8 d a s
  | .sext16 d a => Sys2Proof.Machine.execSext16 d a s
  | .sext32 d a => Sys2Proof.Machine.execSext32 d a s
  | .zext8 d a => Sys2Proof.Machine.execZext8 d a s
  | .zext16 d a => Sys2Proof.Machine.execZext16 d a s
  | .zext32 d a => Sys2Proof.Machine.execZext32 d a s
  | .mul d a b => Sys2Proof.Machine.execMul d a b s
  | .mulh d a b => Sys2Proof.Machine.execMulh d a b s
  | .mulhn d a b => Sys2Proof.Machine.execMulhn d a b s
  | .div d a b => Sys2Proof.Machine.execDiv d a b s
  | .divn d a b => Sys2Proof.Machine.execDivn d a b s
  | .rem d a b => Sys2Proof.Machine.execRem d a b s
  | .remn d a b => Sys2Proof.Machine.execRemn d a b s
  | .adda d a b => Sys2Proof.Machine.execAdda d a b s
  | .mada d a b sh => Sys2Proof.Machine.execMada d a b sh s
  | .bfx d a pos width => Sys2Proof.Machine.execBfx d a pos width s
  | .bfxs d a pos width => Sys2Proof.Machine.execBfxs d a pos width s
  | .bfi d a pos width => Sys2Proof.Machine.execBfi d a pos width s
  | .shli d a pos => Sys2Proof.Machine.execShli d a pos s
  | .shri d a pos => Sys2Proof.Machine.execShri d a pos s
  | .sari d a pos => Sys2Proof.Machine.execSari d a pos s
  | .addi d a imm => Sys2Proof.Machine.execAddi d a imm s
  | .andi d a imm => Sys2Proof.Machine.execAndi d a imm s
  | .ori d a imm => Sys2Proof.Machine.execOri d a imm s
  | .xori d a imm => Sys2Proof.Machine.execXori d a imm s
  | .lim d imm => Sys2Proof.Machine.execLim d imm s
  | .lih d q imm => Sys2Proof.Machine.execLih d q imm s
  | .cmp cc a b j => Sys2Proof.Machine.execCmp cc a b j s
  | .cmpi cc a imm j => Sys2Proof.Machine.execCmpi cc a imm j s
  | .jand j ja jb => Sys2Proof.Machine.execJand j ja jb s
  | .jor j ja jb => Sys2Proof.Machine.execJor j ja jb s
  | .jmov j ja => Sys2Proof.Machine.execJmov j ja s
  | .jclr j => Sys2Proof.Machine.execJclr j s
  | .prep j off => Sys2Proof.Machine.execPrep j off s
  | .prepx j a => Sys2Proof.Machine.execPrepx j a s
  | .xferA j => Sys2Proof.Machine.execXferA j s
  | .xferT j => Sys2Proof.Machine.execXferT j s
  | .xferF j => Sys2Proof.Machine.execXferF j s
  | .xferl j ja => Sys2Proof.Machine.execXferl j ja s
  | .jrd d j => Sys2Proof.Machine.execJrd d j s
  | .loop lp a skip => Sys2Proof.Machine.execLoop lp a skip s
  | .loopc lp j max => Sys2Proof.Machine.execLoopc lp j max s
  | .lend lp => Sys2Proof.Machine.execLend lp s
  | .tksend a t => Sys2Proof.Machine.execTksend a t s
  | .tkrecv d t => Sys2Proof.Machine.execTkrecv d t s
  | .ldxPlace d a ord ty imm => Sys2Proof.Machine.execLdxPlace d a ord ty imm s
  | .ldxHandle d h b ord ty imm => Sys2Proof.Machine.execLdxHandle d h b ord ty imm s
  | .stxPlace d a ord ty imm => Sys2Proof.Machine.execStxPlace d a ord ty imm s
  | .stxHandle d h b ord ty imm => Sys2Proof.Machine.execStxHandle d h b ord ty imm s
  | .ldxpPlace d a ord imm => Sys2Proof.Machine.execLdxpPlace d a ord imm s
  | .ldxpHandle d h b ord imm => Sys2Proof.Machine.execLdxpHandle d h b ord imm s
  | .stxpPlace d a ord imm => Sys2Proof.Machine.execStxpPlace d a ord imm s
  | .stxpHandle d h b ord imm => Sys2Proof.Machine.execStxpHandle d h b ord imm s
  | .ataddPlace d a b ord sz => Sys2Proof.Machine.execAtaddPlace d a b ord sz s
  | .ataddHandle d h b ord sz => Sys2Proof.Machine.execAtaddHandle d h b ord sz s
  | .atswpPlace d a b ord sz => Sys2Proof.Machine.execAtswpPlace d a b ord sz s
  | .atswpHandle d h b ord sz => Sys2Proof.Machine.execAtswpHandle d h b ord sz s
  | .atcasPlace d a b ord sz => Sys2Proof.Machine.execAtcasPlace d a b ord sz s
  | .atcasHandle d h b ord sz => Sys2Proof.Machine.execAtcasHandle d h b ord sz s
  | .atminPlace d a b ord sz => Sys2Proof.Machine.execAtminPlace d a b ord sz s
  | .atminHandle d h b ord sz => Sys2Proof.Machine.execAtminHandle d h b ord sz s
  | .atmaxPlace d a b ord sz => Sys2Proof.Machine.execAtmaxPlace d a b ord sz s
  | .atmaxHandle d h b ord sz => Sys2Proof.Machine.execAtmaxHandle d h b ord sz s
  | .atandPlace d a b ord sz => Sys2Proof.Machine.execAtandPlace d a b ord sz s
  | .atandHandle d h b ord sz => Sys2Proof.Machine.execAtandHandle d h b ord sz s
  | .atorPlace d a b ord sz => Sys2Proof.Machine.execAtorPlace d a b ord sz s
  | .atorHandle d h b ord sz => Sys2Proof.Machine.execAtorHandle d h b ord sz s
  | .atxorPlace d a b ord sz => Sys2Proof.Machine.execAtxorPlace d a b ord sz s
  | .atxorHandle d h b ord sz => Sys2Proof.Machine.execAtxorHandle d h b ord sz s
  | .atfaddPlace d a b ord => Sys2Proof.Machine.execAtfaddPlace d a b ord s
  | .atfaddHandle d h b ord => Sys2Proof.Machine.execAtfaddHandle d h b ord s
  | .kinv a => Sys2Proof.Machine.execKinv a s
  | .spawn d a => Sys2Proof.Machine.execSpawn d a s
  | .kick a b => Sys2Proof.Machine.execKick a b s
  | .texit => Sys2Proof.Machine.execTexit s
  | .gsync => Sys2Proof.Machine.execGsync s
  | .yield => Sys2Proof.Machine.execYield s
  | .bari a b => Sys2Proof.Machine.execBari a b s
  | .barm a b => Sys2Proof.Machine.execBarm a b s
  | .bara a b => Sys2Proof.Machine.execBara a b s
  | .bwait a b => Sys2Proof.Machine.execBwait a b s
  | .btest d a => Sys2Proof.Machine.execBtest d a s
  | .sqadd a b => Sys2Proof.Machine.execSqadd a b s
  | .sqwait a b c => Sys2Proof.Machine.execSqwait a b c s
  | .sqrd d a => Sys2Proof.Machine.execSqrd d a s
  | .trans h a => Sys2Proof.Machine.execTrans h a s
  | .hinv h => Sys2Proof.Machine.execHinv h s
  | .hrd d h => Sys2Proof.Machine.execHrd d h s
  | .splnt a => Sys2Proof.Machine.execSplnt a s
  | .hshoot a b => Sys2Proof.Machine.execHshoot a b s
  | .poolup a b => Sys2Proof.Machine.execPoolup a b s
  | .poolev a => Sys2Proof.Machine.execPoolev a s
  | .poolscan d a => Sys2Proof.Machine.execPoolscan d a s
  | .ckpt d => Sys2Proof.Machine.execCkpt d s
  | .ckwait a => Sys2Proof.Machine.execCkwait a s
  | .ctxsave a => Sys2Proof.Machine.execCtxsave a s
  | .ctxrest a => Sys2Proof.Machine.execCtxrest a s
  | .lsopen d a => Sys2Proof.Machine.execLsopen d a s
  | .lsclose a => Sys2Proof.Machine.execLsclose a s
  | .lsync a => Sys2Proof.Machine.execLsync a s
  | .lretire a => Sys2Proof.Machine.execLretire a s
  | .gang a b => Sys2Proof.Machine.execGang a b s
  | .cpyPlace a => Sys2Proof.Machine.execCpyPlace a s
  | .cpyHandle h b => Sys2Proof.Machine.execCpyHandle h b s
  | .cpyxPlace a => Sys2Proof.Machine.execCpyxPlace a s
  | .cpyxHandle h b => Sys2Proof.Machine.execCpyxHandle h b s
  | .cpymPlace a => Sys2Proof.Machine.execCpymPlace a s
  | .cpymHandle h b => Sys2Proof.Machine.execCpymHandle h b s
  | .strmPlace a => Sys2Proof.Machine.execStrmPlace a s
  | .strmHandle h b => Sys2Proof.Machine.execStrmHandle h b s
  | .fexPlace a => Sys2Proof.Machine.execFexPlace a s
  | .fexHandle h b => Sys2Proof.Machine.execFexHandle h b s
  | .scrbPlace a => Sys2Proof.Machine.execScrbPlace a s
  | .scrbHandle h b => Sys2Proof.Machine.execScrbHandle h b s
  | .nvrdPlace a => Sys2Proof.Machine.execNvrdPlace a s
  | .nvrdHandle h b => Sys2Proof.Machine.execNvrdHandle h b s
  | .nvwrPlace a => Sys2Proof.Machine.execNvwrPlace a s
  | .nvwrHandle h b => Sys2Proof.Machine.execNvwrHandle h b s
  | .credPlace a => Sys2Proof.Machine.execCredPlace a s
  | .credHandle h b => Sys2Proof.Machine.execCredHandle h b s
  | .fenceAcq sc => Sys2Proof.Machine.execFenceAcq sc s
  | .fenceRel sc => Sys2Proof.Machine.execFenceRel sc s
  | .fenceSc sc => Sys2Proof.Machine.execFenceSc sc s
  | .csrr d csr => Sys2Proof.Machine.execCsrr d csr s
  | .csrw a csr => Sys2Proof.Machine.execCsrw a csr s
  | .trap n => Sys2Proof.Machine.execTrap n s
  | .eret => Sys2Proof.Machine.execEret s
  | .iinv a b => Sys2Proof.Machine.execIinv a b s
  | .halt => Sys2Proof.Machine.execHalt s
  | .dbgbrk => Sys2Proof.Machine.execDbgbrk s
  | .nop => Sys2Proof.Machine.execNop s
  | .ldv v a imm tok => Sys2Proof.Machine.execLdv v a imm tok s
  | .ldvd v a dir imm tok => Sys2Proof.Machine.execLdvd v a dir imm tok s
  | .ldvg v a vi tok => Sys2Proof.Machine.execLdvg v a vi tok s
  | .ldsc a imm tok => Sys2Proof.Machine.execLdsc a imm tok s
  | .mark m tok => Sys2Proof.Machine.execMark m tok s
  | .fenceD sc tok => Sys2Proof.Machine.execFenceD sc tok s
  | .waita a limit tok => Sys2Proof.Machine.execWaita a limit tok s
  | .ainc a imm tok => Sys2Proof.Machine.execAinc a imm tok s
  | .stv v a imm tok => Sys2Proof.Machine.execStv v a imm tok s
  | .stvd v a dir imm tok => Sys2Proof.Machine.execStvd v a dir imm tok s
  | .stvx v a vi tok => Sys2Proof.Machine.execStvx v a vi tok s
  | .note a imm tok => Sys2Proof.Machine.execNote a imm tok s
  | .lfence tok => Sys2Proof.Machine.execLfence tok s
  | .loopDA lp skip count tok => Sys2Proof.Machine.execLoopDA lp skip count tok s
  | .loopcDA lp j max tok => Sys2Proof.Machine.execLoopcDA lp j max tok s
  | .lendDA lp tok => Sys2Proof.Machine.execLendDA lp tok s
  | .lendR lp tok => Sys2Proof.Machine.execLendR lp tok s
  | .prepDA j off tok => Sys2Proof.Machine.execPrepDA j off tok s
  | .xferADA j tok => Sys2Proof.Machine.execXferADA j tok s
  | .xferTDA j tok => Sys2Proof.Machine.execXferTDA j tok s
  | .xferFDA j tok => Sys2Proof.Machine.execXferFDA j tok s
  | .nopDA tok => Sys2Proof.Machine.execNopDA tok s
  | .vadd f => Sys2Proof.Machine.execVadd f s
  | .vsub f => Sys2Proof.Machine.execVsub f s
  | .vadds f => Sys2Proof.Machine.execVadds f s
  | .vsubs f => Sys2Proof.Machine.execVsubs f s
  | .vavg f => Sys2Proof.Machine.execVavg f s
  | .vmul f => Sys2Proof.Machine.execVmul f s
  | .vmulh f => Sys2Proof.Machine.execVmulh f s
  | .vmulq f => Sys2Proof.Machine.execVmulq f s
  | .vmac f => Sys2Proof.Machine.execVmac f s
  | .vabd f => Sys2Proof.Machine.execVabd f s
  | .vmin f => Sys2Proof.Machine.execVmin f s
  | .vmax f => Sys2Proof.Machine.execVmax f s
  | .vand f => Sys2Proof.Machine.execVand f s
  | .vor f => Sys2Proof.Machine.execVor f s
  | .vxor f => Sys2Proof.Machine.execVxor f s
  | .vshl f => Sys2Proof.Machine.execVshl f s
  | .vshr f => Sys2Proof.Machine.execVshr f s
  | .vsar f => Sys2Proof.Machine.execVsar f s
  | .vshrr f => Sys2Proof.Machine.execVshrr f s
  | .vshls f => Sys2Proof.Machine.execVshls f s
  | .vsel f => Sys2Proof.Machine.execVsel f s
  | .vperm f => Sys2Proof.Machine.execVperm f s
  | .vzip f => Sys2Proof.Machine.execVzip f s
  | .vunzip f => Sys2Proof.Machine.execVunzip f s
  | .fadd f => Sys2Proof.Machine.execFadd f s
  | .fsub f => Sys2Proof.Machine.execFsub f s
  | .fmul f => Sys2Proof.Machine.execFmul f s
  | .ffma f => Sys2Proof.Machine.execFfma f s
  | .fmin f => Sys2Proof.Machine.execFmin f s
  | .fmax f => Sys2Proof.Machine.execFmax f s
  | .vabs f => Sys2Proof.Machine.execVabs f s
  | .vnot f => Sys2Proof.Machine.execVnot f s
  | .vclz f => Sys2Proof.Machine.execVclz f s
  | .vpopc f => Sys2Proof.Machine.execVpopc f s
  | .fabs f => Sys2Proof.Machine.execFabs f s
  | .fneg f => Sys2Proof.Machine.execFneg f s
  | .vrsum f => Sys2Proof.Machine.execVrsum f s
  | .vrmax f => Sys2Proof.Machine.execVrmax f s
  | .vrmin f => Sys2Proof.Machine.execVrmin f s
  | .vcmp f => Sys2Proof.Machine.execVcmp f s
  | .fcmp f => Sys2Proof.Machine.execFcmp f s
  | .vcvtRne f => Sys2Proof.Machine.execVcvtRne f s
  | .vcvtRz f => Sys2Proof.Machine.execVcvtRz f s
  | .vcvtRu f => Sys2Proof.Machine.execVcvtRu f s
  | .vcvtRd f => Sys2Proof.Machine.execVcvtRd f s
  | .vcvtSr f => Sys2Proof.Machine.execVcvtSr f s
  | .vnarrow f => Sys2Proof.Machine.execVnarrow f s
  | .vwiden f => Sys2Proof.Machine.execVwiden f s
  | .pxunp f => Sys2Proof.Machine.execPxunp f s
  | .pxpak f => Sys2Proof.Machine.execPxpak f s
  | .vslide f => Sys2Proof.Machine.execVslide f s
  | .vbcast f => Sys2Proof.Machine.execVbcast f s
  | .pand pd pa pb tok => Sys2Proof.Machine.execPand pd pa pb tok s
  | .por pd pa pb tok => Sys2Proof.Machine.execPor pd pa pb tok s
  | .pxor pd pa pb tok => Sys2Proof.Machine.execPxor pd pa pb tok s
  | .pnot pd pa tok => Sys2Proof.Machine.execPnot pd pa tok s
  | .pcnt vd pa tok => Sys2Proof.Machine.execPcnt vd pa tok s
  | .pfirst pd pa tok => Sys2Proof.Machine.execPfirst pd pa tok s
  | .pset pd n tok => Sys2Proof.Machine.execPset pd n tok s
  | .vcmpjAny j pa tok => Sys2Proof.Machine.execVcmpjAny j pa tok s
  | .vcmpjAll j pa tok => Sys2Proof.Machine.execVcmpjAll j pa tok s
  | .vtype fmt rm tok => Sys2Proof.Machine.execVtype fmt rm tok s
  | .mcfg fa fb tok => Sys2Proof.Machine.execMcfg fa fb tok s
  | .mzero m tok => Sys2Proof.Machine.execMzero m tok s
  | .mwl tok => Sys2Proof.Machine.execMwl tok s
  | .mswap tok => Sys2Proof.Machine.execMswap tok s
  | .mma m tok => Sys2Proof.Machine.execMma m tok s
  | .mmas m tok => Sys2Proof.Machine.execMmas m tok s
  | .rep count sd sa sb => Sys2Proof.Machine.execRep count sd sa sb s
  | .divideComplete => Sys2Proof.Machine.execDivideComplete s
  | .prefetchComplete => Sys2Proof.Machine.execPrefetchComplete s
  | .steerDelivery => Sys2Proof.Machine.execSteerDelivery s
  | .tokenStall => Sys2Proof.Machine.execTokenStall s
  | .gsyncWaitLimit => Sys2Proof.Machine.execGsyncWaitLimit s
  | .objectWaitLimit => Sys2Proof.Machine.execObjectWaitLimit s
  | .hubNotification => Sys2Proof.Machine.execHubNotification s
  | .walkEnd => Sys2Proof.Machine.execWalkEnd s
  | .faultcmdRetry => Sys2Proof.Machine.execFaultcmdRetry s
  | .faultcmdAbsent => Sys2Proof.Machine.execFaultcmdAbsent s
  | .poolFillEnd => Sys2Proof.Machine.execPoolFillEnd s
  | .poolDrainEnd => Sys2Proof.Machine.execPoolDrainEnd s
  | .poolAgeTick => Sys2Proof.Machine.execPoolAgeTick s
  | .ckwaitWaitLimit => Sys2Proof.Machine.execCkwaitWaitLimit s
  | .fenceComplete => Sys2Proof.Machine.execFenceComplete s
  | .slotmapTakesEffect => Sys2Proof.Machine.execSlotmapTakesEffect s
  | .scaleQueueFullLimit => Sys2Proof.Machine.execScaleQueueFullLimit s
  | .markStallLimit => Sys2Proof.Machine.execMarkStallLimit s
  | .waitaWaitLimit => Sys2Proof.Machine.execWaitaWaitLimit s
  | .lfenceComplete => Sys2Proof.Machine.execLfenceComplete s
  | .readDataReturn => Sys2Proof.Machine.execReadDataReturn s
  | .storeVisible => Sys2Proof.Machine.execStoreVisible s
  | .meshArrival => Sys2Proof.Machine.execMeshArrival s
  | .writeBufferDrain => Sys2Proof.Machine.execWriteBufferDrain s
  | .correctedWriteBack => Sys2Proof.Machine.execCorrectedWriteBack s
  | .scrub => Sys2Proof.Machine.execScrub s
  | .laneRetirement => Sys2Proof.Machine.execLaneRetirement s
  | .bankMarkedFailed => Sys2Proof.Machine.execBankMarkedFailed s
  | .rebuildComplete => Sys2Proof.Machine.execRebuildComplete s
  | .recoveryPoint => Sys2Proof.Machine.execRecoveryPoint s
  | .shortScaleQueueLimit => Sys2Proof.Machine.execShortScaleQueueLimit s
  | .mwlLoaded => Sys2Proof.Machine.execMwlLoaded s
  | .mswapEffect => Sys2Proof.Machine.execMswapEffect s
  | .mmaWrite => Sys2Proof.Machine.execMmaWrite s
  | .repRepetition => Sys2Proof.Machine.execRepRepetition s
  | .aStreamWrite => Sys2Proof.Machine.execAStreamWrite s
  | .transientWindowEnd => Sys2Proof.Machine.execTransientWindowEnd s
  | .engineAccept => Sys2Proof.Machine.execEngineAccept s
  | .engineItemStart => Sys2Proof.Machine.execEngineItemStart s
  | .engineItemWaitLimit => Sys2Proof.Machine.execEngineItemWaitLimit s
  | .copyComplete => Sys2Proof.Machine.execCopyComplete s
  | .cpymFollowOnMwl => Sys2Proof.Machine.execCpymFollowOnMwl s
  | .strmComplete => Sys2Proof.Machine.execStrmComplete s
  | .fireflySweepComplete => Sys2Proof.Machine.execFireflySweepComplete s
  | .scarabDecode => Sys2Proof.Machine.execScarabDecode s
  | .nvmeItemComplete => Sys2Proof.Machine.execNvmeItemComplete s
  | .nvmeCommandTimeout => Sys2Proof.Machine.execNvmeCommandTimeout s
  | .downstreamPortContainment => Sys2Proof.Machine.execDownstreamPortContainment s
  | .credComplete => Sys2Proof.Machine.execCredComplete s
  | .credWaitLimit => Sys2Proof.Machine.execCredWaitLimit s
  | .tailKick => Sys2Proof.Machine.execTailKick s
  | .replayKick => Sys2Proof.Machine.execReplayKick s
  | .replayAccept => Sys2Proof.Machine.execReplayAccept s
  | .cardAccept => Sys2Proof.Machine.execCardAccept s
  | .queueEnable => Sys2Proof.Machine.execQueueEnable s
  | .queueDrain => Sys2Proof.Machine.execQueueDrain s
  | .queueHalt => Sys2Proof.Machine.execQueueHalt s
  | .queueResume => Sys2Proof.Machine.execQueueResume s
  | .queueSkip => Sys2Proof.Machine.execQueueSkip s
  | .queueDisable => Sys2Proof.Machine.execQueueDisable s
  | .graphLoad => Sys2Proof.Machine.execGraphLoad s
  | .graphUnload => Sys2Proof.Machine.execGraphUnload s
  | .decisionRound => Sys2Proof.Machine.execDecisionRound s
  | .taskAged => Sys2Proof.Machine.execTaskAged s
  | .stallWireRelease => Sys2Proof.Machine.execStallWireRelease s
  | .safePointRendezvous => Sys2Proof.Machine.execSafePointRendezvous s
  | .rendezvousTimeout => Sys2Proof.Machine.execRendezvousTimeout s
  | .corecmdReturn => Sys2Proof.Machine.execCorecmdReturn s
  | .corecmdRemove => Sys2Proof.Machine.execCorecmdRemove s
  | .scanStart => Sys2Proof.Machine.execScanStart s
  | .scanDrainTimeout => Sys2Proof.Machine.execScanDrainTimeout s
  | .scanEnd => Sys2Proof.Machine.execScanEnd s
  | .trapcmdResume => Sys2Proof.Machine.execTrapcmdResume s
  | .trapcmdHandler => Sys2Proof.Machine.execTrapcmdHandler s
  | .trapcmdKill => Sys2Proof.Machine.execTrapcmdKill s
  | .trapcmdRollback => Sys2Proof.Machine.execTrapcmdRollback s
  | .ctxcmdCreate => Sys2Proof.Machine.execCtxcmdCreate s
  | .ctxcmdLoad => Sys2Proof.Machine.execCtxcmdLoad s
  | .ctxcmdStart => Sys2Proof.Machine.execCtxcmdStart s
  | .ctxcmdFreeze => Sys2Proof.Machine.execCtxcmdFreeze s
  | .ctxcmdUnfreeze => Sys2Proof.Machine.execCtxcmdUnfreeze s
  | .ctxcmdKill => Sys2Proof.Machine.execCtxcmdKill s
  | .ctxcmdRollback => Sys2Proof.Machine.execCtxcmdRollback s
  | .ctxcmdDestroy => Sys2Proof.Machine.execCtxcmdDestroy s
  | .saveDrainLimit => Sys2Proof.Machine.execSaveDrainLimit s
  | .ownerRequest => Sys2Proof.Machine.execOwnerRequest s
  | .ownerOpen => Sys2Proof.Machine.execOwnerOpen s
  | .ownerClose => Sys2Proof.Machine.execOwnerClose s
  | .ownerSessionExpiry => Sys2Proof.Machine.execOwnerSessionExpiry s
  | .requesterAnswer => Sys2Proof.Machine.execRequesterAnswer s
  | .retransmitTimeout => Sys2Proof.Machine.execRetransmitTimeout s
  | .busyLimit => Sys2Proof.Machine.execBusyLimit s
  | .heartbeat => Sys2Proof.Machine.execHeartbeat s
  | .sessionSettle => Sys2Proof.Machine.execSessionSettle s
  | .packetExpiry => Sys2Proof.Machine.execPacketExpiry s
  | .idpop => Sys2Proof.Machine.execIdpop s
  | .gangPrepare => Sys2Proof.Machine.execGangPrepare s
  | .gangCommit => Sys2Proof.Machine.execGangCommit s
  | .gangAbort => Sys2Proof.Machine.execGangAbort s
  | .gangGo => Sys2Proof.Machine.execGangGo s
  | .gangHoldExpiry => Sys2Proof.Machine.execGangHoldExpiry s
  | .gangWatchdogExpiry => Sys2Proof.Machine.execGangWatchdogExpiry s
  | .keyinst => Sys2Proof.Machine.execKeyinst s
  | .keydel => Sys2Proof.Machine.execKeydel s
  | .fwstage => Sys2Proof.Machine.execFwstage s
  | .setlim => Sys2Proof.Machine.execSetlim s
  | .mboxReset => Sys2Proof.Machine.execMboxReset s
  | .budgetPeriod => Sys2Proof.Machine.execBudgetPeriod s
  | .moduleReset => Sys2Proof.Machine.execModuleReset s
  | .uncontainedError => Sys2Proof.Machine.execUncontainedError s
  | .hostMemRead => Sys2Proof.Machine.execHostMemRead s
  | .hostMemWrite => Sys2Proof.Machine.execHostMemWrite s
  | .bar0UnsupportedRequest => Sys2Proof.Machine.execBar0UnsupportedRequest s
  | .getVersion => Sys2Proof.Machine.execGetVersion s
  | .getCapabilities => Sys2Proof.Machine.execGetCapabilities s
  | .negotiateAlgorithms => Sys2Proof.Machine.execNegotiateAlgorithms s
  | .getDigests => Sys2Proof.Machine.execGetDigests s
  | .getCertificate => Sys2Proof.Machine.execGetCertificate s
  | .challenge => Sys2Proof.Machine.execChallenge s
  | .getMeasurements => Sys2Proof.Machine.execGetMeasurements s
  | .spdmUnsupported => Sys2Proof.Machine.execSpdmUnsupported s
  | .registerWrite => Sys2Proof.Machine.execRegisterWrite s
  | .illegalOp => Sys2Proof.Machine.execIllegalOp s
  | .serialCapStallLimit => Sys2Proof.Machine.execSerialCapStallLimit s
  | .watermarkReceipt => Sys2Proof.Machine.execWatermarkReceipt s
  | .kinvComplete => Sys2Proof.Machine.execKinvComplete s
  | .nvmePortRetrained => Sys2Proof.Machine.execNvmePortRetrained s
  | .dieTemperatureChange => Sys2Proof.Machine.execDieTemperatureChange s
  | .gscAdvance => Sys2Proof.Machine.execGscAdvance s

end Sys2Proof.Machine
end

