-- ==== Sys2Proof/Machine/Select.lean ====
section
/-! DEFINITION. What the next move of the machine is, and what a stream's move comes to before its instruction
executes: the move of the agenda or of the arbiter, the safe point, the fetch, the decoding, the interlocks. -/

namespace Sys2Proof.Machine

/-- The next move: the agenda's first, or, when it is empty, the arbiter's (R94, R119). Each move has free values of its own (R10). -/
def State.nextMove (s : State) : Move × State :=
  match s.agenda with
  | m :: t => (m, { s with agenda := t, fresh := s.fresh + 1 })
  | [] => (Config.arbiter s.fresh, { s with fresh := s.fresh + 1 })

/-- Before READY and after FATAL only the management controller, the security processor and the host's port act (R12, R453,
R462). -/
def actsUnready : Instr → Bool
  | .moduleReset | .mboxReset | .setlim | .keyinst | .keydel | .fwstage | .uncontainedError
  | .registerWrite | .hostMemRead | .hostMemWrite | .bar0UnsupportedRequest | .dieTemperatureChange | .gscAdvance
  | .packetExpiry | .getVersion | .getCapabilities | .negotiateAlgorithms | .getDigests | .getCertificate | .challenge
  | .getMeasurements | .spdmUnsupported => true
  | _ => false

/-- An event can occur now.
(DESIGN CHOICE: log entry 3.) -/
def State.canOccur (s : State) (i : Instr) : Bool := s.hub.ready || actsUnready i

/-- What a stream's move comes to. -/
inductive Issued where
  /-- no instruction executes. -/
  | idle (s : State)
  /-- this instruction executes. -/
  | run (i : Instr) (s : State)

/-- The move of a stream that has something to fetch. -/
def State.fetched (s : State) (c : Nat) (st : Stream) : Issued :=
  let pc : X64 := (s.seq c st).pc.setWidth 64
  match s.fetch c st with
  | .word w =>
    let s := { (s.fillFetch c (s.seq c st).pc).keepLine c st with word := w }
    match decode st w with
    | none => .run .illegalOp s
    | some i => if (s.core c).readyFor st i then .run i s else .idle (s.modSeq c st fun q => { q with stall := none })
  | .perm => .idle ((s.modSeq c st Seq.forget).raise c st { cause := cPAGE_PERM, addr := pc })
  | .absent =>
    match s.walk (s.slotOf c) (s.seq c st).pc, (s.core c).task with
    | .valid _, _ => .idle (s.raise c st { cause := cPAGE_ABSENT, addr := pc })
    | e, some t => .idle (s.pageFault c (if e == .error then 0x83 else 3) pc pc (.fetch st) t (s.slotOf c))
    | _, none => .idle s

/-- The move of a stream of a core: none while the module is not READY (R462); a stream that may not issue gives its member the chance to
end (R322). -/
def State.issueNext (s : State) (core : CoreId) (st : Stream) : Issued :=
  let c := core.toNat
  let s := { s with about := { core := core, stream := st } }
  if !s.hub.ready then .idle s
  else if !s.mayIssue c st then .idle (s.endMember c)
  else match s.safeStop c st with
    | some s => .idle s
    | none => s.fetched c st

end Sys2Proof.Machine
end

