-- ==== Sys2Proof/Machine/Step.lean ====
section
/-! DEFINITION. One step of the machine: the next move, which is an event or one instruction of one stream. -/

namespace Sys2Proof.Machine

/-- One step. -/
def step (s : State) : Host.Outcome State Fault Refusal :=
  match s.nextMove with
  | (.event i a, s) => if s.canOccur i then exec i { s with about := a } else .next s
  | (.issue c st, s) =>
    match s.issueNext c st with
    | .idle s => .next s
    | .run i s => exec i s

/-- The state in which the next step fetches this word and executes it, in the first stream, of C, L, S and A, to which
the opcode table's word belongs. -/
def State.withFetchWord (s : State) (nbits w : Nat) : State :=
  s.placeWord (BitVec.ofNat 32 w) (tableStream (BitVec.ofNat 32 (w % 2 ^ nbits)))

end Sys2Proof.Machine
end

