-- ==== Sys2Proof/Safety.lean ====
section
/-! DEFINITION. What counts as a safe state and a safe run, and the terms that the statements use: the effect of an
instruction and of an instruction with token fields, traps, and what an instruction leaves unchanged. -/

namespace Sys2Proof.Machine

/-- The module never claims both to run programs and to have failed (R451). -/
def State.OneStatus (s : State) : Prop := ¬ (s.hub.ready = true ∧ s.hub.failed = true)

/-- Memory is in its canonical form. -/
def State.MemWf (s : State) : Prop := Memory.wf s.mem = true

/-- A step goes on: it is neither a fault nor a refusal. -/
def State.Goes (s : State) : Prop := ∃ t, step s = .next t

/-- Instruction or event `i`, carried out in `s`, gives `t`. -/
def Gives (i : Instr) (s t : State) : Prop := exec i s = .next t

/-- Instruction `i` executed in `s` has the effect `t`, and its stream goes on with the next instruction. -/
def Does (i : Instr) (s t : State) : Prop := exec i s = .next t.advance

/-- As `Does`, of an instruction with token fields: it also pops its token, and pushes its token unless its push is `late`
(R23). -/
def DoesTok (i : Instr) (tok : Tok) (late : Bool) (s t : State) : Prop := exec i s = .next (t.tokMove tok late).advance

/-- Instruction `i` executed in `s` traps, with none of its effect (R9). -/
def Traps (i : Instr) (s : State) (t : Trap) : Prop := exec i s = .next (s.raise s.me s.st t)

/-- Instruction `i` executed in `s` stalls in the state `t`: the stream keeps its counter and issues it again. -/
def Stalls (i : Instr) (s t : State) (w : Why) : Prop := exec i s = .next (t.stallOn w)

/-- A trap that an instruction raises with no address and no detail. -/
def justCause (c : BitVec 8) : Trap := { cause := c }

/-- The A-stream instruction `i` of latency `lat` writes row `vd`, now or in its write cycle (R240): each of its `n` lanes of width
`w` takes the value of `f`, an inactive lane keeps its own, the bits above are 0, and the flags are those of the active lanes. -/
def RowOf (i : Instr) (tok : Tok) (lat : Nat) (t : BitVec 1) (vd : BitVec 6) (w n : Nat) (act : Nat → Bool)
    (f : Nat → Nat × Flags) (s : State) : Prop :=
  ∃ (r : Row) (fl : Flags),
    DoesTok i tok (decide (1 < lat)) s (s.modCore s.me fun k =>
      k.emit s.cycle lat (t == 1) tok.push (s.seq s.me .a).pc { row := some (rot k.vrot vd.toNat, r), flags := fl }) ∧
    (∀ l, l < n → lane r w l = if act l then (f l).1 % 2 ^ w else lane ((s.core s.me).vrow vd) w l) ∧ r.toNat < 2 ^ (w * n) ∧
    ∀ b, fl.getLsbD b = true ↔ ∃ l, l < n ∧ act l = true ∧ (f l).2.getLsbD b = true

/-- The A-stream instruction `i` writes predicate `pd` with the bits of `f`, and nothing else. -/
def PredOf (i : Instr) (tok : Tok) (pd : BitVec 3) (f : Nat → Prop) (s : State) : Prop :=
  ∃ q : PredBits, DoesTok i tok false s (s.modCore s.me fun k => { k with preds := vset k.preds (rotP k.prot pd.toNat) q }) ∧
    ∀ b, b < 448 → (q.getLsbD b = true ↔ f b)

/-- Predicate bit `b` belongs to lane `l` of width `w` (R238). -/
def bitOfLane (w l b : Nat) : Prop := if w < 8 then l / 2 = b else 8 * b / w = l

/-- Nothing outside core `c` differs between two states: memory, the hub, the tasks, every other core. -/
def State.SameOutside (s t : State) (c : Nat) : Prop := { t with cores := s.cores } = s ∧ ∀ n, n ≠ c → t.core n = s.core n

/-- The sequencers other than `st`'s, and the steer registers and loop levels of `st`'s, are the same. -/
def Core.SameControl (k l : Core) (st : Stream) : Prop :=
  (∀ u, u ≠ st → l.seq u = k.seq u) ∧ (l.seq st).j = (k.seq st).j ∧ (l.seq st).lp = (k.seq st).lp

/-- Item `i` moves the bytes of `x` that it has not moved yet, every range of it local, none refused and nothing before it at their
columns; its source bytes are `l`, and it leaves `t` before its completion actions (R79, R83, R103, R136, R383). -/
def Moves (s : State) (i : Item) (x : Xfer) (l : List DByte) (t : State) : Prop :=
  ∃ sp dp v w, i.phase = 0 ∧ i.moved = none ∧ s.resolve i 0 x.src [] = .ok sp v ∧ v.resolve i 1 x.dst [] = .ok dp w ∧
    (∀ p ∈ sp ++ dp, ∃ k n l, p = EPiece.mem k n l) ∧ w.tooFresh sp = false ∧ w.partsClear i (sp ++ dp) = true ∧
    w.sickLine i sp x.consumes = none ∧ l = w.sourceBytes i x sp dp ∧
    (w.touchParts sp).barredLine dp (x.f l) = none ∧ (w.touchParts sp).putParts i 0 dp (x.f l) = .ok t

/-- Every byte of memory reads the same. -/
def State.SameBytes (s t : State) : Prop := ∀ a, rdByte t.mem a = rdByte s.mem a

/-- The destination register of an instruction of the C-stream that changes nothing else (R177 to R181, R186, R381). -/
def intDest : Instr → Option (BitVec 5)
  | .add d _ _ | .sub d _ _ | .and d _ _ | .or d _ _ | .xor d _ _ | .shl d _ _ | .shr d _ _ | .sar d _ _ | .rotl d _ _
  | .min d _ _ | .max d _ _ | .minn d _ _ | .maxn d _ _ | .mul d _ _ | .mulh d _ _ | .mulhn d _ _ | .adda d _ _ => some d
  | .clz d _ | .ctz d _ | .popc d _ | .sext8 d _ | .sext16 d _ | .sext32 d _ | .zext8 d _ | .zext16 d _ | .zext32 d _ => some d
  | .mada d _ _ _ => some d
  | .bfx d _ _ _ | .bfxs d _ _ _ | .bfi d _ _ _ => some d
  | .shli d _ _ | .shri d _ _ | .sari d _ _ => some d
  | .addi d _ _ | .andi d _ _ | .ori d _ _ | .xori d _ _ => some d
  | .lim d _ => some d
  | .lih d _ _ => some d
  | .jrd d _ => some d
  | .hrd d _ => some d
  | _ => none

end Sys2Proof.Machine
end

