-- ==== Sys2Proof/Certificates/Slice0/Obligations.lean ====
section
/-! DEFINITION. The statements for the provers. Each cites the rules of spec/ that it formalises; one that rests on a choice of
the model names the log entry. -/

open Sys2Proof Sys2Proof.Machine

/-! ### Registers and integers -/

/-- R175: x0 reads 0 and writes to it are discarded; a register that is written reads back, and no other register changes. R177 to
R181, R186, R382: an integer, immediate, address or bit-field instruction, and jrd and hrd, change their register and the
program counter of their stream, and nothing else: no other register, no flag, no other core, no byte of memory. -/
def Obligations.RegistersAndFrame : Prop :=
  (∀ (s : State) (d r : BitVec 5) (v : X64),
    s.x 0 = 0 ∧ (s.setX d v).x r = (if r = d ∧ r ≠ 0 then v else s.x r)) ∧
  (∀ (i : Instr) (d : BitVec 5) (s t : State), intDest i = some d → Gives i s t →
    let k := s.core s.me
    let l := t.core s.me
    (∀ r, r ≠ d → l.getX r = k.getX r) ∧
    { l with x := k.x, seqs := k.seqs } = k ∧ k.SameControl l s.st ∧
    s.SameOutside t s.me ∧ s.SameBytes t)

/-- R177 (Table 6.3): the two-operand integer instructions. R177 (Table 6.3): the one-operand instructions. The counts are given bit
by bit: clz by the zeros above the highest one, ctz by the zeros below the lowest, 64 of either for 0. R177, R178: a division
rounds toward zero and the remainder takes the sign of a; a zero divisor and the one overflow have their fixed outcomes. The
value waits in the divider (R176). R176, R177: the division in progress ends: its register takes the value, and no register
else. -/
def Obligations.IntegerRegisters : Prop :=
  (∀ (s : State) (d ra rb : BitVec 5),
    let a := s.x ra
    let b := s.x rb
    Does (.add d ra rb) s (s.setX d (a + b)) ∧
    Does (.sub d ra rb) s (s.setX d (a - b)) ∧
    Does (.and d ra rb) s (s.setX d (a &&& b)) ∧
    Does (.or d ra rb) s (s.setX d (a ||| b)) ∧
    Does (.xor d ra rb) s (s.setX d (a ^^^ b)) ∧
    Does (.shl d ra rb) s (s.setX d (a <<< (fld b 0 6).toNat)) ∧
    Does (.shr d ra rb) s (s.setX d (a >>> (fld b 0 6).toNat)) ∧
    Does (.sar d ra rb) s (s.setX d (a.sshiftRight (fld b 0 6).toNat)) ∧
    Does (.rotl d ra rb) s (s.setX d (a.rotateLeft (fld b 0 6).toNat)) ∧
    Does (.min d ra rb) s (s.setX d (if a.toInt < b.toInt then a else b)) ∧
    Does (.max d ra rb) s (s.setX d (if a.toInt < b.toInt then b else a)) ∧
    Does (.minn d ra rb) s (s.setX d (if a.toNat < b.toNat then a else b)) ∧
    Does (.maxn d ra rb) s (s.setX d (if a.toNat < b.toNat then b else a)) ∧
    Does (.mul d ra rb) s (s.setX d (a * b)) ∧
    Does (.mulh d ra rb) s (s.setX d (BitVec.ofInt 64 (a.toInt * b.toInt / 2 ^ 64))) ∧
    Does (.mulhn d ra rb) s (s.setX d (BitVec.ofNat 64 (a.toNat * b.toNat / 2 ^ 64)))) ∧
  (∀ (s : State) (d ra : BitVec 5),
    let a := s.x ra
    (∃ n : Nat, Does (.clz d ra) s (s.setX d (BitVec.ofNat 64 n)) ∧ n ≤ 64 ∧ (a = 0 → n = 64) ∧
      (a ≠ 0 → n < 64 ∧ a.getLsbD (63 - n) = true) ∧ ∀ i, 64 - n ≤ i → a.getLsbD i = false) ∧
    (∃ n : Nat, Does (.ctz d ra) s (s.setX d (BitVec.ofNat 64 n)) ∧ n ≤ 64 ∧ (a = 0 → n = 64) ∧
      (a ≠ 0 → n < 64 ∧ a.getLsbD n = true) ∧ ∀ i, i < n → a.getLsbD i = false) ∧
    Does (.popc d ra) s (s.setX d (BitVec.ofNat 64 ((List.range 64).countP fun i => a.getLsbD i))) ∧
    Does (.sext8 d ra) s (s.setX d ((fld a 0 8).signExtend 64)) ∧
    Does (.sext16 d ra) s (s.setX d ((fld a 0 16).signExtend 64)) ∧
    Does (.sext32 d ra) s (s.setX d ((fld a 0 32).signExtend 64)) ∧
    Does (.zext8 d ra) s (s.setX d ((fld a 0 8).setWidth 64)) ∧
    Does (.zext16 d ra) s (s.setX d ((fld a 0 16).setWidth 64)) ∧
    Does (.zext32 d ra) s (s.setX d ((fld a 0 32).setWidth 64))) ∧
  (∀ (s : State) (d ra rb : BitVec 5),
    let a := s.x ra
    let b := s.x rb
    let issues (v : X64) := s.modCore s.me fun k => { k with div := some (d, v) }
    (b = 0 →
      Does (.div d ra rb) s (issues (BitVec.ofInt 64 (-1))) ∧ Does (.divn d ra rb) s (issues (BitVec.ofNat 64 (2 ^ 64 - 1))) ∧
      Does (.rem d ra rb) s (issues a) ∧ Does (.remn d ra rb) s (issues a)) ∧
    (b ≠ 0 →
      Does (.div d ra rb) s (issues (BitVec.ofInt 64 (a.toInt.tdiv b.toInt))) ∧
      Does (.divn d ra rb) s (issues (BitVec.ofNat 64 (a.toNat / b.toNat))) ∧
      Does (.rem d ra rb) s (issues (BitVec.ofInt 64 (a.toInt - b.toInt * a.toInt.tdiv b.toInt))) ∧
      Does (.remn d ra rb) s (issues (BitVec.ofNat 64 (a.toNat - b.toNat * (a.toNat / b.toNat))))) ∧
    (a = BitVec.intMin 64 → b = BitVec.ofInt 64 (-1) →
      Does (.div d ra rb) s (issues (BitVec.intMin 64)) ∧ Does (.rem d ra rb) s (issues 0))) ∧
  (∀ (s : State) (d : BitVec 5) (v : X64), (s.core s.me).div = some (d, v) →
    ∃ t, Gives .divideComplete s t ∧ (t.core s.me).div = none ∧
      (∀ r, (t.core s.me).getX r = if r = d ∧ r ≠ 0 then v else s.x r) ∧
      (∀ n, n ≠ s.me → t.core n = s.core n))

/-- R179, R180: addresses modulo 2^56 and the immediate forms, with the extensions of R154. R181: the bit-field instructions, bit by
bit; bits above 63 read as 0 in bfx and as a[63] in bfxs, and bfi drops them. -/
def Obligations.ImmediatesAndFields : Prop :=
  (∀ (s : State) (d ra rb sh : BitVec 5) (pos : BitVec 6) (imm : BitVec 16) (imm21 : BitVec 21) (q : BitVec 2),
    let a := s.x ra
    let b := s.x rb
    Does (.adda d ra rb) s (s.setX d (BitVec.ofNat 64 ((a.toNat + b.toNat) % 2 ^ 56))) ∧
    Does (.mada d ra rb sh) s (s.setX d (BitVec.ofNat 64 ((a.toNat + b.toNat * 2 ^ sh.toNat) % 2 ^ 56))) ∧
    Does (.addi d ra imm) s (s.setX d (a + imm.signExtend 64)) ∧
    Does (.andi d ra imm) s (s.setX d (a &&& imm.setWidth 64)) ∧
    Does (.ori d ra imm) s (s.setX d (a ||| imm.setWidth 64)) ∧
    Does (.xori d ra imm) s (s.setX d (a ^^^ imm.setWidth 64)) ∧
    Does (.shli d ra pos) s (s.setX d (a <<< pos.toNat)) ∧
    Does (.shri d ra pos) s (s.setX d (a >>> pos.toNat)) ∧
    Does (.sari d ra pos) s (s.setX d (a.sshiftRight pos.toNat)) ∧
    Does (.lim d imm21) s (s.setX d (imm21.signExtend 64)) ∧
    ∃ v : X64, Does (.lih d q imm) s (s.setX d v) ∧ fld v (16 * q.toNat) 16 = imm ∧
      ∀ i, (i < 16 * q.toNat ∨ 16 * q.toNat + 16 ≤ i) → v.getLsbD i = (s.x d).getLsbD i) ∧
  (∀ (s : State) (d ra : BitVec 5) (pos width : BitVec 6),
    let a := s.x ra
    let p := pos.toNat
    let w := width.toNat
    (∃ v : X64, Does (.bfx d ra pos width) s (s.setX d v) ∧
      ∀ i, i < 64 → v.getLsbD i = (decide (i < w) && a.getLsbD (p + i))) ∧
    (∃ v : X64, Does (.bfxs d ra pos width) s (s.setX d v) ∧
      ∀ i, i < 64 → v.getLsbD i = (decide (0 < w) && a.getLsbD (Nat.min (p + Nat.min i (w - 1)) 63))) ∧
    (∃ v : X64, Does (.bfi d ra pos width) s (s.setX d v) ∧
      ∀ i, i < 64 → v.getLsbD i = if p ≤ i ∧ i < p + w then a.getLsbD (i - p) else (s.x d).getLsbD i))

/-- R148, R188, R214: what going on with the next instruction is. The program counter advances by 4, or to the Pending target after
a taken transfer's delay slot; a stream that has completed the last word of its section stops, and the next instruction issues
in a later cycle (R176). That it stops as well where a taken transfer leads to its section's end is the model's choice (log
entry 102). -/
def Obligations.NextInstruction : Prop :=
  ∀ (s : State),
    let q := s.seq s.me s.st
    let r := s.advance.seq s.me s.st
    (r.pc = match q.slot, q.pending with
      | true, some p => p.1
      | _, _ => q.pc + 4) ∧
    (q.slot = true → r.pending = none) ∧ (q.slot = false → r.pending = q.pending) ∧ r.slot = false ∧
    (r.stopped = (q.stopped || decide (r.pc = s.sectionEnd s.me s.st))) ∧ r.last = some s.cycle ∧
    (s.core s.me).SameControl (s.advance.core s.me) s.st ∧
    { s.advance.core s.me with seqs := (s.core s.me).seqs } = s.core s.me ∧
    s.SameOutside s.advance s.me

/-! ### Steer registers, transfers and loops -/

/-- R185 and Table 5.3: cmp and cmpi write the condition half with the condition their code names; R185: jand and jor combine two
conditions, UNSET when either is; the target half stays. R184 to R186 and Tables 6.5 and 6.6: prep and prepx make a register
FETCHING at a target that is a multiple of 4 and raise MISALIGN otherwise; jmov copies, jclr clears, jrd reads. -/
def Obligations.SteerRegisters : Prop :=
  (∀ (s : State) (cc ra rb : BitVec 5) (j ja jb : BitVec 4) (imm : BitVec 12) (h : Bool),
    let table (x y : X64) : List Bool :=
      [x == y, x != y, decide (x.toInt < y.toInt), decide (x.toInt ≤ y.toInt), decide (y.toInt < x.toInt),
       decide (y.toInt ≤ x.toInt), decide (x.toNat < y.toNat), decide (x.toNat ≤ y.toNat), decide (y.toNat < x.toNat),
       decide (y.toNat ≤ x.toNat), x &&& y == 0, x &&& y != 0]
    let sets (c : Cond) := s.modJ j.toNat fun r => { r with cond := c }
    let u := (s.myJ ja.toNat).cond
    let v := (s.myJ jb.toNat).cond
    ((table (s.x ra) (s.x rb))[cc.toNat]? = some h → Does (.cmp cc ra rb j) s (sets (if h then .true else .false))) ∧
    ((table (s.x ra) (imm.signExtend 64))[cc.toNat]? = some h →
      Does (.cmpi cc ra imm j) s (sets (if h then .true else .false))) ∧
    Does (.jand j ja jb) s
      (sets (if u = .unset ∨ v = .unset then .unset else if u = .true ∧ v = .true then .true else .false)) ∧
    Does (.jor j ja jb) s
      (sets (if u = .unset ∨ v = .unset then .unset else if u = .true ∨ v = .true then .true else .false))) ∧
  (∀ (s : State) (j ja : BitVec 4) (ra d : BitVec 5) (off : BitVec 22),
    let fetches (t : VAddr) := s.modJ j.toNat fun r => { r with target := t, st := .fetching, buf := {} }
    let misaligned (t : VAddr) : Trap := { cause := cMISALIGN, addr := t.setWidth 64 }
    let t : VAddr := s.pc + 4 * off.signExtend 56
    let tx : VAddr := fld (s.x ra) 0 56
    let src := s.myJ ja.toNat
    let r := s.myJ j.toNat
    (t.toNat % 4 = 0 → Does (.prep j off) s (fetches t)) ∧
    (t.toNat % 4 ≠ 0 → Traps (.prep j off) s (misaligned t)) ∧
    (tx.toNat % 4 = 0 → Does (.prepx j ra) s (fetches tx)) ∧
    (tx.toNat % 4 ≠ 0 → Traps (.prepx j ra) s (misaligned tx)) ∧
    (j = ja → Does (.jmov j ja) s s) ∧
    (j ≠ ja → src.st = .empty → Does (.jmov j ja) s (s.modJ j.toNat fun _ => {})) ∧
    (j ≠ ja → src.st ≠ .empty → Does (.jmov j ja) s (s.modJ j.toNat fun _ =>
      { target := src.target, st := .fetching, cond := src.cond, buf := {} })) ∧
    Does (.jclr j) s (s.modJ j.toNat fun _ => {}) ∧
    ∃ v : X64, Does (.jrd d j) s (s.setX d v) ∧
      fld v 0 56 = (if r.st = .empty then (0 : VAddr) else r.target) ∧ fld v 56 4 = 0#4 ∧
      fld v 60 2 = (match r.st with | .empty => 0#2 | .fetching => 1#2 | .ready => 2#2 | .stale => 3#2) ∧
      fld v 62 2 = (match r.cond with | .unset => 0#2 | .true => 1#2 | .false => 2#2))

/-- R187, R188, R191: a transfer through a READY register whose condition holds sets Pending, one whose condition fails changes
nothing, and both open the delay slot; xferl also prepares the return address. R187, R189: an EMPTY register raises STEER_EMPTY,
an UNSET condition raises COND_UNSET, and a transfer in a delay slot raises ILLEGAL_OP; a transfer to be taken through a
FETCHING register stalls, and through a STALE one first starts its refetch. -/
def Obligations.Transfers : Prop :=
  (∀ (s : State) (j ja : BitVec 4),
    let r := s.myJ j.toNat
    let taken := s.modSeq s.me s.st fun q => { q with pending := some (r.target, r.buf) }
    s.inSlot = false →
    (r.st = .ready → Gives (.xferA j) s taken.advance.openSlot) ∧
    (r.st = .ready → r.cond = .true → Gives (.xferT j) s taken.advance.openSlot) ∧
    (r.st = .ready → r.cond = .false → Gives (.xferF j) s taken.advance.openSlot) ∧
    (r.st ≠ .empty → r.cond = .false → Gives (.xferT j) s s.advance.openSlot) ∧
    (r.st ≠ .empty → r.cond = .true → Gives (.xferF j) s s.advance.openSlot) ∧
    (r.st = .ready → Gives (.xferl j ja) s
      ((taken.modJ ja.toNat fun u => { u with target := s.pc + 8, st := .fetching, buf := {} }).advance.openSlot))) ∧
  (∀ (s : State) (j ja : BitVec 4),
    let r := s.myJ j.toNat
    let empty (kind : Nat) : Trap := { cause := cSTEER_EMPTY, addr := 0, detail := BitVec.ofNat 64 (j.toNat + 16 * kind) }
    let unset (kind : Nat) : Trap :=
      { cause := cCOND_UNSET, addr := r.target.setWidth 64, detail := BitVec.ofNat 64 (j.toNat + 16 * kind) }
    let refetch := s.modJ j.toNat fun r => { r with st := .fetching, buf := {} }
    (s.inSlot = true → Traps (.xferA j) s (s.illegal false) ∧ Traps (.xferT j) s (s.illegal false) ∧
      Traps (.xferF j) s (s.illegal false) ∧ Traps (.xferl j ja) s (s.illegal false)) ∧
    (s.inSlot = false →
      (r.st = .empty → Traps (.xferA j) s (empty 0) ∧ Traps (.xferT j) s (empty 1) ∧ Traps (.xferF j) s (empty 2) ∧
        Traps (.xferl j ja) s (empty 3)) ∧
      (r.st ≠ .empty → r.cond = .unset → Traps (.xferT j) s (unset 1) ∧ Traps (.xferF j) s (unset 2)) ∧
      (r.st = .fetching → Stalls (.xferA j) s s .other ∧ Stalls (.xferl j ja) s s .other ∧
        (r.cond = .true → Stalls (.xferT j) s s .other) ∧ (r.cond = .false → Stalls (.xferF j) s s .other)) ∧
      (r.st = .stale → Stalls (.xferA j) s refetch .other ∧ Stalls (.xferl j ja) s refetch .other ∧
        (r.cond = .true → Stalls (.xferT j) s refetch .other) ∧ (r.cond = .false → Stalls (.xferF j) s refetch .other))))

/-- R195 to R197: the loops of the C-stream. LOOP with no round left skips its body; LEND repeats or ends a counted level by its
count, and a conditional level by its steer register's condition, which it leaves UNSET. -/
def Obligations.HardwareLoops : Prop :=
  ∀ (s : State) (lp : BitVec 2) (ra : BitVec 5) (skip : BitVec 16) (j : BitVec 4) (mx : BitVec 20),
    let a := s.pc
    let n := s.x ra
    let words (k : Nat) := BitVec.ofNat 56 (4 * k)
    s.inSlot = false →
    (n = 0 → Gives (.loop lp ra skip) s (s.goto (a + words skip.toNat))) ∧
    (n ≠ 0 → Does (.loop lp ra skip) s (s.setLevel lp.toNat (some (.count (a + 4) (a + words (skip.toNat - 1)) n)))) ∧
    Does (.loopc lp j mx) s (s.setLevel lp.toNat (some (.cond (a + 4) none 1 j.toNat mx.toNat))) ∧
    (s.level lp.toNat = none → Traps (.lend lp) s (s.illegal false)) ∧
    (∀ start left, s.level lp.toNat = some (.count start a left) →
      (left = 1 → Does (.lend lp) s (s.setLevel lp.toNat none)) ∧
      (left ≠ 1 → Gives (.lend lp) s ((s.setLevel lp.toNat (some (.count start a (left - 1)))).goto start))) ∧
    (∀ start stop left, s.level lp.toNat = some (.count start stop left) → stop ≠ a →
      Traps (.lend lp) s (s.illegal false)) ∧
    (∀ start stop trip jj max, s.level lp.toNat = some (.cond start stop trip jj max) →
      let ends := s.modJ jj fun r => { r with cond := .unset }
      (stop ≠ none ∧ stop ≠ some a → Traps (.lend lp) s (s.illegal false)) ∧
      (stop = none ∨ stop = some a →
        ((s.myJ jj).cond = .true → Does (.lend lp) s (ends.setLevel lp.toNat none)) ∧
        ((s.myJ jj).cond = .false → trip ≠ max →
          Gives (.lend lp) s ((ends.setLevel lp.toNat (some (.cond start (some a) (trip + 1) jj max))).goto start)) ∧
        ((s.myJ jj).cond = .unset → Traps (.lend lp) s
          { cause := cCOND_UNSET, addr := if (s.myJ jj).st = .empty then 0 else (s.myJ jj).target.setWidth 64,
            detail := BitVec.ofNat 64 (jj + 64 + 256 * lp.toNat) }) ∧
        ((s.myJ jj).cond = .false → trip = max →
          Traps (.lend lp) s { cause := cLOOP_LIMIT, addr := (start - 4).setWidth 64, detail := BitVec.ofNat 64 lp.toNat })))

/-- R150, R228, R229, R239, R259: the loops, transfers, prep and nop of the L-, S- and A-stream, whose payload, if their token has
one, takes the place of the count, the condition or the target; lend.r also steps the rotation bases. In a delay slot each but
prep and nop raises ILLEGAL_OP, and so does a lend of an inactive level or of another level's end; a transfer raises STEER_EMPTY
and COND_UNSET, waits for a FETCHING register and refetches a STALE one; a conditional lend raises COND_UNSET and LOOP_LIMIT; a
target that is no multiple of 4 raises MISALIGN (R184, R187, R189, R197). None of these moves a token (R23, R231, R260). -/
def Obligations.DataStreamControl : Prop :=
  ∀ (s : State) (tok : Tok) (lp j : BitVec 2) (skip : BitVec 8) (count : BitVec 12) (mx : BitVec 18) (off : BitVec 20),
    let a := s.pc
    let words (k : Nat) := BitVec.ofNat 56 (4 * k)
    let p := s.payload tok
    let n := p.getD (count.setWidth 64)
    let t : VAddr := match p with | some v => fld v 0 56 | none => a + 4 * off.signExtend 56
    let r := s.myJ j.toNat
    let c : Cond := match p with | some v => (if v.getLsbD 0 then .true else .false) | none => r.cond
    let taken := s.modSeq s.me s.st fun q => { q with pending := some (r.target, r.buf) }
    let moves (u : State) := u.tokMove tok false
    let emptyTrap (kind : Nat) : Trap := { cause := cSTEER_EMPTY, addr := 0, detail := BitVec.ofNat 64 (j.toNat + 16 * kind) }
    let unset (kind : Nat) : Trap :=
      { cause := cCOND_UNSET, addr := r.target.setWidth 64, detail := BitVec.ofNat 64 (j.toNat + 16 * kind) }
    let refetch := s.modJ j.toNat fun r => { r with st := .fetching, buf := {} }
    let bad (i : Instr) := Traps i s (s.illegal false)
    let noLend := bad (.lendDA lp tok) ∧ bad (.lendR lp tok)
    let lends (u : State) (at_ : Option VAddr) :=
      match at_ with
      | none => DoesTok (.lendDA lp tok) tok false s u ∧ DoesTok (.lendR lp tok) tok false s
          (u.modCore s.me fun k => { k with vrot := k.vrot - 1, prot := k.prot - 1 })
      | some start => Gives (.lendDA lp tok) s ((moves u).goto start) ∧ Gives (.lendR lp tok) s
          ((moves (u.modCore s.me fun k => { k with vrot := k.vrot - 1, prot := k.prot - 1 })).goto start)
    s.tokWait tok false = none →
    DoesTok (.nopDA tok) tok false s s ∧
    (t.toNat % 4 ≠ 0 → Traps (.prepDA j off tok) s { cause := cMISALIGN, addr := t.setWidth 64 }) ∧
    (t.toNat % 4 = 0 → DoesTok (.prepDA j off tok) tok false s
      (s.modJ j.toNat fun r => { r with target := t, st := .fetching, buf := {} })) ∧
    (s.inSlot = true → bad (.loopDA lp skip count tok) ∧ bad (.loopcDA lp j mx tok) ∧ bad (.xferADA j tok) ∧
      bad (.xferTDA j tok) ∧ bad (.xferFDA j tok) ∧ noLend) ∧
    (s.inSlot = false →
    (r.st = .empty → Traps (.xferADA j tok) s (emptyTrap 0) ∧ Traps (.xferTDA j tok) s (emptyTrap 1) ∧
      Traps (.xferFDA j tok) s (emptyTrap 2)) ∧
    (r.st ≠ .empty → c = .unset → Traps (.xferTDA j tok) s (unset 1) ∧ Traps (.xferFDA j tok) s (unset 2)) ∧
    (r.st = .fetching → Stalls (.xferADA j tok) s s .other ∧ (c = .true → Stalls (.xferTDA j tok) s s .other) ∧
      (c = .false → Stalls (.xferFDA j tok) s s .other)) ∧
    (r.st = .stale → Stalls (.xferADA j tok) s refetch .other ∧ (c = .true → Stalls (.xferTDA j tok) s refetch .other) ∧
      (c = .false → Stalls (.xferFDA j tok) s refetch .other)) ∧
    (s.level lp.toNat = none → noLend) ∧
    (∀ start stop left, s.level lp.toNat = some (.count start stop left) → stop ≠ a → noLend) ∧
    (n = 0 → Gives (.loopDA lp skip count tok) s ((moves s).goto (a + words skip.toNat))) ∧
    (n ≠ 0 → DoesTok (.loopDA lp skip count tok) tok false s
      (s.setLevel lp.toNat (some (.count (a + 4) (a + words (skip.toNat - 1)) n)))) ∧
    DoesTok (.loopcDA lp j mx tok) tok false s (s.setLevel lp.toNat (some (.cond (a + 4) none 1 j.toNat mx.toNat))) ∧
    (r.st = .ready → Gives (.xferADA j tok) s (moves taken).advance.openSlot) ∧
    (r.st = .ready → c = .true → Gives (.xferTDA j tok) s (moves taken).advance.openSlot) ∧
    (r.st = .ready → c = .false → Gives (.xferFDA j tok) s (moves taken).advance.openSlot) ∧
    (r.st ≠ .empty → c = .false → Gives (.xferTDA j tok) s (moves s).advance.openSlot) ∧
    (r.st ≠ .empty → c = .true → Gives (.xferFDA j tok) s (moves s).advance.openSlot) ∧
    (∀ start left, s.level lp.toNat = some (.count start a left) →
      (left = 1 → lends (s.setLevel lp.toNat none) none) ∧
      (left ≠ 1 → lends (s.setLevel lp.toNat (some (.count start a (left - 1)))) (some start))) ∧
    (∀ start stop trip jj max, s.level lp.toNat = some (.cond start stop trip jj max) →
      let ends := s.modJ jj fun r => { r with cond := .unset }
      let e : Cond := match p with | some v => (if v.getLsbD 0 then .true else .false) | none => (s.myJ jj).cond
      let both (x : Trap) := Traps (.lendDA lp tok) s x ∧ Traps (.lendR lp tok) s x
      (stop ≠ none ∧ stop ≠ some a → noLend) ∧
      (stop = none ∨ stop = some a →
        (e = .true → lends (ends.setLevel lp.toNat none) none) ∧
        (e = .false → trip ≠ max →
          lends (ends.setLevel lp.toNat (some (.cond start (some a) (trip + 1) jj max))) (some start)) ∧
        (e = .unset → both
          { cause := cCOND_UNSET, addr := if (s.myJ jj).st = .empty then 0 else (s.myJ jj).target.setWidth 64,
            detail := BitVec.ofNat 64 (jj + 64 + 256 * lp.toNat) }) ∧
        (e = .false → trip = max → both
          { cause := cLOOP_LIMIT, addr := (start - 4).setWidth 64, detail := BitVec.ofNat 64 lp.toNat }))))

/-- R183, R193 and Table 6.5: a prefetch that ends makes its FETCHING register READY with the four lines from its target's line; a
delivery sets its register to the delivered target, FETCHING and UNSET. A register that is not FETCHING, and a delivery that is
not there, leave the state as it is. Which four lines a prefetch reads, and when, is the model's (log entry 12). -/
def Obligations.SteerEvents : Prop :=
  ∀ (s : State),
    let r := s.myJ s.about.n
    (r.st = .fetching → ∃ buf : FBuf, buf.base = (r.target &&& ~~~ 63) ∧ buf.words.length = 64 ∧
      (∀ i, i < 64 → buf.words[i]? = some (s.fetchAt s.me (buf.base + BitVec.ofNat 56 (4 * i)))) ∧
      Gives .prefetchComplete s (s.modJ s.about.n fun r => { r with st := .ready, buf := buf })) ∧
    (r.st ≠ .fetching → Gives .prefetchComplete s s) ∧
    (∀ d, s.deliveries[s.about.k]? = some d →
      (∀ e ∈ s.deliveries.take s.about.k, ¬ (e.core = d.core ∧ e.stream = d.stream ∧ e.j = d.j)) →
      Gives .steerDelivery s
        { s.modSteer d.core.toNat d.stream d.j fun _ => { target := d.target, st := .fetching, cond := .unset, buf := {} } with
          deliveries := s.deliveries.eraseIdx s.about.k }) ∧
    (s.deliveries[s.about.k]? = none → Gives .steerDelivery s s)

/-- R22 to R24, R132, R198: tksend waits until the accesses before it are ordered and its queue has room, then appends its
register's value; tkrecv takes the oldest token, which an earlier cycle has pushed, once what it orders has come about, and
answers how many such tokens are left. R22 to R24: what the token fields of an instruction of a data stream or of the A-stream
do. They wait for a token to pop that an earlier cycle has pushed, and, when the instruction completes as it issues, for room to
push; when they move, the popped queue loses its oldest token and the pushed queue gains one at its end; every other queue
stays. -/
def Obligations.Tokens : Prop :=
  (∀ (s : State) (ra d : BitVec 5) (t : BitVec 2), t ≠ 0 →
    let k := s.core s.me
    let q := t.toNat
    (s.fenceRel 0 = true → (k.tq 0 q).length < 15 →
      Does (.tksend ra t) s (s.modCore s.me fun k =>
        { k.setTq 0 q (k.tq 0 q ++ [s.x ra]) with tokNew := vset k.tokNew q (vget k.tokNew q 0 + 1) })) ∧
    (s.fenceRel 0 = true → 15 ≤ (k.tq 0 q).length → Stalls (.tksend ra t) s s (.token 0 q)) ∧
    (∀ m rest, k.poppable q 0 = m :: rest →
      (s.edge s.me q m = true → Does (.tkrecv d t) s (s.modCore s.me fun k =>
        (k.setTq q 0 (k.tq q 0).tail).setX d (BitVec.ofNat 64 rest.length))) ∧
      (s.edge s.me q m = false → Stalls (.tkrecv d t) s s .other)) ∧
    (k.poppable q 0 = [] → Stalls (.tkrecv d t) s s (.token q 0))) ∧
  (∀ (s : State) (tok : Tok) (late : Bool), s.st ≠ .c →
    let k := s.core s.me
    let me := s.st.num
    let src := tokOther s.st tok.pop
    let dst := tokOther s.st tok.push
    let l := (s.tokMove tok late).core s.me
    (tok.pop ≠ 0 → k.poppable src me = [] → s.tokWait tok late = some (.token src me)) ∧
    (tok.pop = 0 → tok.push ≠ 0 → 15 ≤ (k.tq me dst).length → k.allStopped = false → late = false → s.tokWait tok late = some (.token me dst)) ∧
    (tok.pop = 0 → (tok.push = 0 ∨ late = true) → s.tokWait tok late = none) ∧
    (tok.pop ≠ 0 → l.tq src me = (k.tq src me).tail) ∧
    (tok.push ≠ 0 → late = false → ∃ v, l.tq me dst = k.tq me dst ++ [v]) ∧
    (∀ x y, x < 4 → y < 4 → ¬ (tok.pop ≠ 0 ∧ x = src ∧ y = me) → ¬ (tok.push ≠ 0 ∧ late = false ∧ x = me ∧ y = dst) →
      l.tq x y = k.tq x y))

/-! ### Scalar accesses, atomics and fences -/

/-- R199, R200: ldx and ldxp issue when their address passes its checks and an entry is free, and enter the outstanding reads; an
address that fails traps. The handle forms are those whose page is local. -/
def Obligations.ScalarLoads : Prop :=
  ∀ (s u : State) (d ra h rb : BitVec 5) (ord imm : BitVec 4) (ty : BitVec 3) (key : Nat) (tr : Trans) (t : Trap),
    let p : PlaceAddr := fld (s.x ra) 0 32
    let n := 2 ^ (ty.toNat / 2)
    let dst : ReadDst := .x d n (decide (ty.toNat % 2 = 0) && decide (ty.toNat < 6))
    let place (m : Nat) := s.place s.me p (offOf p + (imm.toNat * m : Nat)) m m
    let off (m : Nat) := s.x rb + BitVec.ofNat 64 (imm.toNat * m)
    let use (m : Nat) := (s.atVa h (off m)).handleUse h (off m) m 0
    let reads (w : State) (x : ReadDst) (m : Nat) (g : Trans) (va : X64) := w.issueRead
      { dst := x, pieces := [(key, m)], acq := isAcq ord, rel := relOf ord, place := !g.grants, va := va, span := g.span
        log := g.log || s.plogKey (s.slotOf s.me) key }
    (s.core s.me).cReads.length < 16 →
    (place n = .ok key → Does (.ldxPlace d ra ord ty imm) s (reads s dst n {} s.about.addr)) ∧
    (place 16 = .ok key → Does (.ldxpPlace d ra ord imm) s (reads s (.xPair d) 16 {} s.about.addr)) ∧
    (place n = .error t → Traps (.ldxPlace d ra ord ty imm) s t) ∧
    (place 16 = .error t → Traps (.ldxpPlace d ra ord imm) s t) ∧
    (use n = .key key tr u → Does (.ldxHandle d h rb ord ty imm) s
      (reads u dst n tr (s.atVa h (off n)).about.addr)) ∧
    (use 16 = .key key tr u → Does (.ldxpHandle d h rb ord imm) s
      (reads u (.xPair d) 16 tr (s.atVa h (off 16)).about.addr))

/-- R117, R176, R200: a load of the own column that issues with no other access of its stream outstanding is performed at once: it
takes the bytes of memory, the lowest first, and changes no byte, no register and no other core. R79: one of a byte of L0 that
is written in this cycle is not performed yet. R158, R200, R202: the data of a performed read arrive in its registers, cut to
the access's size and extended by its type; ldxp writes two registers. The read is outstanding no longer. R83, R232: a performed
read that met a poisoned line stops its stream and raises POISON with NR; its register is not written. -/
def Obligations.LoadsComplete : Prop :=
  (∀ (s : State) (r : Read) (key n : Nat),
    let k := s.core s.me
    k.cReads = [] → k.cStores = [] → r.pieces = [(key, n)] → 0 < n → r.atom = none → farKey s.me key = false →
    (∀ a, key ≤ a → a < key + n → s.poolHole a = false) → poisonIn s key n = none → r.value = none →
    ∃ r', ((s.issueRead r).core s.me).cReads = [r'] ∧ r'.dst = r.dst ∧ r'.no = k.accNo ∧
      ((∀ b ∈ s.l0Then, ¬ (key ≤ b.1 ∧ b.1 < key + n)) → r'.value = some (rdNat s.mem key n) ∧ r'.poison = none) ∧
      ((∃ b ∈ s.l0Then, key ≤ b.1 ∧ b.1 < key + n) → r'.value = none) ∧
      ((s.issueRead r).core s.me).x = k.x ∧ s.SameBytes (s.issueRead r) ∧
      ∀ c, c ≠ s.me → (s.issueRead r).core c = s.core c) ∧
  (∀ (s : State) (r : Read) (v : Nat) (d : BitVec 5) (size : Nat) (sext : Bool),
    let k := s.core s.me
    s.st = .c → s.about.n = 0 → k.cReads = [r] → r.no = s.about.k → r.value = some v → r.poison = none → r.remote = false →
    (size = 1 ∨ size = 2 ∨ size = 4 ∨ size = 8) →
    (r.dst = .x d size sext → ∃ t, Gives .readDataReturn s t ∧ (t.core s.me).cReads = [] ∧
      ∀ q, (t.core s.me).getX q =
        if q = d ∧ q ≠ 0 then
          (if sext then (BitVec.ofNat (8 * size) v).signExtend 64 else (BitVec.ofNat (8 * size) v).setWidth 64)
        else k.getX q) ∧
    (r.dst = .xPair d → d.toNat % 2 = 0 → ∃ t, Gives .readDataReturn s t ∧ (t.core s.me).cReads = [] ∧
      (t.core s.me).getX d = (if d = 0 then 0 else BitVec.ofNat 64 v) ∧
      (t.core s.me).getX (d + 1) = BitVec.ofNat 64 (v / 2 ^ 64))) ∧
  (∀ (s : State) (r : Read) (a : X64),
    let k := s.core s.me
    s.st = .c → s.about.n = 0 → k.read s.about.k = some r → r.value ≠ none → r.poison = some a → r.remote = false →
    (k.seq .c).halted = false →
    ∃ t, Gives .readDataReturn s t ∧ (t.core s.me).x = k.x ∧ ((t.core s.me).seq .c).halted = true ∧
      (t.core s.me).tcause = cPOISON ∧ (t.core s.me).tpc = r.pc ∧ (t.core s.me).tstream = 0)

/-- R199, R200: stx and stxp enter the store buffer when their address passes its checks and an entry is free; no byte of memory
changes yet. R117, R120: the oldest store of the C-stream becomes visible, of the own column or, once it has reached it, of
memory: memory takes its bytes from its address upward and no other byte changes, but for the DIRTY byte of a slot of the pool
that it makes dirty (R391); the entry is free and no register changes. The premises are the memory's canonical form, which every
step keeps (StepKeepsMemory), and that no record waits to be posted. -/
def Obligations.ScalarStores : Prop :=
  (∀ (s u : State) (d ra h rb : BitVec 5) (ord imm : BitVec 4) (ty : BitVec 3) (key : Nat) (tr : Trans) (t : Trap),
    let p : PlaceAddr := fld (s.x ra) 0 32
    let n := 2 ^ (ty.toNat / 2)
    let one := natBytes (s.x d).toNat n
    let two := natBytes (s.x d).toNat 8 ++ natBytes (s.x (d + 1)).toNat 8
    let place (m : Nat) := s.place s.me p (offOf p + (imm.toNat * m : Nat)) m m
    let off (m : Nat) := s.x rb + BitVec.ofNat 64 (imm.toNat * m)
    let use (m : Nat) := (s.atVa h (off m)).handleUse h (off m) m 1
    let stores (w : State) (bs : List Byte) (va : X64) (g : Trans) := w.modCore s.me fun k =>
      { k with
        cStores := k.cStores ++ [{ no := k.accNo, pieces := [(key, bs)], rel := relOf ord, pc := (s.seq s.me .c).pc, va := va,
                                   span := g.span, log := g.log || s.plogKey (s.slotOf s.me) key }]
        accNo := k.accNo + 1 }
    (s.core s.me).cStores.length < 16 →
    (place n = .ok key → Does (.stxPlace d ra ord ty imm) s (stores s one s.about.addr {})) ∧
    (place 16 = .ok key → Does (.stxpPlace d ra ord imm) s (stores s two s.about.addr {})) ∧
    (place n = .error t → Traps (.stxPlace d ra ord ty imm) s t) ∧
    (place 16 = .error t → Traps (.stxpPlace d ra ord imm) s t) ∧
    (use n = .key key tr u → Does (.stxHandle d h rb ord ty imm) s (stores u one (s.atVa h (off n)).about.addr tr)) ∧
    (use 16 = .key key tr u → Does (.stxpHandle d h rb ord imm) s (stores u two (s.atVa h (off 16)).about.addr tr))) ∧
  (∀ (s : State) (e : Store) (rest : List Store) (key : Nat) (bs : List Byte),
    let k := s.core s.me
    let soils (a : Nat) := ∃ x ∈ s.pool, x.2.soils key = true ∧ a = s.poolEntry x.1 + 26
    s.MemWf → s.st = .c → s.about.k = 0 → s.about.rid ≠ 2 → s.about.isLoad = false → k.cStores = e :: rest →
    (∀ x ∈ rest, x.no ≠ e.no) → e.pieces = [(key, bs)] → e.remote = false →
    (farKey s.me key = false ∨ (placeOfKey key = none ∧ e.arrived = true)) →
    e.log = false → isHub key = false → s.cReady s.me 0 = true → (s.ctx (s.slotOf s.me)).held = [] →
    ∃ t, Gives .storeVisible s t ∧ (t.core s.me).cStores = rest ∧ (t.core s.me).x = k.x ∧
      (∀ a, ¬ soils a →
        rdByte t.mem a = if key ≤ a ∧ a < key + bs.length then bs.getD (a - key) 0 else rdByte s.mem a) ∧
      (∀ a, soils a → rdByte t.mem a = 1) ∧
      ∀ c, c ≠ s.me → t.core c = s.core c)

/-- R202: every atomic, in its place form and its handle form, issues as one outstanding operation that holds its function, its
operand and, for atcas, its compare value. R117, R202: an atomic of `w` bits (32 or 64) is one event at its location: its value
is the old number m there, and the location takes the new one, which depends on m, on the operand b cut to the size and, for
atcas, on the compare value cut to the size; that of atfadd is the f32 sum of m and b, rounded to the nearest, ties to even
(rounding mode 0, R158). No other byte changes, but for the DIRTY byte of a slot of the pool that it makes dirty (R391). -/
def Obligations.Atomics : Prop :=
  (∀ (s u : State) (d ra h rb : BitVec 5) (ord : BitVec 4) (sz : BitVec 1) (key : Nat) (tr : Trans),
    let p : PlaceAddr := fld (s.x ra) 0 32
    let off := s.x (rb + 1)
    let va := s.atVa h off
    let issues (w : State) (fn : BitVec 4) (n : Nat) (g : Trans) (a : X64) := w.issueRead
      { dst := .x d n false, pieces := [(key, n)], acq := isAcq ord, rel := relOf ord, place := !g.grants, va := a, span := g.span
        atom := some { fn := fn, b := (s.x rb).toNat, cmp := (s.x d).toNat }
        log := g.log || s.plogKey (s.slotOf s.me) key }
    let atPlace (i : Instr) (fn : BitVec 4) (n : Nat) : Prop :=
      s.place s.me p (offOf p) n n = .ok key → Does i s (issues s fn n {} s.about.addr)
    let atHandle (i : Instr) (fn : BitVec 4) (n : Nat) : Prop :=
      va.handleUse h off n 2 = .key key tr u → Does i s (issues u fn n tr va.about.addr)
    let n := if sz = 1 then 8 else 4
    (s.core s.me).cReads.length < 16 →
    atPlace (.ataddPlace d ra rb ord sz) 0 n ∧ atHandle (.ataddHandle d h rb ord sz) 0 n ∧
    atPlace (.atswpPlace d ra rb ord sz) 1 n ∧ atHandle (.atswpHandle d h rb ord sz) 1 n ∧
    atPlace (.atcasPlace d ra rb ord sz) 2 n ∧ atHandle (.atcasHandle d h rb ord sz) 2 n ∧
    atPlace (.atminPlace d ra rb ord sz) 3 n ∧ atHandle (.atminHandle d h rb ord sz) 3 n ∧
    atPlace (.atmaxPlace d ra rb ord sz) 4 n ∧ atHandle (.atmaxHandle d h rb ord sz) 4 n ∧
    atPlace (.atandPlace d ra rb ord sz) 5 n ∧ atHandle (.atandHandle d h rb ord sz) 5 n ∧
    atPlace (.atorPlace d ra rb ord sz) 6 n ∧ atHandle (.atorHandle d h rb ord sz) 6 n ∧
    atPlace (.atxorPlace d ra rb ord sz) 7 n ∧ atHandle (.atxorHandle d h rb ord sz) 7 n ∧
    atPlace (.atfaddPlace d ra rb ord) 8 4 ∧ atHandle (.atfaddHandle d h rb ord) 8 4) ∧
  (∀ (s : State) (r : Read) (a : Atom) (key n : Nat),
    let soils (a : Nat) := ∃ x ∈ s.pool, x.2.soils key = true ∧ a = s.poolEntry x.1 + 26
    s.MemWf → (n = 4 ∨ n = 8) → r.atom = some a → r.pieces = [(key, n)] → r.log = false →
    (∀ x, key ≤ x → x < key + n → s.poolHole x = false) → poisonIn s key n = none →
    let m : BitVec (8 * n) := BitVec.ofNat (8 * n) (rdNat s.mem key n)
    let b : BitVec (8 * n) := BitVec.ofNat (8 * n) a.b
    ∃ (new : BitVec (8 * n)) (t : State), s.performC s.me r = some ({ r with value := some m.toNat }, t) ∧
      (a.fn = 0 → new = m + b) ∧ (a.fn = 1 → new = b) ∧
      (a.fn = 2 → new = if m = BitVec.ofNat (8 * n) a.cmp then b else m) ∧
      (a.fn = 3 → new = if m.toInt < b.toInt then m else b) ∧ (a.fn = 4 → new = if m.toInt < b.toInt then b else m) ∧
      (a.fn = 5 → new = m &&& b) ∧ (a.fn = 6 → new = m ||| b) ∧ (a.fn = 7 → new = m ^^^ b) ∧
      (a.fn = 8 → n = 4 → new.toNat =
        (fmtF32.finish (addVal (fmtF32.decode m.toNat) (fmtF32.decode b.toNat) 0) 0 0 0).1) ∧
      ((∀ x, soils x → ¬ (key ≤ x ∧ x < key + n)) → rdNat t.mem key n = new.toNat) ∧
      ∀ x, ¬ (key ≤ x ∧ x < key + n) → ¬ soils x → rdByte t.mem x = rdByte s.mem x)

/-- R129, R204 (Table 4.3): fence.acq completes when every earlier load is performed, fence.rel and fence.sc when also every earlier
store in their scope is visible; until then they stall. A fence changes nothing. What earlier fence.rel that loads have passed
still order must be over too: that is the model's choice (log entry 124). R130, R131: fence.d completes when every earlier load
of the L-stream is performed, or every earlier store of the S-stream in its scope is visible; an lfence stalls nothing and
pushes when every earlier store of the S-stream is visible and its queue has room, and until it has room its stream stalls
(R24): that this late push is owed, and stalls its stream, is the model's choice (log entry 14). The pop of fence.d comes first,
then its wait, then its push (R23). A stream that stalls on a fence issues it again at FENCE_COMPLETE: the model's choice (log
entry 16); so is it that a C-stream that stalls on a fence.rel may pass it and go on with loads (log entry 124). -/
def Obligations.Fences : Prop :=
  (∀ (s : State) (scope : BitVec 3),
    let loads := ∀ r ∈ (s.core s.me).cReads, r.value.isSome = true
    let stores := (∀ e ∈ (s.core s.me).cStores, s.storeIn s.me scope e = false) ∧
      ∀ f ∈ (s.core s.me).rels, (s.core s.me).accNo < f.2 ∨ s.relOver s.me f = true
    (loads → Does (.fenceAcq scope) s s) ∧ (¬ loads → Stalls (.fenceAcq scope) s s .fence) ∧
    (loads → stores → Does (.fenceRel scope) s s ∧ Does (.fenceSc scope) s s) ∧
    (¬ (loads ∧ stores) → Stalls (.fenceRel scope) s s (.rel scope) ∧ Stalls (.fenceSc scope) s s .fence)) ∧
  (∀ (s : State) (scope : BitVec 3) (tok : Tok) (n : Nat) (push : BitVec 2) (pc : VAddr) (x : Stall),
    let k := s.core s.me
    let loads := ∀ r ∈ k.lReads, r.value.isSome = true
    let stores := ∀ e ∈ k.sStores, s.storeIn s.me scope e = false
    let q := s.seq s.me s.st
    let src := tokOther s.st tok.pop
    let ready := (s.st = .l ∧ loads) ∨ (s.st = .s ∧ stores) ∨ q.met = true
    let room := k.tokRoom s.st tok.push
    let begun (u : State) : Prop :=
      (ready → room = true → DoesTok (.fenceD scope tok) { tok with pop := 0 } false s u) ∧
      (ready → room = false → Stalls (.fenceD scope tok) s (u.modSeq s.me s.st fun q => { q with met := true })
        (.token s.st.num (tokOther s.st tok.push))) ∧
      (¬ ready → Stalls (.fenceD scope tok) s u .fence)
    ((s.st = .l ∨ s.st = .s) →
      (tok.pop = 0 ∨ q.popped ≠ none → begun s) ∧
      (tok.pop ≠ 0 → q.popped = none → ∀ v l, k.tq src s.st.num = v :: l → s.popWait s.me src s.st.num = none →
        begun ((s.modCore s.me fun k => k.setTq src s.st.num l).modSeq s.me s.st fun q => { q with popped := some (src, v) })) ∧
      (∀ w, tok.pop ≠ 0 → q.popped = none → s.popWait s.me src s.st.num = some w → Stalls (.fenceD scope tok) s s w)) ∧
    (s.tokWait tok false = none → k.sStores = [] → DoesTok (.lfence tok) tok false s s) ∧
    (s.tokWait tok true = none → k.sStores ≠ [] → DoesTok (.lfence tok) tok true s
      (s.modCore s.me fun k => { k with lfences := k.lfences ++ [(k.accNo, tok.push, s.pc)] })) ∧
    (k.lfences[s.about.k]? = some (n, push, pc) →
      ((∀ e ∈ k.sStores, n ≤ e.no) → k.tokRoom .s push = true → Gives .lfenceComplete s
        (s.modCore s.me fun k => { k.pushLate .s push pc n with lfences := k.lfences.eraseIdx s.about.k })) ∧
      ((∀ e ∈ k.sStores, n ≤ e.no) → k.tokRoom .s push = false → Gives .lfenceComplete s
        (s.modCore s.me fun k => k.owe .s push pc)) ∧
      ((∃ e ∈ k.sStores, e.no < n) → Gives .lfenceComplete s s)) ∧
    (q.stall = some x → x.why = .fence → Gives .fenceComplete s { s with agenda := .issue s.about.core s.st :: s.agenda }) ∧
    (q.stall = some x → x.why = .rel scope →
      (s.about.yes = false → Gives .fenceComplete s { s with agenda := .issue s.about.core s.st :: s.agenda }) ∧
      (s.about.yes = true → s.st = .c → s.mayIssue s.me .c = true → s.safeStop s.me .c = none →
        ∃ t, Does .fenceComplete s t ∧ (t.core s.me).rels = (k.rels.filter fun f => !s.relOver s.me f) ++ [(scope, k.accNo)] ∧
          { t.core s.me with rels := k.rels } = k ∧ s.SameOutside t s.me)))

/-! ### Control and status registers, system instructions, traps, steps -/

/-- R205, R206 (Table 6.11): csrr reads every register of the table, zero-extended; one that needs P1 raises PRIV from P0, and a
number that the table lacks raises ILLEGAL_OP. The model's choices: SLOTMAP reads as the value written though it is not yet in
force (log entry 24), and VSTAT waits for every A-stream instruction that has issued (R61; log entry 33). -/
def Obligations.CsrReads : Prop :=
  ∀ (s : State) (d : BitVec 5) (n : BitVec 12),
    let c := s.me
    let k := s.core c
    let p0 : List (BitVec 12 × X64) :=
      [(0x000, zx k.vt), (0x001, zx k.vrot), (0x002, zx k.prot), (0x003, zx k.reps.word), (0x004, zx k.vstat), (0x005, zx k.mcfg),
       (0x010, zx (s.corexy c)), (0x011, zx k.grpshape), (0x012, s.gscOf c), (0x013, zx (s.ctxidOf c)),
       (0x014, k.slotmapNext.getD k.slotmap), (0x015, zx s.layeravail), (0x016, zx (s.ctx (s.slotOf c)).dbgctl),
       (0x040, zx s.mgmtStatus)]
    let p1 : List (BitVec 12 × X64) :=
      [(0x020, zx k.tcause), (0x021, zx k.tpc), (0x022, zx k.tstream), (0x030, zx s.hub.ageiv), (0x031, zx (vget s.hub.budget 0 0)),
       (0x032, zx (vget s.hub.budget 1 0)), (0x033, zx (vget s.hub.budget 2 0)), (0x034, zx (vget s.hub.budget 3 0))]
    (∀ v, (n, v) ∈ p0 → (n = 0x004 → k.aPend = [] ∧ k.mmas = []) → Does (.csrr d n) s (s.setX d v)) ∧
    (∀ v, (n, v) ∈ p1 → s.isP1 c = true → Does (.csrr d n) s (s.setX d v)) ∧
    (∀ v, (n, v) ∈ p1 → s.isP1 c = false →
      Traps (.csrr d n) s { cause := cPRIV, addr := n.setWidth 64, detail := s.word.setWidth 64 }) ∧
    ((∀ v, (n, v) ∉ p0 ∧ (n, v) ∉ p1) → Traps (.csrr d n) s (s.illegal false)) ∧
    (n = 0x004 → ¬ (k.aPend = [] ∧ k.mmas = []) → Stalls (.csrr d n) s s .other)

/-- R61, R88, R205, R339 (Tables 6.11, 6.12): csrw writes VSTAT by W1C (a flag that the A-stream has set in the same cycle stays
set), SLOTMAP of every member column of the writer's group, DBGCTL and AGEIV; the other numbers have no effect, BUDGET0 to
BUDGET3 raise PRIV from every core, and P0 may write only where the table lets it. A written SLOTMAP holds from the first frame
boundary after its cycle on. -/
def Obligations.CsrWrites : Prop :=
  ∀ (s : State) (ra : BitVec 5) (n : BitVec 12),
    let c := s.me
    let v := s.x ra
    let priv : Trap := { cause := cPRIV, addr := n.setWidth 64, detail := s.word.setWidth 64 }
    let free : List (BitVec 12) := [0x000, 0x001, 0x002, 0x003, 0x005, 0x010, 0x011, 0x012, 0x013, 0x015, 0x040]
    let p1 : List (BitVec 12) := [0x014, 0x016, 0x020, 0x021, 0x022, 0x030]
    (n ∈ free → Does (.csrw ra n) s s) ∧
    Does (.csrw ra 0x004) s (s.modCore c fun k => { k with vstat := (k.vstat &&& ~~~ fld v 0 5) ||| k.vstatNow }) ∧
    (n ∈ p1 → s.isP1 c = false → Traps (.csrw ra n) s priv) ∧
    (n ∈ ([0x031, 0x032, 0x033, 0x034] : List (BitVec 12)) → Traps (.csrw ra n) s priv) ∧
    (s.isP1 c = true →
      Does (.csrw ra 0x016) s (s.modCtx (s.slotOf c) fun k => { k with dbgctl := fld v 0 1 }) ∧
      Does (.csrw ra 0x030) s { s with hub := { s.hub with ageiv := fld v 0 32 } } ∧
      Does (.csrw ra 0x020) s s ∧ Does (.csrw ra 0x021) s s ∧ Does (.csrw ra 0x022) s s ∧
      Does (.csrw ra 0x014) s (s.writeSlotmap c v) ∧
      ∀ e ∈ s.cores, ∀ t, (s.core c).task = some t → e.2.task = some t → ∃ k, (e.1, k) ∈ (s.writeSlotmap c v).cores ∧
        k.slotmap = e.2.slotmap ∧ k.slotmapAt = s.cycle ∧ ∃ m : X64, k.slotmapNext = some m ∧
          ∀ i, i < 16 → fld m (4 * i) 4 = if (fld v (4 * i) 4).toNat ≤ 9 then fld v (4 * i) 4 else 0#4) ∧
    (∀ m, (s.core c).slotmapNext = some m →
      (s.cycle % 8 = 0 ∧ (s.core c).slotmapAt < s.cycle →
        Gives .slotmapTakesEffect s (s.modCore c fun k => { k with slotmap := m, slotmapNext := none })) ∧
      (s.cycle % 8 ≠ 0 ∨ s.cycle ≤ (s.core c).slotmapAt → Gives .slotmapTakesEffect s s))

/-- R150, R189, R207, R208: trap raises DEBUG with 1 and n in its detail; dbgbrk raises DEBUG only when DBGCTL.EN is 1; nop does
nothing; halt needs P1 and eret a handler task; texit, halt, eret and trap in a delay slot raise ILLEGAL_OP; texit and halt stop
every stream of the member, which ends when nothing that it issued is under way; the core that halts leaves the set of usable
cores when its task ends (R355). -/
def Obligations.SystemInstructions : Prop :=
  ∀ (s : State) (n : BitVec 8),
    let en := (s.ctx (s.slotOf s.me)).dbgctl
    let stopped := s.modCore s.me Core.stopAll
    let priv : Trap := { cause := cPRIV, detail := s.word.setWidth 64 }
    Does .nop s s ∧
    (en = 0 → Does .dbgbrk s s) ∧ (en = 1 → Traps .dbgbrk s { cause := cDEBUG }) ∧
    (s.inSlot = true → Traps (.trap n) s (s.illegal false) ∧ Traps .texit s (s.illegal false) ∧ Traps .halt s (s.illegal false) ∧
      Traps .eret s (s.illegal false)) ∧
    (s.inSlot = false →
      Traps (.trap n) s { cause := cDEBUG, detail := BitVec.ofNat 64 (1 + 256 * n.toNat) } ∧
      Gives .texit s (stopped.endMember s.me) ∧
      (s.isP1 s.me = false → Traps .halt s priv) ∧
      (s.isP1 s.me = true → ∀ tn, (s.core s.me).task = some tn → (s.about.core, tn) ∉ s.outWhenIdle →
        Gives .halt s ({ stopped with outWhenIdle := (s.about.core, tn) :: s.outWhenIdle }.endMember s.me)) ∧
      (s.isP1 s.me = true → (s.core s.me).task = none → Gives .halt s (stopped.endMember s.me)) ∧
      ((s.taskOf s.me).bind (·.handler) = none → Traps .eret s priv)) ∧
    (∀ st : Stream, (stopped.seq s.me st).stopped = true ∧ (stopped.seq s.me st).stall = none)

/-- R207, R322, R406: eret ends its handler task once nothing of the task is under way; until then the task's streams are stopped
and it waits. R322, R323: a member whose streams have stopped and of which nothing is under way has ended, and nothing else
changes while another one has neither ended nor arrived at a GSYNC (R343); the task ends with its last member, and its cores
return to dispatch. -/
def Obligations.EndsAndReturns : Prop :=
  (∀ (s : State) (tn : Nat) (slot : Slot) (rid : Nat),
    s.inSlot = false → (s.core s.me).task = some tn → (s.taskOf s.me).bind (·.handler) = some (slot, rid) →
    (s.members.all s.spent = true → ∃ t, Gives .eret s t ∧ look tn t.tasks = none) ∧
    (s.members.all s.spent = false → ∃ t, Gives .eret s t ∧ (t.seq s.me s.st).pc = (s.seq s.me s.st).pc)) ∧
  (∀ (s : State) (c tn : Nat) (x : Task),
    (s.core c).task = some tn → look tn s.tasks = some x → x.st = .running → x.wire = false → (s.core c).ended = false →
    (s.core c).allStopped = true → s.spent c = true →
    ((∃ e ∈ s.cores, e.1 ≠ c ∧ look e.1 s.cores = some e.2 ∧ e.2.task = some tn ∧ e.2.ended = false ∧ e.2.gsyncIn = false) →
      s.endMember c = s.modCore c fun k => { k with ended := true }) ∧
    ((∀ n ∈ s.coresOf tn, n ≠ c → (s.core n).ended = true) →
      look tn (s.endMember c).tasks = none ∧ ((s.endMember c).core c).task = none))

/-- R192: iinv waits as fence.rel.pkg; then every register, of all four streams of its core, that is READY or FETCHING and has a
line of its target buffer in the range becomes STALE. A length of 0 changes nothing, and one of 2^32 or more covers every
address. R149: a word that is no instruction of its stream raises ILLEGAL_OP, with the word in DETAIL. -/
def Obligations.IinvAndIllegalWords : Prop :=
  (∀ (s : State) (ra rb : BitVec 5),
    let start := (s.x ra).toNat % 2 ^ 56
    let n := (s.x rb).toNat
    let line (j : Steer) := 64 * (j.target.toNat / 64)
    let hit (j : Steer) : Prop := (j.st = .ready ∨ j.st = .fetching) ∧
      (2 ^ 32 ≤ n ∨ (line j < start + n ∧ start < line j + 256))
    (s.fenceRel 3 = false → Stalls (.iinv ra rb) s s .fence) ∧
    (s.fenceRel 3 = true → n = 0 → Does (.iinv ra rb) s s) ∧
    (s.fenceRel 3 = true → n ≠ 0 → ∃ t, Does (.iinv ra rb) s t ∧
      { t with cores := s.cores } = s ∧ (∀ c, c ≠ s.me → t.core c = s.core c) ∧
      { t.core s.me with seqs := (s.core s.me).seqs } = s.core s.me ∧
      ∀ (st : Stream) (i : Nat), i < 12 →
        let j := s.steer s.me st i
        (hit j → t.steer s.me st i = { j with st := .stale }) ∧ (¬ hit j → t.steer s.me st i = j))) ∧
  (∀ (s : State) (w : IWord), s.fetch s.me s.st = .word w → s.mayIssue s.me s.st = true →
    (decode s.st w = none → Gives .illegalOp s
      ({ s with word := w }.raise s.me s.st { cause := cILLEGAL_OP, detail := w.setWidth 64 })) ∧
    (decode s.st w ≠ none → Gives .illegalOp s s))

/-- R206, R207, R210, R340, R341, R405: taking a trap. TCAUSE, TPC and TSTREAM take its cause, the address of its instruction and
its stream; nothing else of any core changes but the end of the stream's stall; the group of the task freezes; and a record with
the cause, the stream, the core, the address, ADDR, DETAIL and the Pending target is posted, or held until it can be. A token
that the instruction has popped while it stalled is at the head of its queue again (R9). -/
def Obligations.TakingATrap : Prop :=
  ∀ (s : State) (t : Trap) (tn : Nat) (x : Task), (s.core s.me).task = some tn → look tn s.tasks = some x →
    let u := s.raise s.me s.st t
    let k := (s.core s.me).unpop s.st
    let l := u.core s.me
    let slot := x.ctx
    ((s.seq s.me s.st).popped = none → k = { s.core s.me with seqs := k.seqs }) ∧
    (∀ src v, (s.seq s.me s.st).popped = some (src, v) → 4 * src + s.st.num < 16 →
      k.tq src s.st.num = v :: (s.core s.me).tq src s.st.num) ∧
    (∀ st, k.seq st = if st = s.st then { s.seq s.me st with popped := none, met := false } else s.seq s.me st) ∧
    l.tcause = t.cause ∧ l.tpc = s.pc ∧ l.tstream = BitVec.ofNat 2 s.st.num ∧
    { l with tcause := k.tcause, tpc := k.tpc, tstream := k.tstream, seqs := k.seqs } = k ∧
    (∀ st, l.seq st = if st = s.st then { k.seq st with stall := none } else k.seq st) ∧
    (∀ c, c ≠ s.me → u.core c = s.core c) ∧
    (∃ y, look tn u.tasks = some y ∧ y.wire = true ∧ y.frozen ≠ []) ∧
    ∃ r : TrapRec, r.cause = t.cause ∧ r.stream = BitVec.ofNat 2 s.st.num ∧ r.core.toNat = s.me ∧ r.tpc = s.pc ∧ r.addr = t.addr ∧
      r.detail = t.detail ∧ r.pending = (s.seq s.me s.st).pending.map (·.1) ∧ r.async = false ∧ r.nocore = false ∧
      ((∃ h ∈ (u.ctx slot).held, h.item = .trap r) ∨ ∃ p ∈ (u.ctx slot).posted, p.item = .trap r)

/-- R148, R149, R176: A STEP RUNS THE DECODED INSTRUCTION. When the next move is a stream that may issue and does not stop at a safe
point, and the word that it fetches decodes to an instruction whose operands are ready, the step is that instruction's
execution; one whose operands are not ready waits, and its wait is no stall; a word that does not decode executes as ILLEGAL_OP.
When the next move is an event that can occur, the step is that event. -/
def Obligations.StepRunsDecoded : Prop :=
  ∀ (s : State) (rest : List Move),
    (∀ (c : CoreId) (st : Stream) (w : IWord),
      let a : State := { s with agenda := rest, fresh := s.fresh + 1, about := { core := c, stream := st } }
      let b : State := { (a.fillFetch c.toNat (a.seq c.toNat st).pc).keepLine c.toNat st with word := w }
      s.agenda = .issue c st :: rest → a.mayIssue c.toNat st = true → a.safeStop c.toNat st = none → a.fetch c.toNat st = .word w →
      (∀ i, decode st w = some i → (b.core c.toNat).readyFor st i = true → step s = exec i b) ∧
      (∀ i, decode st w = some i → (b.core c.toNat).readyFor st i = false →
        step s = .next (b.modSeq c.toNat st fun q => { q with stall := none })) ∧
      (decode st w = none → step s = exec .illegalOp b)) ∧
    (∀ (i : Instr) (a : About), s.agenda = .event i a :: rest → (s.hub.ready = true ∨ actsUnready i = true) →
      step s = exec i { s with agenda := rest, fresh := s.fresh + 1, about := a })

/-! ### Data streams -/

/-- R215 to R224: ldv, ldvd, ldvg and ldsc issue when their tokens are there, no mark and no other load holds them back and their
address passes its checks: one read of 448 bytes, of 64 words of a direction, of the 56 words that an index row names, or of 64
bytes for the scale queue. A payload replaces the address register first. ldsc stalls on a full scale queue. R216, R219, R220:
which words a directed access and a gather reach. Direction 0 steps by 8 bytes from a multiple of 512, direction 1 by 512 bytes
from a multiple of 8 whose bits [14:9] are 0; both, and a gather, reach the issuing core's own L0 only. -/
def Obligations.RowLoads : Prop :=
  (∀ (s : State) (v vi : BitVec 6) (a : BitVec 4) (imm : BitVec 12) (dir : BitVec 1) (imm11 : BitVec 11) (tok : Tok) (key : Nat)
    (ps : List (Nat × Nat)) (t : Trap),
    let p := s.aOf a (s.payload tok)
    let o : Int := offOf p + 64 * imm.toInt
    let loads (i : Instr) (dst : ReadDst) (ps : List (Nat × Nat)) : Prop :=
      DoesTok i tok true s ((s.keepA a (s.payload tok)).issueL { dst := dst, pieces := ps, push := tok.push })
    s.tokWait tok true = none →
    (s.lHold = none →
      (s.place s.me p o 448 64 = .ok key → loads (.ldv v a imm tok) (.row v) [(key, 448)]) ∧
      (s.place s.me p o 448 64 = .error t → Traps (.ldv v a imm tok) s t) ∧
      (s.dirWords p (offOf p + 64 * imm11.toInt) dir = .ok ps → loads (.ldvd v a dir imm11 tok) (.rowWords v) ps) ∧
      (s.gather p vi = .ok ps → loads (.ldvg v a vi tok) (.row v) ps) ∧
      ((s.core s.me).scaleCount < 16 → s.place s.me p o 64 64 = .ok key → loads (.ldsc a imm tok) .scale [(key, 64)])) ∧
    (16 ≤ (s.core s.me).scaleCount → Stalls (.ldsc a imm tok) s s .scaleFull)) ∧
  (∀ (s : State) (p : PlaceAddr) (o : Int) (dir : BitVec 1) (lv col : Nat),
    let step := if dir = 0 then 8 else 512
    let aligned := if dir = 0 then o % 512 = 0 else o % 8 = 0 ∧ o / 512 % 64 = 0
    (aligned → s.placeCheck s.me p o (step * 63 + 8) true = .ok (lv, col) →
      ∃ ps, s.dirWords p o dir = .ok ps ∧ ps.length = 64 ∧ ∀ k, k < 64 → ps[k]? = some (keyL0 col (o.toNat + step * k), 8)) ∧
    (¬ aligned → s.dirWords p o dir = .error { cause := cMISALIGN, addr := placeRec p o }) ∧
    (s.placeCheck s.me p o (step * 63 + 8) true = .ok (lv, col) → lvOf p = 0 ∧ dxOf p = 0 ∧ dyOf p = 0))

/-- R213, R218, R222, R232: a row load of the own column takes its bytes from memory as it issues, and writes its row when its data
return; the row's byte k is the byte at its address plus k, when this cycle has written none of them (R79). A read of the row in
that cycle returns the row from before. R103, R104, R117, R120, R222: an access that crosses the mesh goes on. The flit of a
read reaches its target, and the read is performed there, when no earlier flit of its column to that target is under way and no
store waits there; a store's flit enters the queue of its target when none is. A read of the C-stream is injected first, when
its order allows it. A store that does not cross the mesh is marked as arrived. No byte of memory changes. -/
def Obligations.RowsArrive : Prop :=
  (∀ (s : State) (v : BitVec 6) (key : Nat) (push : BitVec 2),
    let k := s.core s.me
    let r : Read := { dst := .row v, pieces := [(key, 448)], push := push }
    let u := s.issueL r
    k.lReads = [] → farKey s.me key = false → (∀ a, key ≤ a → a < key + 448 → s.poolHole a = false) → poisonIn s key 448 = none →
    k.tokRoom .l push = true →
    (∀ b ∈ s.l0Then, ¬ (key ≤ b.1 ∧ b.1 < key + 448)) →
    ∃ r', (u.core s.me).lReads = [r'] ∧ r'.value = some (rdNat s.mem key 448) ∧ (u.core s.me).rows = k.rows ∧ s.SameBytes u ∧
      ∃ t, Gives .readDataReturn { u with about := { s.about with stream := .l, k := r'.no, n := 0 } } t ∧
        (t.core s.me).lReads = [] ∧
        (∀ w : Nat, w < 64 → w ≠ v.toNat → vget (t.core s.me).rows w 0 = vget k.rows w 0) ∧
        (t.core s.me).rowSeen v.toNat = k.rowSeen v.toNat ∧
        ∀ i, i < 448 → fld (vget (t.core s.me).rows v.toNat 0) (8 * i) 8 = rdByte s.mem (key + i)) ∧
  (∀ (s : State) (r : Read) (f : Flit),
    let c := s.me
    let k := s.core c
    let no := s.about.k
    let at_ (isLoad : Bool) : Prop := flitIn s.mesh c s.st isLoad no = some f
    let away := s.mesh.filter (· != f)
    let arrived (l : List Store) := l.map fun (e : Store) => if e.no = no then { e with arrived := true } else e
    (s.about.isLoad = true → s.st = .l → k.lReads = [r] → r.no = no → r.value = none → at_ true →
      (s.readArrives f = true → ∃ t r', Gives .meshArrival s t ∧ (t.core c).lReads = [r'] ∧ r'.value.isSome = true ∧ r'.no = no ∧
        t.mesh = away ∧ s.SameBytes t) ∧
      (s.readArrives f = false → Gives .meshArrival s s)) ∧
    (s.about.isLoad = true → s.st = .c → k.cReads = [r] → r.no = no → r.value = none → r.remote = false → r.atom = none →
      (∀ p ∈ r.pieces, isHub p.1 = false) →
      (s.readReady c r = false → Gives .meshArrival s s) ∧
      (s.readReady c r = true → r.forwarded = false → (∃ p ∈ r.pieces, (meshTo c p.1).isSome = true) →
        (flitIn s.mesh c .c true no = none → Gives .meshArrival s (s.inject c .c true no (r.pieces.map (·.1)))) ∧
        (at_ true → s.readArrives f = false → Gives .meshArrival s s) ∧
        (at_ true → s.readArrives f = true → ∃ t r', Gives .meshArrival s t ∧ (t.core c).cReads = [r'] ∧ r'.value.isSome = true ∧
          r'.no = no ∧ t.mesh = away ∧ s.SameBytes t)) ∧
      (s.readReady c r = true → (∀ p ∈ r.pieces, meshTo c p.1 = none) →
        ∃ t r', Gives .meshArrival s t ∧ (t.core c).cReads = [r'] ∧ r'.value.isSome = true ∧ r'.no = no ∧ s.SameBytes t)) ∧
    (s.about.isLoad = false → at_ false → s.mayArrive f = true →
      Gives .meshArrival s { s with mesh := away, fifo := s.fifo ++ [f] }) ∧
    (s.about.isLoad = false → at_ false → s.mayArrive f = false → Gives .meshArrival s s) ∧
    (s.about.isLoad = false → flitIn s.mesh c s.st false no = none →
      (s.st = .s → Gives .meshArrival s (s.modCore c fun k => { k with sStores := arrived k.sStores })) ∧
      (s.st = .c → Gives .meshArrival s (s.modCore c fun k => { k with cStores := arrived k.cStores }))))

/-- R215 to R223, R225: stv, stvd, stvx and note enter the store buffer of the S-stream when their tokens are there, an entry is
free, every earlier store is to the same column and level and their address passes its checks; a row's bytes, the 56-bit words
of a row, its 64-bit words, or one word; a row that this cycle has written is stored as it was before (R212). Of the lanes that
name one word stvx stores the highest. A store of another column is injected (R103). No byte of memory changes yet. R83, R84,
R118, R223, R225: one event of the oldest store of the S-stream, of the own column or first in the queue of its target (R103),
becomes visible: the bytes of a 16-byte piece, or a raised word, and no other byte but the DIRTY byte of a slot of the pool that
it makes dirty (R391); the entry goes when its last piece has. -/
def Obligations.RowStores : Prop :=
  (∀ (s : State) (v vi : BitVec 6) (a : BitVec 4) (imm : BitVec 12) (dir : BitVec 1) (imm11 : BitVec 11) (tok : Tok) (key : Nat)
    (ps : List (Nat × Nat)) (t : Trap),
    let pay := s.payload tok
    let p := s.aOf a pay
    let row := (s.core s.me).rowSeen v.toNat
    let o : Int := offOf p + 64 * imm.toInt
    let q := s.aOf a none
    let words (w : Nat) := ps.zipIdx.map fun (e : (Nat × Nat) × Nat) => (e.1.1, natBytes (row.toNat / 2 ^ (w * e.2) % 2 ^ w) 8)
    let no := (s.core s.me).accNo
    let stores (i : Instr) (w : State) (e : Store) (ps : List (Nat × Nat)) : Prop := s.sHold e = false →
      DoesTok i tok false s ((w.modCore s.me fun k =>
        { k with sStores := k.sStores ++ [{ e with no := no, pc := s.pc, log := ps.any fun p => s.plogKey (s.slotOf s.me) p.1
                                                   full := if e.addOne then [] else ps.flatMap fun p => fullLines p.1 p.2 }]
                 accNo := no + 1 }).inject s.me .s false no (ps.map (·.1)))
    (∀ (l : List (Nat × List Byte)) (e : Nat × List Byte),
      e ∈ lastWords l ↔ ∃ i, l[i]? = some e ∧ ∀ (j : Nat) (b : Nat × List Byte), i < j → l[j]? = some b → b.1 ≠ e.1) ∧
    (s.tokWait tok false = none →
    (s.place s.me p o 448 64 = .ok key →
      stores (.stv v a imm tok) (s.keepA a pay) { pieces := [(key, natBytes row.toNat 448)] } [(key, 448)]) ∧
    (s.place s.me p o 448 64 = .error t → Traps (.stv v a imm tok) s t) ∧
    (s.dirWords p (offOf p + 64 * imm11.toInt) dir = .ok ps →
      stores (.stvd v a dir imm11 tok) (s.keepA a pay) { pieces := words 56 } ps) ∧
    (s.gather p vi = .ok ps → stores (.stvx v a vi tok) (s.keepA a pay) { pieces := lastWords (words 64) } ps) ∧
    (s.place s.me q (offOf q + 8 * imm.toInt) 8 8 = .ok key →
      stores (.note a imm tok) s
        { pieces := [(key, natBytes ((pay.map (·.toNat)).getD 0) 8)], addOne := pay.isNone, note := true } [(key, 8)]))) ∧
  (∀ (s : State) (e : Store) (rest : List Store) (n : Nat) (key : Nat) (bs : List Byte),
    let k := s.core s.me
    let left := e.events.eraseIdx n
    let soils (a : Nat) := ∃ x ∈ s.pool, x.2.soils key = true ∧ a = s.poolEntry x.1 + 26
    s.MemWf → s.st = .s → s.about.n = n → s.about.rid ≠ 2 → s.about.isLoad = false → k.sStores = e :: rest →
    e.events[n]? = some (key, bs) → e.log = false →
    ((∀ p ∈ e.pieces, farKey s.me p.1 = false) ∨
      (∃ p ∈ e.pieces, (meshTo s.me p.1).isSome = true) ∧ ∃ f, flitIn s.fifo s.me .s false e.no = some f ∧ s.mayEnter f = true) →
    (s.ctx (s.slotOf s.me)).held = [] →
    ∃ t, Gives .storeVisible s t ∧ (t.core s.me).rows = k.rows ∧
      (t.core s.me).sStores = (if left = [] then rest else
        { e with pieces := left, full := e.full.filter fun x => left.any fun q => q.1 / 64 == x } :: rest) ∧
      (∀ a, soils a → rdByte t.mem a = 1) ∧
      (e.addOne = false → ∀ a, ¬ soils a →
        rdByte t.mem a = if key ≤ a ∧ a < key + bs.length then bs.getD (a - key) 0 else rdByte s.mem a) ∧
      (e.addOne = true →
        ((∀ a, soils a → ¬ (key ≤ a ∧ a < key + 8)) → (∀ a, key ≤ a → a < key + 8 → s.poolHole a = false) →
          rdNat t.mem key 8 = (rdNat s.mem key 8 + 1) % 2 ^ 64) ∧
        ∀ a, ¬ soils a → (a < key ∨ key + 8 ≤ a) → rdByte t.mem a = rdByte s.mem a))

/-- R217, R226: ainc adds its offset times 64 to the register's 19-bit OFFSET and keeps the other fields; waita completes when the
word at its address, which this cycle has not written (R79), has reached the payload, or, without one, is not 0, and otherwise
waits; it is an acquire load behind what its column has sent to the word's (R103, R104), and its push stalls on a full queue
once the word is there, its pop undone until then: these two are the model's choice (log entries 119 and 105). R134, R227: a
mark counts its number down in the L-stream and up in the S-stream, within −15 and 15, and stalls beyond; a mark of the L-stream
that has no mark of the S-stream to pair with holds the stream's loads back. -/
def Obligations.AddressWaitMarks : Prop :=
  (∀ (s : State) (a : BitVec 4) (imm limit : BitVec 12) (tok : Tok) (key : Nat),
    let p := s.aOf a (s.payload tok)
    let q := (s.core s.me).aReg s.st a
    let w := rdNat s.mem key 8
    let room := (s.core s.me).tokRoom s.st tok.push
    let full : Why := .token s.st.num (tokOther s.st tok.push)
    let waits : Why := .wait (256 * limit.toNat) (placeRec q (offOf q)) (BitVec.ofNat 64 (256 * limit.toNat))
    let met (u : State) := u.modSeq s.me s.st fun q => { q with met := true }
    let due : Prop := match s.payload tok with | some e => e.toNat ≤ w | none => w ≠ 0
    (s.tokWait tok false = none →
      ∃ p' : PlaceAddr, fld p' 19 13 = fld p 19 13 ∧ fld p' 0 19 = fld p 0 19 + imm.signExtend 19 * 64 ∧
      DoesTok (.ainc a imm tok) tok false s (s.modCore s.me fun k => k.setA s.st a p')) ∧
    (s.tokWait tok true = none → (s.st = .l ∨ s.st = .s) →
      ((s.seq s.me s.st).met = true → (room = true → DoesTok (.waita a limit tok) tok false s s) ∧
        (room = false → Stalls (.waita a limit tok) s (met s) full)) ∧
      ((s.seq s.me s.st).met = false → (s.st = .l → s.lHold = none) → s.place s.me q (offOf q) 8 8 = .ok key →
        (s.clearTo s.me key = false → Stalls (.waita a limit tok) s s waits) ∧
        (∀ l, s.clearTo s.me key = true → poisonIn s key 8 = some l → Traps (.waita a limit tok) s (poisonTrap s.me l true)) ∧
        (s.clearTo s.me key = true → poisonIn s key 8 = none → (∀ a, key ≤ a → a < key + 8 → s.poolHole a = false) →
          (∀ b ∈ s.l0Then, ¬ (key ≤ b.1 ∧ b.1 < key + 8)) →
          (due → room = true → DoesTok (.waita a limit tok) tok false s (s.touch key false)) ∧
          (due → room = false → Stalls (.waita a limit tok) s (met (s.touch key false)) full) ∧
          (¬ due → Stalls (.waita a limit tok) s (s.touch key false) waits))))) ∧
  (∀ (s : State) (m : BitVec 4) (tok : Tok),
    let k := s.core s.me
    let i := m.toNat
    let n := vget k.marks i 0
    s.tokWait tok false = none →
    (s.st = .l → -15 < n → ∃ t, DoesTok (.mark m tok) tok false s t ∧ vget (t.core s.me).marks i 0 = n - 1 ∧
      (∀ j, j < 16 → j ≠ i → vget (t.core s.me).marks j 0 = vget k.marks j 0) ∧
      (vget k.markS i [] = [] → (t.core s.me).markOpen = k.markOpen ++ [i]) ∧
      (∀ b l, vget k.markS i [] = b :: l → (t.core s.me).markWait = k.markWait ++ [(i, b)])) ∧
    (s.st = .s → n < 15 → ∃ t, DoesTok (.mark m tok) tok false s t ∧ vget (t.core s.me).marks i 0 = n + 1 ∧
      (∀ j, j < 16 → j ≠ i → vget (t.core s.me).marks j 0 = vget k.marks j 0) ∧
      (i ∈ k.markOpen → (t.core s.me).markOpen = k.markOpen.erase i)) ∧
    (s.st = .l → n ≤ -15 → Stalls (.mark m tok) s s (.mark i)) ∧
    (s.st = .s → 15 ≤ n → Stalls (.mark m tok) s s (.mark i)))

/-- R24, R25, R134, R224, R226, R270, R343, R368, R413, R437: a stall that has lasted as long as its limit allows raises its trap at
the stalled instruction: TOKEN_STALL with the queue's streams, with the mark's number or for the scale queue; WAIT_LIMIT of a
wait; LINK_TIMEOUT of a capped session. One that has not, one whose cause has gone, and every one of a group that is frozen or
does not run, goes on. The stall of a push that an instruction makes after it has issued traps at that instruction, and its push
waits on: that is the model's choice (log entry 14). R12, R209, R340, R462: a stream of a frozen group executes nothing; before
READY no stream executes anything and no event occurs but those of the management controller, the security processor and the
host's port. -/
def Obligations.StallsAndFreezes : Prop :=
  (∀ (s : State) (src dst m n cycles : Nat) (node : Node) (va addr detail : X64) (d : Due),
    let limit := s.stallLimit s.me
    let q := s.seq s.me s.st
    let runs := s.counts (s.core s.me)
    let stalled (w : Why) : Prop := q.stall = some { why := w, cycles := cycles }
    let raises (i : Instr) (t : Trap) : Prop := Gives i s (s.raise s.me s.st t)
    let stall (d : Nat) : Trap := { cause := cTOKEN_STALL, detail := BitVec.ofNat 64 d }
    let waited : Trap := { cause := cWAIT_LIMIT, addr := addr, detail := detail }
    (runs = true → limit ≤ cycles →
      (q.due = [] → s.tokenGo s.me s.st (.token src dst) = false → stalled (.token src dst) →
        raises .tokenStall (stall (src + 4 * dst))) ∧
      (s.stands s.me s.st (.mark m) = true → stalled (.mark m) → raises .markStallLimit (stall (1 + 4 * 3 + 16 + 256 * m))) ∧
      (16 ≤ (s.core s.me).scaleCount → stalled .scaleFull → raises .scaleQueueFullLimit (stall (1 + 4 * 2 + 32))) ∧
      (stalled .scaleShort →
        let need := (if isMx (s.core s.me).fmtA.toNat then 4 else 0) + (if isMx (s.core s.me).wAct.fmt.toNat then 8 else 0)
        ((s.core s.me).scales.length < need → raises .shortScaleQueueLimit (stall (1 + 4 * 2 + 32))) ∧
        (need ≤ (s.core s.me).scales.length → Gives .shortScaleQueueLimit s s)) ∧
      (stalled (.serialCap node va) → raises .serialCapStallLimit
        { cause := cLINK_TIMEOUT, addr := va, detail := BitVec.ofNat 64 (node.toNat * 2 ^ 32 + 5 * 2 ^ 44) }) ∧
      (s.st = .c → stalled .gsync → Gives .gsyncWaitLimit s
        ((s.modCore s.me fun k => { k with gsyncIn := false }).raise s.me .c
          { cause := cWAIT_LIMIT, detail := BitVec.ofNat 64 limit }))) ∧
    (runs = true → q.due = [d] → (s.core s.me).allStopped = false → (s.core s.me).tqFull s.st.num d.dst = true → limit ≤ d.cycles → Gives .tokenStall s
      ((s.modSeq s.me s.st fun q => { q with due := [{ d with cycles := 0 }] }).raiseAt s.me s.st d.pc none
        (stall (s.st.num + 4 * d.dst)))) ∧
    (runs = false ∨ cycles < limit →
      (q.due = [] → stalled (.token src dst) → Gives .tokenStall s s) ∧ (stalled (.mark m) → Gives .markStallLimit s s) ∧
      (stalled .scaleFull → Gives .scaleQueueFullLimit s s) ∧ (stalled .scaleShort → Gives .shortScaleQueueLimit s s) ∧
      (stalled (.serialCap node va) → Gives .serialCapStallLimit s s) ∧ (s.st = .c → stalled .gsync → Gives .gsyncWaitLimit s s)) ∧
    (stalled (.wait n addr detail) →
      (runs = true → n ≤ cycles → s.st = .c → raises .objectWaitLimit waited ∧ raises .ckwaitWaitLimit waited) ∧
      (runs = true → n ≤ cycles → s.st = .l ∨ s.st = .s → raises .waitaWaitLimit waited) ∧
      (runs = false ∨ cycles < n → Gives .objectWaitLimit s s ∧ Gives .ckwaitWaitLimit s s ∧ Gives .waitaWaitLimit s s))) ∧
  (∀ (s : State) (rest : List Move) (c : CoreId) (st : Stream),
    let a : State := { s with agenda := rest, fresh := s.fresh + 1, about := { core := c, stream := st } }
    s.agenda = .issue c st :: rest →
    (∀ x, s.taskOf c.toNat = some x → x.wire = true → step s = .next a) ∧
    (s.hub.ready = false → step s = .next a) ∧
    (∀ (i : Instr) (b : About), s.hub.ready = false → actsUnready i = false →
      step { s with agenda := .event i b :: rest } = .next { s with agenda := rest, fresh := s.fresh + 1 }))

/-! ### Vectors -/

/-- R235, R238, R247 to R249, R256: the vector instructions on integers and bits, lane by lane: the lanes of va and vb, in the
integer view or as bits, give the lane of vd. Multiplications and packed pixels write in their write cycle, the others at issue. -/
def Obligations.VectorIntegers : Prop :=
  ∀ (s : State) (f : V3) (g : V2) (h : VI) (x : VF),
    let k := s.core s.me
    let w := k.w
    let n := lanesIn w
    let go (tok : Tok) (lat : Nat) : Prop := s.tokWait tok (decide (1 < lat)) = none
    let in3 (i : Instr) (lat : Nat) (v : Nat → Nat × Flags) := go f.tok lat → RowOf i f.tok lat f.t f.vd w n (active (k.pred f.p) w) v s
    let in2 (i : Instr) (v : Nat → Nat × Flags) := go g.tok 1 → RowOf i g.tok 1 g.t g.vd w n (active (k.pred g.p) w) v s
    let inI (i : Instr) (v : Nat → Nat × Flags) := go h.tok 1 → RowOf i h.tok 1 h.t h.vd w n (active (k.pred h.p) w) v s
    let a (l : Nat) := lane (k.vrow f.va) w l
    let b (l : Nat) := lane (k.vrow f.vb) w l
    let ia (l : Nat) := intOf k.signed w (a l)
    let ib (l : Nat) := intOf k.signed w (b l)
    let id (l : Nat) := intOf k.signed w (lane (k.vrow f.vd) w l)
    let mod (v : Int) : Nat × Flags := ((v % 2 ^ w).toNat, 0)
    let sat (v : Int) : Nat × Flags :=
      (wrapTo w (if v < k.lo then k.lo else if k.hi < v then k.hi else v), if v < k.lo ∨ k.hi < v then fSI else 0)
    let bits (v : Nat) : Nat × Flags := (v, 0)
    let m (l : Nat) := Nat.min (b l) w
    let c (l : Nat) := lane (k.vrow g.va) w l
    let e (l : Nat) := lane (k.vrow h.va) w l
    let px := 10 + 2 * (x.fmt.toNat - 25)
    let y := lane (k.vrow x.va)
    in3 (.vadd f) 1 (fun l => mod (ia l + ib l)) ∧ in3 (.vsub f) 1 (fun l => mod (ia l - ib l)) ∧
    in3 (.vadds f) 1 (fun l => sat (ia l + ib l)) ∧ in3 (.vsubs f) 1 (fun l => sat (ia l - ib l)) ∧
    in3 (.vavg f) 1 (fun l => mod ((ia l + ib l + 1) / 2)) ∧ in3 (.vmul f) 2 (fun l => mod (ia l * ib l)) ∧
    in3 (.vmulh f) 2 (fun l => mod (ia l * ib l / 2 ^ w)) ∧
    in3 (.vmulq f) 2 (fun l => sat ((ia l * ib l + 2 ^ (w - 2)) / 2 ^ (w - 1))) ∧
    in3 (.vmac f) 2 (fun l => mod (id l + ia l * ib l)) ∧ in3 (.vabd f) 1 (fun l => mod (ia l - ib l).natAbs) ∧
    in3 (.vmin f) 1 (fun l => mod (if ia l ≤ ib l then ia l else ib l)) ∧
    in3 (.vmax f) 1 (fun l => mod (if ia l ≤ ib l then ib l else ia l)) ∧
    in3 (.vshl f) 1 (fun l => bits (a l * 2 ^ m l)) ∧ in3 (.vshr f) 1 (fun l => bits (a l / 2 ^ m l)) ∧
    in3 (.vsar f) 1 (fun l => mod (intOf true w (a l) / 2 ^ m l)) ∧ in3 (.vshrr f) 1 (fun l => mod (roundShift (ia l) (m l))) ∧
    in3 (.vshls f) 1 (fun l => sat (ia l * 2 ^ m l)) ∧
    in3 (.vand f) 1 (fun l => bits (a l &&& b l)) ∧ in3 (.vor f) 1 (fun l => bits (a l ||| b l)) ∧
    in3 (.vxor f) 1 (fun l => bits (a l ^^^ b l)) ∧
    (go f.tok 1 → RowOf (.vsel f) f.tok 1 f.t f.vd w n (fun _ => true) (fun l => bits (if active (k.pred f.p) w l then a l else b l)) s) ∧
    in3 (.vperm f) 1 (fun l => bits (
      if 16 ≤ w then a (b l % n) else if 16 * (l / 16) + b l % 16 < n then a (16 * (l / 16) + b l % 16) else 0)) ∧
    in3 (.vzip f) 1 (fun l => bits (if l % 2 = 0 then a (l / 2) else b (l / 2))) ∧
    in3 (.vunzip f) 1 (fun l => bits (if 2 * l < n then a (2 * l) else b (2 * l - n))) ∧
    in2 (.vabs g) (fun l => mod (intOf k.signed w (c l)).natAbs) ∧ in2 (.vnot g) (fun l => bits (2 ^ w - 1 - c l)) ∧
    in2 (.vclz g) (fun l => bits (if c l = 0 then w else w - 1 - (c l).log2)) ∧
    in2 (.vpopc g) (fun l => bits ((List.range w).countP fun j => (c l).testBit j)) ∧
    inI (.vslide h) (fun l => bits (if l + h.n.toNat < n then e (l + h.n.toNat) else 0)) ∧
    inI (.vbcast h) (fun _ => bits (e h.n.toNat)) ∧
    (25 ≤ x.fmt.toNat → x.fmt.toNat ≤ 27 → go x.tok 3 → RowOf (.pxunp x) x.tok 3 x.t x.vd 16 224 (active (k.pred x.p) 16) (fun l => bits (y px l)) s ∧
    RowOf (.pxpak x) x.tok 3 x.t x.vd px 224 (active (k.pred x.p) 16)
      (fun l => if 2 ^ px ≤ y 16 l then (2 ^ px - 1, fSI) else (y 16 l, 0)) s)

/-- R237, R250, R251, R254, R255, R257: floating-point instructions round their exact result once, with VT's mode, and a conversion
converts lane by lane; a format that VT or the instruction does not allow traps. A reduction combines the active lanes in the
pairs of PairTree into lane 0 and keeps the other lanes. -/
def Obligations.VectorFloats : Prop :=
  ∀ (s : State) (f : V3) (g : V2) (x : VF),
    let k := s.core s.me
    let w := k.w
    let n := lanesIn w
    let wd := laneBits x.fmt.toNat
    let go (tok : Tok) (lat : Nat) : Prop := s.tokWait tok (decide (1 < lat)) = none
    let in3 (i : Instr) (lat : Nat) (v : Nat → Nat × Flags) := go f.tok lat → RowOf i f.tok lat f.t f.vd w n (active (k.pred f.p) w) v s
    let in2 (i : Instr) (v : Nat → Nat × Flags) := go g.tok 1 → RowOf i g.tok 1 g.t g.vd w n (active (k.pred g.p) w) v s
    let conv (i : Instr) (n mode : Nat) (sat : Bool) := go x.tok 3 → RowOf i x.tok 3 x.t x.vd wd n (active (k.pred x.p) w)
      (fun l => convertLane (lane (k.vrow x.va) w l) k.fmt x.fmt.toNat mode (lane (k.vrow x.vd) wd l) sat) s
    let reduces (i : Instr) (id : Nat) (op : Nat × Flags → Nat × Flags → Nat × Flags) : Prop := go g.tok 8 →
      ∃ (r : Row) (v : Nat × Flags),
        DoesTok i g.tok true s (s.modCore s.me fun k =>
          k.emit s.cycle 8 false g.tok.push (s.seq s.me .a).pc { row := some (rot k.vrot g.vd.toNat, r), flags := v.2 }) ∧
        (pairTree op 10 ((List.range n).map fun l => (if active (k.pred g.p) w l then lane (k.vrow g.va) w l else id, 0))).head?
          = some v ∧
        lane r w 0 = v.1 ∧ ∀ l, 0 < l → l < n → lane r w l = lane (k.vrow g.vd) w l
    let bad (i : Instr) (tok : Tok) (lat : Nat) : Prop := go tok lat → Traps i s (s.illegal true)
    (∀ ff, floatFmt k.fmt = some ff →
      let a (l : Nat) := lane (k.vrow f.va) w l
      let b (l : Nat) := lane (k.vrow f.vb) w l
      let c (l : Nat) := lane (k.vrow g.va) w l
      let d (l : Nat) := lane (k.vrow f.vd) w l
      let rounds (v : Val × Flags) (l : Nat) : Nat × Flags := ff.finish v k.rm (d l) (Nat.min w 16)
      let rm := if k.rm = 4 then 0 else k.rm
      in3 (.fadd f) 3 (fun l => rounds (addVal (ff.decode (a l)) (ff.decode (b l)) k.rm) l) ∧
      in3 (.fsub f) 3 (fun l => rounds (addVal (ff.decode (a l)) (negVal (ff.decode (b l))) k.rm) l) ∧
      in3 (.fmul f) 3 (fun l => rounds (mulVal (ff.decode (a l)) (ff.decode (b l))) l) ∧
      in3 (.ffma f) 3 (fun l => ff.finish (fmaVal (ff.decode (a l)) (ff.decode (b l)) (ff.decode (d l)) rm) rm 0 0) ∧
      in3 (.fmin f) 1 (fun l => (ff.minMax false (a l) (b l) % 2 ^ (1 + ff.e + ff.m), 0)) ∧
      in3 (.fmax f) 1 (fun l => (ff.minMax true (a l) (b l) % 2 ^ (1 + ff.e + ff.m), 0)) ∧
      in2 (.fabs g) (fun l => (if ff.decode (c l) = .nan then ff.canonNan else c l % 2 ^ (ff.e + ff.m), 0)) ∧
      in2 (.fneg g) (fun l =>
        (if ff.decode (c l) = .nan then ff.canonNan else c l % 2 ^ (1 + ff.e + ff.m) ^^^ 2 ^ (ff.e + ff.m), 0))) ∧
    (floatFmt k.fmt = none →
      bad (.fadd f) f.tok 3 ∧ bad (.fsub f) f.tok 3 ∧ bad (.fmul f) f.tok 3 ∧ bad (.ffma f) f.tok 3 ∧ bad (.fmin f) f.tok 1 ∧
      bad (.fmax f) f.tok 1 ∧ bad (.fabs g) g.tok 1 ∧ bad (.fneg g) g.tok 1) ∧
    (wd = w → conv (.vcvtRne x) n 0 true ∧ conv (.vcvtRz x) n 1 true ∧ conv (.vcvtRu x) n 2 true ∧ conv (.vcvtRd x) n 3 true ∧
      conv (.vcvtSr x) n 4 true ∧ bad (.vnarrow x) x.tok 3 ∧ bad (.vwiden x) x.tok 3) ∧
    (wd < w → conv (.vnarrow x) n k.rm (x.sat == 1) ∧ bad (.vcvtRne x) x.tok 3 ∧ bad (.vwiden x) x.tok 3) ∧
    (w < wd → conv (.vwiden x) (lanesIn wd) k.rm true ∧ bad (.vcvtRne x) x.tok 3 ∧ bad (.vnarrow x) x.tok 3) ∧
    reduces (.vrsum g) (sumId k) (sumOp k) ∧ reduces (.vrmax g) (extId true k) (extOp true k) ∧
    reduces (.vrmin g) (extId false k) (extOp false k)

/-- R236, R238, R252, R253, R258: compares write a bit of a predicate where every lane of the bit is active, and keep it elsewhere;
the predicate instructions combine, count and set predicates; vcmpj sets a condition half, and vtype sets VT. -/
def Obligations.PredicatesAndTypes : Prop :=
  ∀ (s : State) (f : VC) (vd : BitVec 6) (pd pa pb : BitVec 3) (m : BitVec 6) (j : BitVec 2) (fmt : BitVec 5) (rm : BitVec 3) (tok : Tok),
    let k := s.core s.me
    let w := k.w
    let n := lanesIn w
    let cmps (i : Instr) (c : Nat → Nat → Prop) := PredOf i f.tok f.pd (fun b =>
      let all := ∀ l, bitOfLane w l b → active (k.pred f.p) w l = true
      (all ∧ ∀ l, bitOfLane w l b → c (lane (k.vrow f.va) w l) (lane (k.vrow f.vb) w l)) ∨
        (¬ all ∧ (k.pred f.pd).getLsbD b = true)) s
    let a (b : Nat) : Prop := (k.pred pa).getLsbD b = true
    let act (l : Nat) : Prop := active (k.pred pa) w l = true
    s.tokWait f.tok false = none → s.tokWait tok false = none →
    cmps (.vcmp f) (fun x y => laneCond f.cc (intOf k.signed w x) (intOf k.signed w y) = true) ∧
    (∀ ff, floatFmt k.fmt = some ff → cmps (.fcmp f) (fun x y => fCond f.cc (ff.decode x) (ff.decode y) = true)) ∧
    (floatFmt k.fmt = none → Traps (.fcmp f) s (s.illegal true)) ∧
    PredOf (.pand pd pa pb tok) tok pd (fun b => a b ∧ (k.pred pb).getLsbD b = true) s ∧
    PredOf (.por pd pa pb tok) tok pd (fun b => a b ∨ (k.pred pb).getLsbD b = true) s ∧
    PredOf (.pxor pd pa pb tok) tok pd (fun b => ¬ (a b ↔ (k.pred pb).getLsbD b = true)) s ∧
    PredOf (.pnot pd pa tok) tok pd (fun b => ¬ a b) s ∧
    PredOf (.pfirst pd pa tok) tok pd (fun b => ∃ l, l < n ∧ act l ∧ (∀ q, q < l → ¬ act q) ∧ bitOfLane w l b) s ∧
    PredOf (.pset pd m tok) tok pd (fun b => m = 63 ∨ ∀ l, bitOfLane w l b → l < m.toNat) s ∧
    (∃ r : Row, DoesTok (.pcnt vd pa tok) tok false s (s.modCore s.me fun k => k.commitA false 4 { row := some (rot k.vrot vd.toNat, r) }) ∧
      lane r 32 0 = (List.range n).countP (active (k.pred pa) w) ∧ ∀ l, 0 < l → l < 112 → lane r 32 l = lane (k.vrow vd) 32 l) ∧
    DoesTok (.vcmpjAny j pa tok) tok false s
      (s.modJ j.toNat fun r => { r with cond := if (List.range n).any (active (k.pred pa) w) then .true else .false }) ∧
    DoesTok (.vcmpjAll j pa tok) tok false s
      (s.modJ j.toNat fun r => { r with cond := if (List.range n).all (active (k.pred pa) w) then .true else .false }) ∧
    ∃ v : BitVec 32, DoesTok (.vtype fmt rm tok) tok false s (s.modCore s.me fun k => { k with vt := v }) ∧
      v.toNat = fmt.toNat + 32 * rm.toNat

/-- R212, R238, R240, R241: the write of a result: at once for latency 1, into the row file, where a read of this cycle still
returns the row from before, or into the bypass network, where it is read from then on; otherwise outstanding, until
A_STREAM_WRITE makes it, with its flags, in its write cycle or later and once every older write that takes no longer has been
made. That a write whose push has no room waits is the model's choice (log entry 14), and so is a window's count of 4 executions
(log entry 22). A window that has ended goes. R165, R243 to R246: rep checks the row numbers of every repetition before it
starts, executes its target count times, one repetition at a time with its rows stepped, pops once and pushes once, and goes on
behind its target; a count of 0 moves the tokens only. -/
def Obligations.RowWritesAndRep : Prop :=
  ((∀ (k : Core) (r : Nat) (v : Row) (fl : Flags) (push : BitVec 2) (pc : VAddr) (cycle lat : Nat), r < 64 →
    let e : AEff := { row := some (r, v), flags := fl }
    let now := k.emit cycle 1 false push pc e
    let win := k.emit cycle 1 true push pc e
    let then_ (l : Core) : Core := { l with rowsThen := [], rowsNow := [] }
    now.rows = vset k.rows r v ∧ (then_ now).rowAt r = v ∧ now.vstat = k.vstat ||| fl ∧
      (∀ q, q ≠ r → (then_ now).rowAt q = (then_ k).rowAt q) ∧ (∀ q, now.rowSeen q = k.rowSeen q) ∧
    win.rows = k.rows ∧ win.rowAt r = v ∧ win.vstat = k.vstat ||| fl ∧ (∀ q, q ≠ r → win.rowAt q = k.rowAt q) ∧
    (1 < lat → k.emit cycle lat false push pc e =
      { k with aPend := k.aPend ++ [{ wr := .row r v, flags := fl, push := push, pc := pc, lat := lat, left := 4
                                      at_ := cycle, mark := k.matNo }] })) ∧
  (∀ (s : State) (p : APend) (r : Nat) (v : Row) (b : Bypass),
    let k := s.core s.me
    let j := s.about.k
    let due : Prop := p.at_ + p.lat ≤ s.cycle + 1 ∧ ∀ q ∈ k.aPend.take j, p.lat < q.lat
    (k.aPend[j]? = some p → due → k.tokRoom .a p.push = true →
      ∃ t, Gives .aStreamWrite s t ∧ (t.core s.me).vstat = k.vstat ||| p.flags ∧ (t.core s.me).aPend = k.aPend.eraseIdx j ∧
        (p.wr = .row r v → (t.core s.me).rows = vset k.rows r v) ∧
        (p.wr = .transient r v → (t.core s.me).rows = k.rows ∧ (p.left ≠ 0 → (t.core s.me).rowAt r = v)) ∧
        (t.core s.me).preds = k.preds ∧ ∀ c, c ≠ s.me → t.core c = s.core c) ∧
    (k.aPend[j]? = some p → ¬ due → Gives .aStreamWrite s s) ∧
    (k.aPend[j]? = some p → due → k.tokRoom .a p.push = false → Gives .aStreamWrite s (s.setCore s.me (k.owe .a p.push p.pc))) ∧
    (k.bypass[j]? = some b → b.left = 0 →
      Gives .transientWindowEnd s (s.modCore s.me fun k => { k with bypass := k.bypass.eraseIdx j })) ∧
    (k.bypass[j]? = some b → b.left ≠ 0 → Gives .transientWindowEnd s s))) ∧
  (∀ (s q : State) (count : BitVec 7) (sd sa sb : BitVec 2) (i : Instr) (x y : Rept) (w : IWord) (e : AEff) (n o : Nat),
    let c := s.me
    let k := s.core c
    let pc := (s.seq c .a).pc
    let rep : Instr := .rep count sd sa sb
    let r : Reps := { active := true, sd := sd, sa := sa, sb := sb, count := count }
    let rows := repRows r i
    let v := { s with about := { core := s.about.core, stream := .a } }
    let u := { v with word := w }
    let l := q.core c
    let p := l.reps
    (s.inSlot = true ∨ pc + 4 = s.sectionEnd c .a → Traps rep s (s.illegal false)) ∧
    (s.inSlot = false → pc + 4 ≠ s.sectionEnd c .a → s.repTarget c = .instr i → repOf i = some x →
      (count ≠ 0 → s.repCheck c rows count.toNat = none →
        ∃ t, Gives rep s t ∧ (t.core c).reps = r ∧ (t.seq c .a).pc = pc ∧ (t.core c).rows = k.rows ∧ (t.core c).toks = k.toks) ∧
      (count ≠ 0 → s.repCheck c rows count.toNat = some (n, o) →
        Traps rep s { cause := cREP_RANGE, detail := BitVec.ofNat 64 (n + 256 * o) }) ∧
      (count = 0 → s.tokWait x.tok false = none →
        ∃ t, Gives rep s t ∧ (t.seq c .a).pc = pc + 8 ∧ (t.core c).rows = k.rows ∧ (t.core c).reps = k.reps ∧
          (t.core c).toks = ((k.tokPop .a x.tok).tokPush .a x.tok.push k.matNo).toks)) ∧
    (s.repCheck c rows n = none ↔ ∀ j, j < n → ∀ f ∈ rows,
      let m : Int := f.1.toNat + j * stepOf f.2
      0 ≤ m ∧ m ≤ 63 ∧ s.declared c (rot k.vrot m.toNat / 32) = true) ∧
    (v.mayRepeat c = true → v.fetch c .a = .word w → u.repTarget c = .instr i → repOf i = some x → u.repPop c x.tok = .inl q →
      let i' := stepInstr p p.done.toNat i
      let wrote (t : State) : Prop := y.lat ≤ 1 → y.t = 0 → ∀ a b, e.row = some (a, b) → (t.core c).rows = vset l.rows a b
      p.popped = true ∧
      (l.aReadyFor i' = true → repOf i' = some y → y.run l = some e →
        (p.done + 1 ≠ p.count → ∃ t, Gives .repRepetition s t ∧ (t.core c).reps = { p with done := p.done + 1 } ∧
          (t.seq c .a).pc = pc ∧ wrote t) ∧
        (p.done + 1 = p.count → (y.lat ≤ 1 → l.tokRoom .a y.tok.push = true) → ∃ t, Gives .repRepetition s t ∧ (t.core c).reps = {} ∧
          (t.seq c .a).pc = pc + 8 ∧ wrote t))))

/-! ### The matrix array -/

/-- R264 to R271: each matrix word completes when its tokens let it begin and its own conditions hold. mcfg sets the formats, mzero
clears the 32 rows of a declared tile, mwl starts a load and mswap an exchange of weights when the shadow weights neither load
nor wait for an exchange, mma and mmas take their weights and scales and stream from the array free cycle on; the array is then
free 32P cycles later. A descriptor that breaks a rule, an undeclared tile and a pair of formats that no kind allows trap, and a
word that must wait stalls. The model's choices: the detail of a KLEN of 0 or above 256 (log entry 20), that an mswap waits
while another is pending (log entry 127), and that mma and mmas wait for a pending mswap before every check and check themselves
before their descriptor (log entry 128). -/
def Obligations.MatrixWords : Prop :=
  ∀ (s : State) (fa fb : BitVec 5) (m : BitVec 1) (tok : Tok) (t : Trap),
    let c := s.me
    let k := s.core c
    let bad : Trap := s.illegal true
    let d : X64 := (s.payload tok).getD 0
    let wFmt := elemFmt k.fmtB.toNat
    let busy : Prop := k.shst = 1 ∨ k.swpend.isSome = true
    let checks := s.descCheck c d (tileBytes (elemFmt k.fmtA.toNat)) (aTiles (dKlen d))
    let a := isMx k.fmtA.toNat
    let b := isMx k.wAct.fmt.toNat
    let mix := isInt k.fmtA.toNat != isInt k.wAct.fmt.toNat
    let p := planeP (elemFmt k.fmtA.toNat) * planeP (elemFmt k.wAct.fmt.toNat)
    let nA := if a then 4 else 0
    let nB := if b then 8 else 0
    let begins : Prop := s.tokWait tok false = none
    let issues : Prop := s.tokWait tok true = none
    let streams (i : Instr) (nA nB : Nat) : Prop := ∃ (x : Mma) (l : Core), DoesTok i tok true s (s.setCore c l) ∧
      l.mmas = k.mmas ++ [x] ∧ l.scales = k.scales.drop (nA + nB) ∧ l.arrayFree = s.gscNow c + 32 * p ∧
      l.bscv = (k.bscv || decide (nB ≠ 0)) ∧ (nB = 0 → l.sb = k.sb) ∧
      (∀ j, j < nB → j < 8 → some (fld l.sb (512 * j) 512) = k.scales[nA + j]?) ∧
      l.matNo = k.matNo + 1 ∧ x.no = k.matNo ∧
      { l with mmas := k.mmas, scales := k.scales, sb := k.sb, bscv := k.bscv, arrayFree := k.arrayFree, matNo := k.matNo } = k ∧
      x.tile = m ∧ x.klen = dKlen d ∧ x.half.toNat = dHalf d ∧ x.fa = k.fmtA ∧ x.fb = k.wAct.fmt ∧ x.w = k.wAct.tiles ∧
      x.push = tok.push ∧ x.desc = d ∧ x.took = [] ∧ x.at_ = s.gscNow c ∧ x.sb = (if b then some l.sb else none) ∧
      (a = false → x.sa = none) ∧
      (a = true → ∃ v, x.sa = some v ∧ ∀ j, j < nA → j < 4 → some (fld v (512 * j) 512) = k.scales[j]?)
    (begins → DoesTok (.mcfg fa fb tok) tok false s (s.modCore c fun k => { k with fmtA := fa, fmtB := fb })) ∧
    (begins → s.declared c m.toNat = true → ∃ l : Core, DoesTok (.mzero m tok) tok false s (s.setCore c l) ∧
      { l with rows := k.rows, bypass := k.bypass, rowsThen := k.rowsThen, rowsNow := k.rowsNow } = k ∧
      ∀ r, r < 64 → { l with rowsThen := [] }.rowAt r = if r / 32 = m.toNat then 0 else { k with rowsThen := [] }.rowAt r) ∧
    (issues → s.descCheck c d (tileBytes wFmt) 4 = none → ¬ busy → k.mwls = [] →
      DoesTok (.mwl tok) tok true s (s.modCore c fun k =>
        { k with shst := 1, wSh := { k.wSh with fmt := k.fmtB }
                 mwls := [{ desc := d, fmt := k.fmtB, push := tok.push, pc := s.pc, at_ := s.gscNow c, no := k.matNo }]
                 matNo := k.matNo + 1 })) ∧
    (issues → ¬ busy → DoesTok (.mswap tok) tok true s (s.modCore c fun k => { k with swpend := some (tok.push, s.pc) })) ∧
    (issues → s.declared c m.toNat = true → 0 < dKlen d → dKlen d ≤ 256 → mix = false → checks = none →
      k.arrayFree ≤ s.gscNow c → k.swpend = none →
      (a = false → streams (.mma m tok) 0 0) ∧
      (a = true ∨ b = true → nA + nB ≤ k.scales.length → streams (.mmas m tok) nA nB) ∧
      (a = true ∨ b = true → k.scales.length < nA + nB → Stalls (.mmas m tok) s s .scaleShort)) ∧
    (issues → s.declared c m.toNat = true → 0 < dKlen d → dKlen d ≤ 256 → mix = false → checks = none →
      s.gscNow c < k.arrayFree → k.swpend = none →
      (a = false → Stalls (.mma m tok) s s .other) ∧ (a = true ∨ b = true → Stalls (.mmas m tok) s s .other)) ∧
    (issues → k.swpend.isSome = true → Stalls (.mma m tok) s s .other ∧ Stalls (.mmas m tok) s s .other) ∧
    (issues → s.descCheck c d (tileBytes wFmt) 4 = none → busy ∨ k.mwls ≠ [] → Stalls (.mwl tok) s s .other) ∧
    (issues → busy → Stalls (.mswap tok) s s .other) ∧
    (begins → s.declared c m.toNat = false → Traps (.mzero m tok) s bad) ∧
    (issues → s.declared c m.toNat = false → k.swpend = none → Traps (.mma m tok) s bad ∧ Traps (.mmas m tok) s bad) ∧
    (issues → s.descCheck c d (tileBytes wFmt) 4 = some t → Traps (.mwl tok) s t) ∧
    (issues → s.declared c m.toNat = true → k.swpend = none →
      (mix = true ∨ a = true → Traps (.mma m tok) s bad) ∧
      (mix = true ∨ (a = false ∧ b = false) → Traps (.mmas m tok) s bad) ∧
      (dKlen d = 0 ∨ 256 < dKlen d → mix = false →
        (a = false → Traps (.mma m tok) s bad) ∧ (a = true ∨ b = true → Traps (.mmas m tok) s bad)) ∧
      (0 < dKlen d → dKlen d ≤ 256 → mix = false → checks = some t →
        (a = false → Traps (.mma m tok) s t) ∧ (a = true ∨ b = true → Traps (.mmas m tok) s t)))

/-- R79, R267 to R272, R274, R282: the events of the array. A streaming MMA reads A, and a loading MWL its tiles, 16 bytes at a
time, each piece as L0 then holds it; a loaded MWL holds the tiles, an exchange swaps the weights from the array free cycle on,
and the oldest streaming MMA, in its write cycle or later, adds its chunk sums to the rows of its tile, lane by lane, and to no
other row. A piece is read in a cycle in which its word streams or loads, and in no other. None of them takes place while the
group is frozen. The model's choices: one whose push has no room waits and stalls its stream (log entry 14), the pieces and
events come in any order that these allow (log entries 10 and 107), and a poisoned line's bytes are taken as they stand (log
entry 115). -/
def Obligations.MatrixEvents : Prop :=
  ∀ (s : State) (x : Mma) (ms : List Mma) (w : Mwl) (ws : List Mwl) (push : BitVec 2) (pc : VAddr),
    let c := s.me
    let k := s.core c
    let sees (a : Nat) : Byte := if s.poolHole a then s.freeByte a else (look a s.l0Then).getD (rdByte s.mem a)
    let tp (f : BitVec 5) := tileBytes (elemFmt f.toNat) / 16
    let n := s.about.n
    let y : Mma := x.readAll s c
    let last := x.at_ + 32 * (planeP (elemFmt x.fa.toNat) * planeP (elemFmt x.fb.toNat))
    let loaded := w.at_ + tp w.fmt
    let early : Prop := s.gscNow c < last + 3
    (s.frozenCore c = true → Gives .mmaWrite s s ∧ Gives .mswapEffect s s ∧ Gives .mwlLoaded s s ∧ Gives .cpymFollowOnMwl s s) ∧
    (s.frozenCore c = false →
      (s.about.isLoad = true → s.about.k = 0 → k.mmas = x :: ms → n ∉ x.took → n < aTiles x.klen * tp x.fa → x.at_ < s.gscNow c →
        s.gscNow c ≤ last → ∃ t z, Gives .mmaWrite s t ∧ (t.core c).mmas = z :: ms ∧ z.took = x.took ++ [n] ∧ (t.core c).rows = k.rows ∧
          ∀ j g, j < 4 → g < 17408 → fld (vget z.a j 0) (8 * g) 8 =
            if j = n / tp x.fa ∧ g / 16 = n % tp x.fa then sees (keyL0 c (dTile x.desc j) + g) else fld (vget x.a j 0) (8 * g) 8) ∧
      (s.about.isLoad = true → s.about.k = 0 → k.mmas = x :: ms → s.gscNow c ≤ x.at_ ∨ last < s.gscNow c →
        ∃ t, Gives .mmaWrite s t ∧ (t.core c).mmas = k.mmas ∧ (t.core c).rows = k.rows) ∧
      (s.about.isLoad = false → k.mmas = x :: ms → early → Gives .mmaWrite s s) ∧
      (s.about.isLoad = false → k.mmas = x :: ms → ¬ early → k.tokRoom .a x.push = false →
        Gives .mmaWrite s (s.setCore c (k.owe .a x.push x.pc))) ∧
      (s.about.isLoad = false → k.mmas = x :: ms → ¬ early → k.tokRoom .a x.push = true →
        ∃ t, Gives .mmaWrite s t ∧ (t.core c).mmas = ms ∧
        (x.took = [] → ∀ j g, j < aTiles x.klen → j < 4 → g < tileBytes (elemFmt x.fa.toNat) → g < 17408 →
          fld (vget y.a j 0) (8 * g) 8 = sees (keyL0 c (dTile x.desc j) + g)) ∧
        (∀ i n, i < 32 → n < 64 → lane (vget (t.core c).rows (32 * x.tile.toNat + i) 0) 56 n =
          (accumulate (lane (k.rowAt (32 * x.tile.toNat + i)) 56 n) (chunkSum (y.aRow i) (y.bCol n))).1 % 2 ^ 56) ∧
        (∀ r, r < 64 → r / 32 ≠ x.tile.toNat → vget (t.core c).rows r 0 = vget k.rows r 0) ∧
        (∀ b, (t.core c).vstat.getLsbD b = true ↔ k.vstat.getLsbD b = true ∨ ∃ i n, i < 32 ∧ n < 64 ∧
          (accumulate (lane (k.rowAt (32 * x.tile.toNat + i)) 56 n) (chunkSum (y.aRow i) (y.bCol n))).2.getLsbD b = true) ∧
        s.SameBytes t) ∧
      (k.swpend = some (push, pc) → s.gscNow c < k.arrayFree → Gives .mswapEffect s s) ∧
      (k.swpend = some (push, pc) → k.arrayFree ≤ s.gscNow c → k.tokRoom .a push = true →
        ∃ t, Gives .mswapEffect s t ∧ (t.core c).wAct = k.wSh ∧
        (t.core c).wSh = k.wAct ∧ (t.core c).shst = 2 ∧ (t.core c).swpend = none ∧ (t.core c).bscv = false ∧
        (t.core c).sb = BitVec.allOnes 4096 ∧ (t.core c).rows = k.rows ∧ s.SameBytes t) ∧
      (s.about.isLoad = true → k.mwls = w :: ws → k.shst = 1 → n ∉ w.took → n < 4 * tp w.fmt → w.at_ < s.gscNow c →
        s.gscNow c ≤ loaded → ∃ t, Gives .mwlLoaded s t ∧ (t.core c).mwls = { w with took := w.took ++ [n] } :: ws ∧ (t.core c).shst = 1 ∧
          (t.core c).wAct = k.wAct ∧ ∀ j g, j < 4 → g < 17408 → fld (vget (t.core c).wSh.tiles j 0) (8 * g) 8 =
            if j = n / tp w.fmt ∧ g / 16 = n % tp w.fmt then sees (keyL0 c (dTile w.desc j) + g)
            else fld (vget k.wSh.tiles j 0) (8 * g) 8) ∧
      (s.about.isLoad = false → k.mwls = w :: ws → k.shst = 1 → s.gscNow c < loaded → Gives .mwlLoaded s s) ∧
      (s.about.isLoad = false → k.mwls = w :: ws → k.shst = 1 → loaded ≤ s.gscNow c → k.tokRoom .a w.push = false →
        Gives .mwlLoaded s (s.setCore c (k.owe .a w.push w.pc))) ∧
      (s.about.isLoad = false → k.mwls = w :: ws → k.shst = 1 → loaded ≤ s.gscNow c → k.tokRoom .a w.push = true → w.item = none →
        ∃ t, Gives .mwlLoaded s t ∧
        (t.core c).mwls = ws ∧ (t.core c).shst = 2 ∧ (t.core c).wSh.fmt = w.fmt ∧ (t.core c).wAct = k.wAct ∧ s.SameBytes t ∧
        (w.took = [] → ∀ j g, j < 4 → g < tileBytes (elemFmt w.fmt.toNat) → g < 17408 →
          fld (vget (t.core c).wSh.tiles j 0) (8 * g) 8 = sees (keyL0 c (dTile w.desc j) + g))) ∧
      (k.mwls = w :: ws → w.item.isSome = true → k.shst ≠ 1 → k.swpend = none →
        Gives .cpymFollowOnMwl s (s.setCore c { k with shst := 1, wSh := { k.wSh with fmt := w.fmt }
                                                       mwls := { w with at_ := s.gscNow c } :: ws })))

/-! ### Objects, groups and readiness -/

/-- R358 to R363, R366 to R369: the instructions on barriers and counters, on an object whose address passes its checks. A change
waits as fence.rel.sys and is made at once: bari sets a barrier, barm and bara apply BarUpdate, sqadd applies SeqAdd. A wait
goes on when its condition holds and otherwise waits; btest and sqrd read. A wait or a read observes the object once the order
of its stream lets it, and no earlier store to its bytes is on its way (R120); until then it waits. It reaches an object of
another column behind what its own has sent there (R103, R104), and until then it waits: that is the model's choice (log entry
119). -/
def Obligations.Objects : Prop :=
  ∀ (s u : State) (xd xa xb xc : BitVec 5) (key : Nat) (tr : Trans),
    let a := s.x xa
    let b := s.x xb
    let o := u.barrier key
    let free (n : Nat) : Prop := u.fenceRel 5 = true ∧ u.clearTo u.me key = true ∧ poisonIn u key n = none ∧ tr.log = false ∧
      u.plogKey (u.slotOf u.me) key = false
    let seen (n : Nat) : Prop := s.object a n 0 = .key key tr u ∧ (u.core s.me).cStores = [] ∧
      (∀ r ∈ (u.core s.me).cReads, r.value.isSome = true) ∧ (∀ e ∈ u.l0Then, ¬ (key ≤ e.1 ∧ e.1 < key + n)) ∧
      (∀ x, key ≤ x → x < key + n → u.poolHole x = false) ∧ poisonIn u key n = none ∧ u.clearTo u.me key = true
    let held (n : Nat) : Prop := s.object a n 0 = .key key tr u ∧ ∃ r ∈ (u.core s.me).cReads, r.acq = true ∧ r.value = none ∧
      r.no < (s.core s.me).accNo
    let r := u.touch key false
    let waits (i : Instr) (limit : Nat) : Prop :=
      (limit ≠ 0 → Stalls i s r (.wait (256 * limit) a (BitVec.ofNat 64 (256 * limit)))) ∧
      (limit = 0 → Gives i s (r.raise s.me s.st { cause := cWAIT_LIMIT, addr := a }))
    let updates (i : Instr) (dp : Int) (na : Nat) : Prop :=
      let p : Int := o.pend.toNat + dp
      let m := o.arr.toNat + na
      (p < 0 ∨ 2 ^ 48 ≤ p ∨ o.exp.toNat < m → Traps i s { cause := cBARRIER_UNDERFLOW, addr := a }) ∧
      (p = 0 → m = o.exp.toNat → Does i s
        (let w := u.putBarrier key { o with phase := ~~~ o.phase, pend := o.rpend.setWidth 48, arr := 0 }
         if o.note = 1 then w.notify key ((~~~ o.phase).setWidth 64) else w)) ∧
      (0 ≤ p → p < 2 ^ 48 → m ≤ o.exp.toNat → ¬ (p = 0 ∧ m = o.exp.toNat) →
        Does i s (u.putBarrier key { o with pend := BitVec.ofNat 48 p.toNat, arr := BitVec.ofNat 16 m }))
    (s.object a 16 2 = .key key tr u → free 16 →
      Does (.bari xa xb) s (u.putBarrier key
        { rsv := 0, note := o.note, phase := 0, rpend := fld b 0 40, arr := 0, exp := fld b 40 16, pend := (fld b 0 40).setWidth 48 }) ∧
      updates (.barm xa xb) b.toInt 0 ∧ updates (.bara xa xb) 0 b.toNat) ∧
    (s.object a 8 2 = .key key tr u → free 8 →
      let n := u.get key 8 + b.toNat
      (n < 2 ^ 64 → Does (.sqadd xa xb) s (((u.write key (natBytes n 8)).touch key true).notify key (BitVec.ofNat 64 n))) ∧
      (2 ^ 64 ≤ n → Gives (.sqadd xa xb) s
        ((((u.write key (natBytes (2 ^ 64 - 1) 8)).touch key true).notify key (BitVec.allOnes 64)).raise s.me s.st
          { cause := cCOUNTER_OVERFLOW, addr := a }))) ∧
    (s.object a 16 2 = .key key tr u → u.fenceRel 5 = true → u.clearTo u.me key = false →
      Stalls (.bari xa xb) s u .other ∧ Stalls (.barm xa xb) s u .other ∧ Stalls (.bara xa xb) s u .other) ∧
    (s.object a 16 2 = .key key tr u → u.fenceRel 5 = false →
      Stalls (.bari xa xb) s u .fence ∧ Stalls (.barm xa xb) s u .fence ∧ Stalls (.bara xa xb) s u .fence) ∧
    (seen 16 →
      Does (.btest xd xa) s (r.setX xd (BitVec.ofNat 64
        (o.phase.toNat + 2 * (o.exp - o.arr).toNat + 2 ^ 17 * Nat.min o.pend.toNat (2 ^ 47 - 1)))) ∧
      (o.phase = fld b 0 1 → Does (.bwait xa xb) s r) ∧ (o.phase ≠ fld b 0 1 → waits (.bwait xa xb) (bitsNat b 27 8))) ∧
    (seen 8 →
      Does (.sqrd xd xa) s (r.setX xd (BitVec.ofNat 64 (rdNat u.mem key 8))) ∧
      (b.toNat ≤ rdNat u.mem key 8 → Does (.sqwait xa xb xc) s r) ∧
      (rdNat u.mem key 8 < b.toNat → waits (.sqwait xa xb xc) (bitsNat (s.x xc) 19 0))) ∧
    (held 16 → Stalls (.btest xd xa) s u .other ∧ Stalls (.bwait xa xb) s u (waitWhy (bitsNat b 27 8) a)) ∧
    (held 8 → Stalls (.sqrd xd xa) s u .other ∧ Stalls (.sqwait xa xb xc) s u (waitWhy (bitsNat (s.x xc) 19 0) a))

/-- R320, R343, R344, R371: gsync arrives and stalls while another member that has not ended has not arrived; with the last one
every member goes on behind its GSYNC, from the next cycle on. yield records its wish. A notification of the hub is applied to
the tasks that wait, in the order of its object, but not to a condition registered after it was sent; a task whose conditions
all hold becomes ready. R96, R321, R336, R340, R347 to R351, R355: in a round a ready task that has a place and energy starts
there: its group is formed, every member starts at its sections with its registers. A task ages; the stall wire of a group is
released in the phase of its freeze, or of its first cycle when the freeze came before it (R337); the runtime returns and
removes cores. -/
def Obligations.GroupsAndDispatch : Prop :=
  (∀ (s : State) (n id : Nat) (x : Task) (key : Nat) (v : X64),
    let c := s.me
    let k := s.core c
    let w := s.modCore c fun k => { k with gsyncIn := true }
    let mine (k : Core) : Prop := k.task = some n ∧ k.ended = false
    let all : Prop := ∀ e ∈ w.cores, mine e.2 → e.2.gsyncIn = true
    let leaves (t : State) (m : Nat) : Prop := (t.core m).gsyncIn = false ∧ (t.seq m .c).pc = (s.seq m .c).next.pc ∧
      (t.seq m .c).stall = none ∧ (t.seq m .c).last = some s.cycle ∧ (t.core m).x = (s.core m).x
    (s.inSlot = true → Traps .gsync s (s.illegal false)) ∧
    (s.inSlot = false → s.st = .c → mine k → all → ∃ t, Gives .gsync s t ∧ { t with cores := s.cores } = s ∧
      ∀ m, (mine (s.core m) → leaves t m) ∧ (¬ mine (s.core m) → t.core m = s.core m)) ∧
    (s.inSlot = false → mine k → ¬ all → Stalls .gsync s w .gsync) ∧
    (s.inSlot = false → s.st = .c → k.task = none → ∃ t, Gives .gsync s t ∧ leaves t c ∧ ∀ m, m ≠ c → t.core m = s.core m) ∧
    (k.task = some n → look n s.tasks = some x → ∃ t y, Does .yield s t ∧ look n t.tasks = some y ∧ SaveFor.yield ∈ y.saves ∧
      { y with saves := x.saves } = x ∧ t.cores = s.cores ∧ t.mem = s.mem) ∧
    (k.task = none → Does .yield s s) ∧
    (s.notes[s.about.k]? = some (key, v) → (∀ e ∈ s.notes.take s.about.k, e.1 ≠ key) → look id s.tasks = some x →
      ∃ t y, Gives .hubNotification s t ∧ t.notes = s.notes.eraseIdx s.about.k ∧ t.cores = s.cores ∧ t.mem = s.mem ∧
        look id t.tasks = some y ∧ (x.st ≠ .waiting → y = x) ∧
        (x.st = .waiting →
          y.waits = x.waits.map (fun (w : WaitOn) => if w.key = key then
            (if w.skip ≠ 0 then { w with skip := w.skip - 1 }
             else { w with holds := if w.kind = 1 then v.getLsbD 0 == w.value.getLsbD 0 else decide (w.value.toNat ≤ v.toNat) })
            else w) ∧
          y.st = (if ∀ w ∈ y.waits, w.holds = true then .ready else .waiting)))) ∧
  (∀ (s : State) (n o c m : Nat) (x : Task),
    let v := { s with roundAt := some s.cycle }
    let u := v.startNew n o x
    let image := ((look (s.kernel x.card.kernel).copy s.copies).getD {}).image
    let id := s.about.core
    let phase := (if x.freezeAt < x.start then x.start else x.freezeAt) % 8
    (s.hub.ready = true → s.cycle % 8 = 0 → s.roundAt ≠ some s.cycle →
      (s.tasks = [] → Gives .decisionRound s v) ∧
      (s.tasks = [(n, x)] → x.saved = none → x.bound = false → x.home < 4 → x.homeCol.isSome = true → v.isAged x = false →
        v.mayStart x = true → v.place1 x.home n x = some o → v.admits x.home n x = true → v.kernelFault x = none →
        Gives .decisionRound s u ∧
        (∃ y, look n u.tasks = some y ∧ y.st = .running ∧ y.origin = BitVec.ofNat 10 o ∧ y.card = x.card ∧ y.start = s.cycle + 8) ∧
        ((rectCores o x.card.w x.card.h)[m]? = some c →
          (u.core c).task = some n ∧ (u.core c).member = m ∧ (u.core c).slotmap = (s.ctx x.ctx).desc.slotmap ∧
          (u.core c).getX 1 = x.card.frame ∧ (u.core c).getX 2 = image.setWidth 64 ∧ (u.core c).getX 3 = x.card.arg0 ∧
          (u.core c).getX 4 = x.card.arg1 ∧ (u.core c).getX 5 = BitVec.ofNat 64 m ∧
          (u.core c).getX 6 = BitVec.ofNat 64 x.queue ∧ (u.core c).getX 7 = x.replay.setWidth 64) ∧
        (c ∉ rectCores o x.card.w x.card.h → u.core c = s.core c))) ∧
    (look s.about.k s.tasks = some x →
      (x.st = .ready → x.readyAt + s.hub.ageiv.toNat ≤ s.cycle →
        Gives .taskAged s (s.modTask s.about.k fun x => { x with aged := true })) ∧
      (s.cycle < x.readyAt + s.hub.ageiv.toNat → Gives .taskAged s s) ∧
      (x.wire = true → x.frozen = [] → x.freezeAt ≤ s.cycle → x.thawAt < s.cycle → s.cycle % 8 = phase →
        Gives .stallWireRelease s (s.modTask s.about.k fun x => { x with wire := false })) ∧
      (x.frozen ≠ [] ∨ s.cycle % 8 ≠ phase → Gives .stallWireRelease s s)) ∧
    (∃ t, Gives .corecmdReturn s t ∧ id ∉ t.out ∧ (∀ p ∈ t.outWhenIdle, p.1 ≠ id) ∧ t.cores = s.cores ∧ t.tasks = s.tasks) ∧
    (∃ t, Gives .corecmdRemove s t ∧ t.cores = s.cores ∧ t.tasks = s.tasks ∧
      ((s.core id.toNat).task = none → id ∈ t.out) ∧ (∀ n, (s.core id.toNat).task = some n → (id, n) ∈ t.outWhenIdle ∧ t.out = s.out)))

/-! ### Kernels, queues and dispatch -/

/-- R300 to R307, R316, R325, R326: kinv gives the hub a command, behind those of earlier cycles and of lower cores, and stalls
until KINV_COMPLETE, which in a later cycle acts by the kernel's state, writes STATE, STATUS and SEQ and lets the stream of the
task that issued it go on; spawn gives the hub a card of the task's own queue and returns its code; kick gives a queue a value,
in the cores' order within a cycle. A P0 task that may not do so traps. That a kick waits while it is not its turn in the cycle
is the model's choice (log entry 116), and so is a FAULTED internal queue that accepts the card of spawn (log entry 136). -/
def Obligations.KernelsAndSpawn : Prop :=
  ∀ (s : State) (xd xa xb : BitVec 5) (key : Nat) (r : KinvReq) (rs : List KinvReq),
    let new (id : BitVec 16) (d : BitVec 512) : KinvReq :=
      { core := s.about.core, id := id, desc := d, task := (s.core s.me).task, at_ := s.cycle }
    let c := s.me
    let slot := s.slotOf c
    let id : BitVec 16 := fld (s.x xa) 0 16
    let d : BitVec 512 := BitVec.ofNat 512 (s.get (s.hub.ktbase.toNat + 64 * id.toNat) 64)
    let p : PlaceAddr := fld (s.x xa) 0 32
    let q := 131072 + slot.toNat
    let g := s.hubRead key
    let b : BitVec 1024 := BitVec.ofNat 1024 (s.get key 128)
    let n := bitsNat (s.x xa) 17 0
    let denied : Prop := s.isP1 c = false ∧
      (131328 ≤ n ∨ (s.queue n).ctx ≠ slot ∨ (n < 131072 ∧ look n s.queues = none))
    let old := s.kernel r.id
    let img := ({ s with kinvs := rs } : State).loadChecks r.id (kImage r.desc) (kOwner r.desc)
    ((s.core c).cmd ≠ some .kinv → s.fenceRel 5 = true →
      (s.kinvPriv id d = true → Traps (.kinv xa) s (s.privTrap 0)) ∧
      (s.kinvPriv id d = false → ∃ l₁ l₂, s.kinvs = l₁ ++ l₂ ∧
        (∀ e ∈ l₁, ¬ (e.at_ = s.cycle ∧ s.about.core.toNat < e.core.toNat)) ∧
        (∀ e, l₂.head? = some e → e.at_ = s.cycle ∧ s.about.core.toNat < e.core.toNat) ∧
        Stalls (.kinv xa) s (({ s.hubRead (s.kernelAddr id) with kinvs := l₁ ++ new id d :: l₂ } : State).modCore c fun k =>
          { k with cmd := some .kinv }) .other)) ∧
    ((s.core c).cmd = some .kinv → Stalls (.kinv xa) s s .other) ∧
    (s.kinvPriv id d = true ↔ s.isP1 c = false ∧ (kCmd d = 1 ∨ kCmd d = 3 ∨
      (kCmd d = 2 ∧ (kOwner d ≠ slot ∨ ((s.kernel id).st = 2 ∧ s.patchable id = false))))) ∧
    (s.kinvs = r :: rs → s.cycle ≤ r.at_ → Gives .kinvComplete s s) ∧
    (s.kinvs = r :: rs → r.at_ < s.cycle → s.about.yes = false → r.begun = false → r.task.isSome = true →
      (s.core r.core.toNat).task = r.task → (s.core r.core.toNat).cmd = some .kinv → (s.seq r.core.toNat .c).slot = false →
      ∃ u, Gives .kinvComplete s u ∧ u.kinvs = rs ∧ (u.core r.core.toNat).cmd = none ∧
        (u.seq r.core.toNat .c).pc = (s.seq r.core.toNat .c).pc + 4 ∧ (u.kernel r.id).seq = old.seq + 1 ∧
        (kCmd r.desc = 0 → (u.kernel r.id).st = old.st ∧ (u.kernel r.id).status = 0) ∧
        (kCmd r.desc = 1 → old.st = 2 → (u.kernel r.id).st = 2 ∧ (u.kernel r.id).status = 0) ∧
        (kCmd r.desc = 1 → old.st ≠ 2 →
          (∀ e, img = .error e → (u.kernel r.id).st = 0 ∧ (u.kernel r.id).status = e) ∧
          (∀ k, img = .ok k → (u.kernel r.id).st = 2 ∧ (u.kernel r.id).status = 0 ∧
            look (u.kernel r.id).copy u.copies = some k)) ∧
        (kCmd r.desc = 2 → old.st ≠ 2 → (u.kernel r.id).st = old.st ∧ (u.kernel r.id).status = 8) ∧
        (kCmd r.desc = 2 → old.st = 2 → (u.kernel r.id).st = 2 ∧ ((u.kernel r.id).status = 0 ∨ (u.kernel r.id).status = 9)) ∧
        (kCmd r.desc = 3 → old.st = 2 → (u.kernel r.id).st = 3 ∧ (u.kernel r.id).status = 0) ∧
        (kCmd r.desc = 3 → old.st = 0 → (u.kernel r.id).st = 0 ∧ (u.kernel r.id).status = 8) ∧
        (3 < kCmd r.desc → (u.kernel r.id).st = old.st ∧ (u.kernel r.id).status = 10)) ∧
    (s.place c p (offOf p) 128 128 = .ok key → s.fenceRel 3 = true → poisonIn s key 128 = none →
      (256 ≤ s.queueCount q → Does (.spawn xd xa) s (g.setX xd 15)) ∧
      (s.queueCount q < 256 →
        (∀ code, g.cardFault slot b = some code → Does (.spawn xd xa) s (g.setX xd (code.setWidth 64))) ∧
        (g.cardFault slot b = none → s.poolCount < poolSize → ∃ u y, Does (.spawn xd xa) s u ∧ u.x xd = 0 ∧
          u.nextTask = s.nextTask + 1 ∧ look s.nextTask u.tasks = some y ∧ y.card = Card.of b ∧ y.ctx = slot ∧ y.queue = q ∧
          (y.st = .waiting ∨ y.st = .ready) ∧ (u.queue q).head = (s.queue q).head + 1))) ∧
    (s.fenceRel 5 = true → (denied → Traps (.kick xa xb) s (s.privTrap (BitVec.ofNat 64 n))) ∧
      (¬ denied → s.kickTurn (c + 1) = true →
        Does (.kick xa xb) s ({ s with kickAt := (s.cycle, c + 1) }.kickQueue n (s.x xb))) ∧
      (¬ denied → s.kickTurn (c + 1) = false → Stalls (.kick xa xb) s s .other)) ∧
    (s.kickTurn (c + 1) = true ↔ s.kickAt.1 ≠ s.cycle ∨ s.kickAt.2 ≤ c + 1) ∧
    (s.fenceRel 5 = false → Stalls (.kick xa xb) s s .fence)

/-- R308, R313 to R317, R324, R327 to R329, R487: the events of a queue: kicks record a tail or hold a replay, a card or a replay is
accepted or faults the queue, and the commands of the runtime change its state; a graph slot is loaded, if the store has room,
and unloaded. The kicks of the host port act while no core has kicked in their cycle. The model's choices: such a kick has no
effect once a core has kicked (log entry 116), a LOAD without room keeps the earlier image (log entry 51), a replay's failure
that names no node gives node 0 (log entry 135), and RESUME and SKIP cancel a pending DISABLE (log entry 134). -/
def Obligations.QueueEvents : Prop :=
  ∀ (s : State) (r : Replay) (rs : List Replay) (b : BitVec 1024) (code : BitVec 8) (cards : List (BitVec 1024 × Nat)) (g : Graph),
    let q := s.about.k
    let k := s.queue q
    let w := s.about.w0
    let t : BitVec 32 := fld w 0 32
    let faults (i : Instr) (c : BitVec 8) : Prop := ∃ u, Gives i s u ∧ (u.queue q).st = .faulted ∧ (u.queue q).fault = c ∧
      (u.queue q).head = k.head ∧ (u.queue q).tail = k.tail ∧ u.cores = s.cores ∧ u.tasks = s.tasks
    let sets (i : Instr) (l : Queue) : Prop := ∃ u, Gives i s u ∧ u.queue q = l ∧ (∀ p, p ≠ q → u.queue p = s.queue p) ∧
      u.cores = s.cores ∧ u.tasks = s.tasks
    let d : BitVec 512 := BitVec.ofNat 512 (s.get (s.hub.qtbase.toNat + 64 * q) 64)
    let order := bitsNat d 71 64
    let ctx : Slot := fld d 72 8
    let good : Prop := 4 ≤ order ∧ order ≤ 16 ∧ bitsNat d 6 0 = 0 ∧ bitsNat d 63 56 = 0 ∧ (s.ctx ctx).st.usable = true
    let image := s.graphImage (fld (BitVec.ofNat 256 (s.get (s.hub.gtbase.toNat + 32 * q) 32)) 0 56)
      (fld (BitVec.ofNat 256 (s.get (s.hub.gtbase.toNat + 32 * q) 32)) 64 8)
    let x := s.graph r.slot.toNat
    (s.kickTurn 0 = false → Gives .tailKick s s ∧ Gives .replayKick s s) ∧
    (q < 131072 →
      (s.kickTurn 0 = true → k.st = .enabled ∨ k.st = .halted ∨ k.st = .faulted →
        (w.getLsbD 63 = false → bitsNat w 62 32 = 0 → (t - k.lastTail).toNat < 2 ^ 31 → (t - k.head).toNat ≤ 2 ^ k.order →
          (k.replays = [] → sets .tailKick { k with tail := t }) ∧
          (k.replays = rs ++ [r] → sets .tailKick { k with replays := rs ++ [{ r with tailAfter := some t }] })) ∧
        (w.getLsbD 63 = false → bitsNat w 62 32 ≠ 0 → k.st = .enabled → faults .tailKick 5) ∧
        (w.getLsbD 63 = true → (k.st = .enabled ∨ k.replays.length < 64) →
          sets .replayKick { k with replays := k.replays ++ [{ no := s.nextId, slot := fld w 50 13, ptab := bitsNat w 49 0 * 64 }] })) ∧
      (k.st = .disabled →
        (s.kickTurn 0 = true →
          (w.getLsbD 63 = false → Gives .tailKick s { s with kickAt := (s.cycle, 0) }) ∧
          (w.getLsbD 63 = true → Gives .replayKick s { s with kickAt := (s.cycle, 0) })) ∧
        (good → sets .queueEnable { k with st := .enabled, fault := 0, ring := fld d 0 56, order := order, ctx := ctx, head := 0
                                           tail := 0, replays := [], closed := false, rereads := false }) ∧
        (¬ good → sets .queueEnable { k with fault := 10 })) ∧
      (s.accepting k = true → k.head ≠ k.tail → s.poolCount < poolSize →
        (s.ringCard k = none → faults .cardAccept 8) ∧
        (s.ringCard k = some b → s.cardFault k.ctx b = some code → faults .cardAccept code) ∧
        (s.ringCard k = some b → s.cardFault k.ctx b = none → ∃ u y, Gives .cardAccept s u ∧ (u.queue q).head = k.head + 1 ∧
          (u.queue q).tail = k.tail ∧ u.nextTask = s.nextTask + 1 ∧ look s.nextTask u.tasks = some y ∧ y.card = Card.of b ∧
          y.ctx = k.ctx ∧ y.queue = q ∧ y.cardNo = BitVec.ofNat 32 (k.head.toNat % 2 ^ k.order) ∧ u.cores = s.cores)) ∧
      (s.accepting k = true → k.head = k.tail → k.replays = r :: rs → s.replayBehind r = false →
        (∀ n, s.replayCards k.ctx r = .error (code, n) → faults .replayAccept code) ∧
        (s.replayCards k.ctx r = .ok cards → s.poolCount + cards.length ≤ poolSize → ∃ u, Gives .replayAccept s u ∧
          (u.queue q).replays = rs ∧ (u.graph r.slot.toNat).replays = x.replays + 1 ∧
          u.nextTask = s.nextTask + cards.length ∧ u.cores = s.cores)) ∧
      (k.st = .enabled → sets .queueHalt { k with st := .halted }) ∧
      (k.st = .enabled → k.closed = false → ∃ u, Gives .queueDrain s u ∧ u.tasks = s.tasks ∧
        ((u.queue q).st = if k.head = k.tail ∧ k.replays = [] ∧ ∀ e ∈ s.tasks, e.2.queue ≠ q then .disabled else .draining)) ∧
      (k.st = .halted ∨ k.st = .faulted → sets .queueResume { k with st := .enabled, fault := 0, closed := false, rereads := false }) ∧
      (k.st = .faulted → k.rereads = true → k.head ≠ k.tail →
        sets .queueSkip { k with head := k.head + 1, st := .enabled, fault := 0, closed := false, rereads := false }) ∧
      (k.st = .faulted → k.rereads = true → k.head = k.tail → k.replays = r :: rs → sets .queueSkip
        { k with replays := rs, tail := r.tailAfter.getD k.tail, st := .enabled, fault := 0, closed := false, rereads := false }) ∧
      (k.st ≠ .disabled → ∃ u, Gives .queueDisable s u ∧ (∀ e ∈ u.tasks, e.2.queue = q → e.2.unstarted = false) ∧
        ((∀ e ∈ s.tasks, e.2.queue = q → e.2.unstarted = true) → (u.queue q).st = .disabled))) ∧
    (q < 8192 →
      (image = .ok g → s.graphRoom q g = false → ∃ u, Gives .graphLoad s u ∧ u.graph q = { s.graph q with status := 3 }) ∧
      (image = .ok g → s.graphRoom q g = true → ∃ u, Gives .graphLoad s u ∧ u.graph q = g ∧ u.tasks = s.tasks ∧ u.cores = s.cores) ∧
      (image = .error code → ∃ u, Gives .graphLoad s u ∧ u.graph q = { s.graph q with status := code })) ∧
    ((s.graph q).loaded = true → ∃ u, Gives .graphUnload s u ∧ (u.graph q).loaded = s.graphHeld q ∧
      (s.graphHeld q = true → u.graph q = { s.graph q with unloading := true }))

/-! ### Engines -/

/-- R27, R135, R276 to R278, R281, R282, R284, R287, R289, R331, R447: every engine command, in its place form and its handle form.
A copy reads and checks its block as it issues and traps if a check fails; the other commands enter the queue of their engine,
which reads the block later. Of the commands of one cycle those of lower cores come first (R28). A command waits as fence.rel,
and while the queue of its engine is full. -/
def Obligations.EngineCommands : Prop :=
  ∀ (s u : State) (a h b : BitVec 5) (key e : Nat) (addr : X64) (pl : Bool) (t : Trap) (pg : List (Nat × Nat)),
    let takes (i : Instr) (w : State) (x : Item) : Prop := ∃ l₁ l₂, w.items = l₁ ++ l₂ ∧
      (∀ e ∈ l₁, ¬ (e.unit = x.unit ∧ e.at_ = w.cycle ∧ w.about.core.toNat < e.core.toNat)) ∧
      (∀ e, l₂.head? = some e → e.unit = x.unit ∧ e.at_ = w.cycle ∧ w.about.core.toNat < e.core.toNat) ∧
      Does i s { w with items := l₁ ++ x :: l₂, nextId := w.nextId + 1 }
    let copies (i : Instr) (fn : Nat) (use : BlockUse) : Prop := use = .at key addr pl pg u →
      let y := u.newItem fn 0 key addr []
      let x : Item := { y with block := BitVec.ofNat 1024 (u.get key (blockBytes fn)), st := .accepted }
      let w := u.touch key false
      (u.fenceRel 0 = false → Stalls i s u .fence) ∧
      (u.fenceRel 0 = true → poisonIn u key (blockBytes fn) = none →
        (u.headCheck x = some t → Gives i s (u.raise s.me s.st t)) ∧
        (u.headCheck x = none → u.copyCheck x = .error t → Gives i s (u.raise s.me s.st t)) ∧
        (u.headCheck x = none → u.copyCheck x = .ok e →
          (w.queueFull { x with engine := e } = true → Stalls i s w .other) ∧
          (w.queueFull { x with engine := e } = false → takes i w { x with engine := e })))
    let queues (i : Instr) (fn engine : Nat) (use : BlockUse) : Prop := use = .at key addr pl pg u →
      let x := u.newItem fn engine key addr pg
      (u.fenceRel 0 = false → Stalls i s u .fence) ∧
      (u.fenceRel 0 = true → u.queueFull x = true → Stalls i s u .other) ∧
      (u.fenceRel 0 = true → u.queueFull x = false → takes i u x)
    copies (.cpyPlace a) 0 (s.placeBlock a 0) ∧ copies (.cpyHandle h b) 0 (s.handleBlock h b) ∧
    copies (.cpyxPlace a) 1 (s.placeBlock a 1) ∧ copies (.cpyxHandle h b) 1 (s.handleBlock h b) ∧
    copies (.cpymPlace a) 2 (s.placeBlock a 2) ∧ copies (.cpymHandle h b) 2 (s.handleBlock h b) ∧
    queues (.strmPlace a) 3 8 (s.placeBlock a 3) ∧ queues (.strmHandle h b) 3 8 (s.handleBlock h b) ∧
    queues (.fexPlace a) 4 9 (s.placeBlock a 4) ∧ queues (.fexHandle h b) 4 9 (s.handleBlock h b) ∧
    queues (.scrbPlace a) 5 10 (s.placeBlock a 5) ∧ queues (.scrbHandle h b) 5 10 (s.handleBlock h b) ∧
    queues (.nvrdPlace a) 6 11 (s.placeBlock a 6) ∧ queues (.nvrdHandle h b) 6 11 (s.handleBlock h b) ∧
    queues (.nvwrPlace a) 7 11 (s.placeBlock a 7) ∧ queues (.nvwrHandle h b) 7 11 (s.handleBlock h b) ∧
    queues (.credPlace a) 8 12 (s.placeBlock a 8) ∧ queues (.credHandle h b) 8 12 (s.handleBlock h b)

/-- R28, R29, R95, R103, R118, R136, R139, R278 to R291, R333, R334, R447 to R449, R460: the events of an engine's items. An item is
accepted in the order of its queue with its block, in a later cycle than it was submitted in, starts when its barrier shows the
phase, may move a piece by itself, has moved all its bytes when every earlier item of its unit has finished, and then makes its
completion actions; one that fails ends with its record. A collective finishes at another rank only once rank 0's reference has
come and agrees with its block. The model's choices: the bytes of that reference and of a collective that did not finish (log
entry 42), the count of an item's wait (log entry 113), the pieces and their order (log entries 10 and 41), that a transfer
waits for what came before it at its column (log entry 119), and what a drive reports (log entry 98). -/
def Obligations.EngineEvents : Prop :=
  ∀ (s v z : State) (i : Item) (t : Trap) (sp dp : List EPiece) (l : List DByte) (m : Xfer) (p : Nat × Nat × Nat × Bool) (n line : Nat),
    let x : Item := { i with block := BitVec.ofNat 1024 (s.get i.blockKey (blockBytes i.fn)) }
    let checks := (s.headCheck x).orElse fun _ => s.bodyCheck x
    let b := i.block
    let run := s.canRun i
    let w0 := bitsNat s.about.w0 15 0
    let status := if i.aborted then orAborted w0 else w0
    let blocks := if natBits status 11 1 = 0 then nNlb b else s.about.w1.toNat
    let from' := placeKey i.core.toNat (BitVec.ofNat 32 (cSrc b))
    let dest := placeKey i.core.toNat (BitVec.ofNat 32 (cDst b))
    let stream := (l.take (rSlen b)).map (·.v)
    let r := if headerOk b stream then scarabDecode ((l.drop (rSlen b)).map (·.v)) stream else ([], false)
    let all (ps : List EPiece) : Prop := ∀ p ∈ ps, ∃ k n l, p = EPiece.mem k n l
    let port := vget s.hub.ports s.about.n {}
    let read := (List.range (s.nvBytes b)).map fun j => match s.about.bytes[j]? with
      | some v => ({ v := v } : DByte)
      | none => { hole := true }
    let stw := placeKey i.core.toNat (nStw b)
    let ends (ev : Instr) (u : State) (status blocks : Nat) : Prop :=
      let fin (u : State) := if natBits status 11 1 = 0 then u.finishItem i (u.nvBytes b) else u.itemTrap i i.fault
      (nStw b = 0 → Gives ev s (fin u)) ∧
      (∀ w, nStw b ≠ 0 → u.commit i.ctx (u.plogKey i.ctx stw) stw (natBytes (natBits status 11 1 * 2) 8 ++ natBytes blocks 8) = some w →
        Gives ev s (fin w))
    let agreed := credRef b (s.kNodeList i)
    let heard := i.heard.getD (s.about.ranks, s.about.nats)
    let out := credBytes i heard.1 heard.2
    let y : Item := { x with st := if bWt x.block then .accepted else .running, pages := [] }
    let taken := (s.touch i.blockKey false).modItem i.id fun e => { e with block := y.block, st := y.st, pages := [] }
    let bar := placeKey i.core.toNat (bWbar b)
    let list : List EPiece := [.mem i.indexKey (4 * cPitch b) false]
    let j := i.takeRange s i.indexKey (4 * cPitch b)
    s.item s.about.k = some i →
    (i.st = .queued → i.at_ = s.cycle → Gives .engineAccept s s) ∧
    (i.st = .queued → i.at_ < s.cycle → (∀ e ∈ s.earlier i, e.st ≠ .queued) →
      (∀ l, poisonIn s i.blockKey (blockBytes i.fn) = some l →
        Gives .engineAccept s (s.itemTrap i (poisonTrap i.core.toNat l false))) ∧
      (poisonIn s i.blockKey (blockBytes i.fn) = none → s.portHeld x = true → Gives .engineAccept s s) ∧
      (poisonIn s i.blockKey (blockBytes i.fn) = none → s.portHeld x = false →
        (checks = none → i.fn ≠ 5 → i.fn ≠ 6 → i.fn ≠ 7 → Gives .engineAccept s taken) ∧
        (checks = none → i.fn = 5 → Gives .engineAccept s (taken.holdHeader y)) ∧
        (checks = none → i.fn = 6 ∨ i.fn = 7 → Gives .engineAccept s (taken.holdBuf y)) ∧
        (checks = some t → Gives .engineAccept s (s.itemTrap x t)))) ∧
    (i.st = .accepted → (∀ e ∈ s.earlier i, e.inQueue = false) → (bWt b = true → s.itemFrozen i = false) →
      (∀ l, bWt b = true → poisonIn s bar 16 = some l →
        Gives .engineItemStart s (s.itemTrap i (poisonTrap i.core.toNat l true))) ∧
      ((bWt b = true → poisonIn s bar 16 = none) → s.phaseShown i = true → Gives .engineItemStart s (s.modItem i.id fun i => { i with st := .running })) ∧
      ((bWt b = true → poisonIn s bar 16 = none) → s.phaseShown i = false → Gives .engineItemStart s s)) ∧
    (i.st = .running → i.moved.isSome = true → Gives .engineItemStart s s) ∧
    (i.st = .running → i.moved = none → i.fn = 0 → i.phase = 0 → s.about.yes = false →
      s.resolve i 0 i.copyXfer.src [] = .ok sp v → v.resolve i 1 i.copyXfer.dst [] = .ok dp z → z.tooFresh sp = false →
      (partPieces sp 0)[s.about.n]? = some p → z.itemClear i p.1 = true → Gives .engineItemStart s
        ((z.touch p.1 false).modItem i.id fun y => { y with took := (i.takePiece z p.1 p.2.1).took })) ∧
    (i.st = .accepted → bWt b = true → s.itemFrozen i = false →
      (256 * bWlim b ≤ i.waited → s.phaseShown i = false →
        Gives .engineItemWaitLimit s (s.itemTrap i { cause := cWAIT_LIMIT, addr := i.blockAddr })) ∧
      (i.waited < 256 * bWlim b ∨ s.phaseShown i = true → Gives .engineItemWaitLimit s s)) ∧
    (i.moved = some n → run = true → i.st ≠ .mwl →
      (i.fn ≤ 2 → Gives .copyComplete s (s.finishItem i n)) ∧ (i.fn = 3 → Gives .strmComplete s (s.finishItem i n)) ∧
      (i.fn = 4 → Gives .fireflySweepComplete s (s.finishItem i n)) ∧ (i.fn = 5 → Gives .scarabDecode s (s.finishItem i n)) ∧
      (s.nvRuns i = true → Gives .nvmeItemComplete s (s.finishItem i n)) ∧
      (i.fn = 8 → s.about.yes = false → Gives .credComplete s (s.finishItem i n))) ∧
    (i.st ≠ .mwl → run = true →
      (i.fn = 0 → Moves s i i.copyXfer l z → Gives .copyComplete s (z.finishItem i i.copyBytes)) ∧
      (i.fn = 1 → i.moved = none → i.phase = 0 → s.tooFresh list = false → s.partsClear i list = true →
        s.sickLine i list (4 * cPitch b) = none →
        (s.indexXfer j = some m → Moves (s.modItem i.id fun y => { y with took := j.took }) j m l z →
          Gives .copyComplete s (z.finishItem i (cLen b * cPitch b))) ∧
        (s.indexXfer j = none → Gives .copyComplete s (s.itemTrap i i.fault))) ∧
      (i.fn = 1 → i.moved = none → i.phase = 0 → s.tooFresh list = false → s.partsClear i list = true →
        s.sickLine i list (4 * cPitch b) = some line →
        Gives .copyComplete s (s.itemTrap i (poisonTrap i.core.toNat line false))) ∧
      (i.fn = 2 → Moves s i i.copyXfer l z → Gives .copyComplete s
        ((z.modItem i.id fun x => { x with st := .mwl }).modCore i.core.toNat fun k =>
          { k with mwls := k.mwls ++ [{ desc := cMdesc b, fmt := BitVec.ofNat 5 (cBfmt b), item := some i.id }] })) ∧
      (i.fn = 0 → i.phase = 0 → i.moved = none → s.MemWf → cConv b = 0 → cSmem b = false → cDmem b = false → bCk b = 0 →
        bCw b = false → bSd b = false → i.took = [] → i.wrote = [] → s.offMap from' = false → s.offMap (from' + cLen b - 1) = false →
        s.offMap dest = false → s.offMap (dest + cLen b - 1) = false → (∀ x ∈ s.pool, x.2.soils dest = false) →
        (∀ e ∈ s.l0Then, ¬ (from' ≤ e.1 ∧ e.1 < from' + cLen b)) → s.itemClear i from' = true → s.itemClear i dest = true →
        s.plogKey i.ctx dest = false → inPackage dest = true → (from' + cLen b ≤ dest ∨ dest + cLen b ≤ from') →
        (∀ a, from' ≤ a → a < from' + cLen b → s.poolHole a = false) → ∃ u, Gives .copyComplete s u ∧ u.item i.id = none ∧
          ∀ a, rdByte u.mem a = if dest ≤ a ∧ a < dest + cLen b then rdByte s.mem (from' + (a - dest)) else rdByte s.mem a)) ∧
    (run = false → i.st ≠ .mwl → Gives .copyComplete s s ∧ Gives .strmComplete s s ∧ Gives .fireflySweepComplete s s ∧
      Gives .scarabDecode s s ∧ Gives .nvmeItemComplete s s ∧ Gives .nvmeCommandTimeout s s ∧ Gives .credComplete s s) ∧
    (run = true → i.fn = 3 → Moves s i i.strmXfer l z → Gives .strmComplete s (z.finishItem i i.strmBytes)) ∧
    (run = true → i.fn = 4 → Moves s i i.fexXfer l z →
      Gives .fireflySweepComplete s (z.finishItem i (xCount b * fmtBits (xOfmt b) / 8))) ∧
    (run = true → i.fn = 5 → Moves s i i.scrbXfer l z →
      Gives .scarabDecode s (if r.2 then z.finishItem i r.1.length else z.itemTrap i i.fault)) ∧
    (s.nvRuns i = true → i.moved = none → s.tooFresh i.bufParts = false → s.nvClear i = true →
      (i.fn = 6 → s.putParts i 0 i.bufParts read = .ok z →
        ends .nvmeItemComplete z status blocks ∧ ends .nvmeCommandTimeout z (orAborted w0) s.about.w1.toNat) ∧
      (i.fn = 7 → s.sickLine i i.bufParts (s.nvBytes b) = none →
        ends .nvmeItemComplete (s.touchParts i.bufParts) status blocks ∧
        ends .nvmeCommandTimeout (s.touchParts i.bufParts) (orAborted w0) s.about.w1.toNat) ∧
      (i.fn = 7 → s.sickLine i i.bufParts (s.nvBytes b) = some line →
        Gives .nvmeItemComplete s (s.refuseLine i.ctx 7 (nPort b) line))) ∧
    (i.fn = 6 ∨ i.fn = 7 → (vget s.hub.ports (nPort b) {}).contained = true → i.aborted = false →
      Gives .nvmeItemComplete s s ∧ Gives .nvmeCommandTimeout s s) ∧
    (port.present = true → port.contained = false → ∃ u, Gives .downstreamPortContainment s u ∧
      vget u.hub.ports s.about.n {} = { port with contained := true } ∧ u.cores = s.cores ∧ u.tasks = s.tasks ∧
      ∀ e, s.item n = some e → u.item n = some (if (e.fn = 6 ∨ e.fn = 7) ∧ e.live = true ∧ e.moved = none ∧ nPort e.block = s.about.n
        then { e with aborted := true } else e)) ∧
    (run = true → i.fn = 8 → s.about.yes = true →
      (kRank b = 0 → Gives .credComplete s s) ∧
      (kRank b ≠ 0 → s.about.bytes = agreed → Gives .credComplete s (s.modItem i.id fun x => { x with refOk := true })) ∧
      (kRank b ≠ 0 → s.about.bytes ≠ agreed → Gives .credComplete s (s.itemTrap i i.fault))) ∧
    (run = true → i.fn = 8 → s.about.yes = false → i.moved = none →
      (i.phase = 0 → s.resolve i 0 [(i.loc (kSmem b) (kSrc b), kIn b)] [] = .ok sp z → all sp →
        Gives .credComplete s (z.contribute i sp)) ∧
      (i.phase = 3 → kRank b ≠ 0 → i.refOk = false → Gives .credComplete s s) ∧
      (i.phase = 3 → kRank b = 0 ∨ i.refOk = true → s.itemWaits i.id = false → i.todo = [] →
        (s.keepHeard i).resolve i 1 [(i.loc (kDmem b) (kDst b), kOut b)] [] = .ok sp v → all sp → v.partsClear i sp = true →
        v.barredLine sp out = none → v.putParts i 0 sp out = .ok z → Gives .credComplete s (z.finishItem i (kOut b)))) ∧
    (i.fn = 8 → i.st ≠ .queued → s.itemFrozen i = false →
      (256 * bWlim b ≤ i.waited →
        Gives .credWaitLimit s ((s.credHoles i).itemTrap i { cause := cWAIT_LIMIT, addr := i.blockAddr })) ∧
      (i.waited < 256 * bWlim b → Gives .credWaitLimit s s))

/-- R29, R83, R193, R278, R360, R363, R370: the completion actions of an item: the word CVAL, then the barrier's decrement by the
bytes moved or one added to the counter, then the delivery to a steer register; the item then leaves its engine. A poisoned
object ends the item with POISON, an underflow with BARRIER_UNDERFLOW; a counter that overflows stays at its greatest value and
is reported, and the item ends all the same; a delivery that is no multiple of 4 is ENGINE_FAULT. An item whose objects lie
behind earlier requests makes its actions later: that is the model's choice (log entry 119). -/
def Obligations.CompletionActions : Prop :=
  ∀ (s : State) (i : Item) (n : Nat),
    let b := i.block
    let ck := placeKey i.core.toNat (bCbar b)
    let cw := placeKey i.core.toNat (bCword b)
    let gone (u : State) : State :=
      { u with items := u.items.filter (fun x => x.id != i.id)
               blurred := u.blurred.filter (fun e => e.1 != i.id)
               deliveries := if bSd b then u.deliveries ++
                 [{ core := i.core, stream := streamOf (bSstr b), j := bSj b, target := fld (bCval b) 0 56 }] else u.deliveries }
    let aligned : Prop := bSd b = true → bitsNat (bCval b) 1 0 = 0
    let acts (u : State) : Prop :=
      let poisoned (l : Nat) := s.finishItem i n = u.itemTrap i (poisonTrap i.core.toNat l true)
      (bCk b = 0 → s.finishItem i n = gone u) ∧
      (bCk b = 1 → u.plogKey i.ctx ck = false →
        (∀ l, poisonIn u ck 16 = some l → poisoned l) ∧
        (∀ v, poisonIn u ck 16 = none → u.barUpdate ck (-(n : Int)) 0 = some v → s.finishItem i n = gone v) ∧
        (poisonIn u ck 16 = none → u.barUpdate ck (-(n : Int)) 0 = none → s.finishItem i n =
          u.itemTrap i { cause := cBARRIER_UNDERFLOW, addr := placeObj i.core.toNat (bCbar b) })) ∧
      (bCk b = 2 → u.plogKey i.ctx ck = false →
        (∀ l, poisonIn u ck 8 = some l → poisoned l) ∧
        (∀ v, poisonIn u ck 8 = none → u.seqAdd ck 1 = (v, false) → s.finishItem i n = gone v) ∧
        (∀ v, poisonIn u ck 8 = none → u.seqAdd ck 1 = (v, true) → s.finishItem i n =
          gone (v.async i.ctx { cause := cCOUNTER_OVERFLOW, addr := placeObj i.core.toNat (bCbar b) } i.core.toNat i.pc .c
            (look i.task v.tasks))))
    (bSd b = true → bitsNat (bCval b) 1 0 ≠ 0 → s.finishItem i n = s.itemTrap i i.fault) ∧
    (aligned → s.actionsClear i = false → s.finishItem i n = s.modItem i.id fun x => { x with moved := some n }) ∧
    (aligned → s.actionsClear i = true →
      (bCw b = false → acts s) ∧
      (bCw b = true → s.plogKey i.ctx cw = false → acts ((s.write cw (natBytes (bCval b).toNat 8)).touch cw true)))

/-! ### Pages and the shared pool -/

/-- R375 to R388: trans makes a handle VALID from the stack's cache or PENDING on a walk, whose end makes it VALID, or STALE when
the page is absent or a shoot-down has met it, which is a page fault when a use retranslates; a retranslation that would fault
while a fault of its core is unanswered does not end (R384), which is the model's choice of how that is kept (log entry 125);
hinv clears a handle; splnt writes the 64 entries of a split page and then the pointer to them; hshoot drops what a range of
addresses has cached, then waits for its users; the runtime answers a page fault. The privileged ones trap at P0. -/
def Obligations.PagesAndHandles : Prop :=
  ∀ (s : State) (h xa xb : BitVec 5) (w : Walk) (e t : Nat) (f : PFault) (x : Task) (tr : Trans) (items blocks : List Nat)
    (marks : List (Nat × Nat)),
    let c := s.me
    let k := s.core c
    let slot := s.slotOf c
    let va : VAddr := fld (s.x xa) 0 56
    let hd := vget (s.core w.core.toNat).h w.handle.toNat {}
    let now (u : State) := vget (u.core w.core.toNat).h w.handle.toNat {}
    let pe := bitsNat (s.x xa) 51 3 * 8
    let pt := bitsNat (s.x (xa + 1)) 51 9 * 512
    let step := if (s.x xa).getLsbD 0 then 0x400000 else 0x10000
    let old := rdNat s.mem e 8
    let start := bitsNat (s.x xa) 55 0
    let target : Slot := fld (s.x xb) 0 8
    let pages := bitsNat (s.x xb) 47 16
    let n := Nat.min (pages * 0x10000) (2 ^ 56 - start)
    let held : Prop := w.use.isSome = true ∧ (∃ g ∈ s.faults, g.core = w.core) ∧ ∀ r, s.walk w.slot w.va ≠ .valid r
    let used : Prop := (∃ i ∈ s.items, i.id ∈ items) ∨ (∃ i ∈ s.items, i.st = .queued ∧ i.id ∈ blocks) ∨ ∃ m ∈ marks, (s.core m.1).usesRange m.2 start n = true
    let fid := s.about.k
    let fva : VAddr := fld f.va 0 56
    (∀ r, s.cached (stackOf c) slot va = some r → Does (.trans h xa) s (s.setHandle c h { st := .valid, va := va, tr := some r })) ∧
    (s.cached (stackOf c) slot va = none → ∃ u, Does (.trans h xa) s u ∧
      vget (u.core c).h h.toNat {} = { st := .pending, va := va, walk := s.nextId } ∧ u.nextId = s.nextId + 1 ∧
      u.walks = s.walks ++ [{ id := s.nextId, core := s.about.core, slot := slot, va := va, handle := h }] ∧ s.SameBytes u) ∧
    Does (.hinv h) s (s.setHandle c h {}) ∧
    Does (.hrd xa h) s (s.setX xa (s.handle h).word) ∧
    (s.walks.find? (fun v => v.id = s.about.k) = some w → held → Gives .walkEnd s s) ∧
    (s.walks.find? (fun v => v.id = s.about.k) = some w → ¬ held → hd.walk = w.id → (hd.st = .pending ∨ (hd.st = .stale ∧ w.use ≠ none)) →
      ∃ u, Gives .walkEnd s u ∧ u.walks = s.walks.filter (fun v => v.id != w.id) ∧
        (∀ r, s.walk w.slot w.va = .valid r →
          (w.overlapped = false → now u = { hd with st := .valid, tr := some r }) ∧ (w.overlapped = true → now u = { hd with st := .stale })) ∧
        ((∀ r, s.walk w.slot w.va ≠ .valid r) → now u = { hd with st := .stale } ∧
          ∀ p a, w.use = some p → (s.core w.core.toNat).task = some a →
            ∃ g ∈ u.faults, g.who = .handle w.handle ∧ g.va = w.va.setWidth 64 ∧ g.acc = p.2 ∧ g.task = a)) ∧
    (s.isP1 c = false → Traps (.splnt xa) s (s.privTrap 0) ∧ Traps (.hshoot xa xb) s (s.privTrap 0)) ∧
    (s.isP1 c = true → s.fenceRel 5 = true → physKey s.layeravail pe = some e → physKey s.layeravail pt = some t →
      poisonIn s e 8 = none → (∀ a, e ≤ a → a < e + 8 → s.poolHole a = false) → s.MemWf → s.plogKey slot e = false → s.plogKey slot t = false → (e + 8 ≤ t ∨ t + 512 ≤ e) →
      (∀ v ∈ s.pool, v.2.soils e = false ∧ v.2.soils t = false) →
      (old % 4 ≠ 3 → Traps (.splnt xa) s { cause := cPAGE_ABSENT, addr := BitVec.ofNat 64 pe }) ∧
      (old % 4 = 3 → ∃ u, Does (.splnt xa) s u ∧ rdNat u.mem e 8 = (t ||| 1) % 2 ^ 64 ∧
        (∀ i, i < 64 → rdNat u.mem (t + 8 * i) 8 = old / 2 ^ 52 * 2 ^ 52 + (old + i * step) % 2 ^ 52 / 512 * 512 + old % 512) ∧
        ∀ a, (a < e ∨ e + 8 ≤ a) → (a < t ∨ t + 512 ≤ a) → rdByte u.mem a = rdByte s.mem a)) ∧
    (s.isP1 c = true →
      (start % 0x10000 ≠ 0 → Traps (.hshoot xa xb) s { cause := cMISALIGN, addr := BitVec.ofNat 64 start }) ∧
      (start % 0x10000 = 0 → pages = 0 → Does (.hshoot xa xb) s s) ∧
      (start % 0x10000 = 0 → pages ≠ 0 → k.cmd = none → s.fenceRel 5 = true → ∃ u, Stalls (.hshoot xa xb) s u .other ∧
        (∃ i b m, (u.core c).cmd = some (.hshoot i b m)) ∧
        (∀ r ∈ u.tlb, r ∈ s.tlb ∧ ¬ (r.slot = target ∧ r.page < start + n ∧ start < r.page + pageBytes r.tr.size)) ∧ s.SameBytes u) ∧
      (start % 0x10000 = 0 → pages ≠ 0 → k.cmd = some (.hshoot items blocks marks) →
        (used → Stalls (.hshoot xa xb) s s .other) ∧
        (¬ used → Does (.hshoot xa xb) s (s.modCore c fun k => { k with cmd := none })))) ∧
    (s.faults.find? (fun g => g.fid = fid) = some f → look f.task s.tasks = some x →
      (s.walk f.ctx fva = .valid tr → ∃ u y, Gives .faultcmdRetry s u ∧ look f.task u.tasks = some y ∧
        y.frozen = x.frozen.erase (.pageFault fid) ∧
        (∀ i, f.who = .item i → ∀ v ∈ u.items, v.id = i → v.st = .running) ∧
        (f.who = .handle h → (vget (s.core f.core.toNat).h h.toNat {}).va = fva → (vget (s.core f.core.toNat).h h.toNat {}).st = .stale →
          vget (u.core f.core.toNat).h h.toNat {} = { vget (s.core f.core.toNat).h h.toNat {} with st := .valid, tr := some tr })) ∧
      (∀ st, f.who = .fetch st → Gives .faultcmdAbsent s
        (((s.freeFault fid).raise f.core.toNat st { cause := cPAGE_ABSENT, addr := f.acc }).unfreeze f.task (.pageFault fid))) ∧
      (∀ g, f.who = .handle g → Gives .faultcmdAbsent s
        (((s.freeFault fid).raise f.core.toNat .c { cause := cPAGE_ABSENT, addr := f.acc }).unfreeze f.task (.pageFault fid))))

/-- R391 to R399: poolup and poolev move a slot of the pool by Table 14.9, at P1 and below PLCOUNT; poolscan stores the oldest
resident slots and returns their number. A fill that ends leaves the slot RESIDENT with the bytes of its backing page, a drain
writes a dirty page back and leaves the slot EMPTY, and ages rise by 1 every 100 µs. DIRTY falls with a fill alone. The model's
choices: the ADDR that a slot at or beyond PLCOUNT reports (log entry 59), a fill or a drain as one event with the errors that
it meets (log entry 60), and which slot pages the hub has read (log entry 118). -/
def Obligations.SharedPool : Prop :=
  ∀ (s : State) (d xa xb : BitVec 5) (key : Nat) (x : PoolSlot),
    let c := s.me
    let slot := s.slotOf c
    let n := bitsNat (s.x xa) 14 0
    let m := Nat.min 64 (bitsNat (s.x xa) 39 32)
    let p : PlaceAddr := fld (s.x xa) 0 32
    let g := s.poolNamed
    let l := g.poolOldest m
    let y := s.poolSlot n
    let j := s.about.k
    let entry (i : Nat) := s.hub.plbase.toNat + 32 * i
    let beyond : Trap := { cause := cPAGE_ABSENT, addr := BitVec.ofNat 64 (entry n) }
    let apart (a : Nat) : Prop := a + 65536 ≤ entry j + 25 ∨ entry j + 27 ≤ a
    let now (u : State) (i : Nat) := (look i u.pool).getD {}
    (s.isP1 c = false → Traps (.poolup xa xb) s (s.privTrap 0) ∧ Traps (.poolev xa) s (s.privTrap 0) ∧
      Traps (.poolscan d xa) s (s.privTrap 0)) ∧
    (s.isP1 c = true → s.hub.plcount.toNat ≤ n → Traps (.poolup xa xb) s beyond ∧ Traps (.poolev xa) s beyond) ∧
    (s.isP1 c = true → n < s.hub.plcount.toNat →
      (s.x xb = 0 → s.fenceRel 0 = true → ∃ u, Does (.poolup xa xb) s u ∧
        (y.st = .empty → (∃ a b o, regionOf y.pa = .tower a b o) → s.backed y.pa = true → (∃ a, regionOf y.back = .second a) →
          (now u n).st = .filling ∧ (now u n).ctrs = []) ∧
        (y.st = .filling ∨ y.st = .resident → (now u n).st = y.st) ∧
        (y.st = .draining → (now u n).st = .draining ∧ (now u n).moveup.isSome = true) ∧
        (y.st = .poisoned → (now u n).st = .poisoned ∧ (y.repl ≠ 0 → (now u n).refetch = true))) ∧
      (∃ u, Does (.poolev xa) s u ∧
        (y.pinned = true → (now u n).st = y.st) ∧
        (y.pinned = false →
          (y.st = .resident → (now u n).st = .draining) ∧ (y.st = .filling → (now u n).st = .filling ∧ (now u n).evict = true) ∧
          (y.st = .poisoned → (now u n).st = .empty ∧ (now u n).dirty = y.dirty) ∧
          (y.st = .empty ∨ y.st = .draining → (now u n).st = y.st)))) ∧
    (s.isP1 c = true → s.place c p (offOf p) (4 * m) 64 = .ok key → s.fenceRel 0 = true → g.plogKey slot key = false →
      Does (.poolscan d xa) s
        (((g.write key (l.flatMap fun i => natBytes i 4)).touch key true).setX d (BitVec.ofNat 64 l.length))) ∧
    (l.length ≤ m ∧ ∀ i ∈ l, i < s.hub.plcount.toNat ∧ (g.poolSlot i).st = .resident ∧ (g.poolSlot i).pinned = false) ∧
    (look j s.pool = some x → s.MemWf → x.pa % 65536 = 0 → x.back % 65536 = 0 → x.pa ≠ x.back → apart x.pa → apart x.back →
      (∀ i, i < 1024 → s.backed (x.pa + 64 * i) = true) → (∀ v ∈ s.pool, v.2.soils (entry j + 25) = false) →
      (x.st = .filling → x.ctrs = [] → x.evict = false → (∀ i ∈ s.about.nats, 1024 ≤ i) →
        s.blurred = [] → (∀ i, i < 65536 → ∃ a, regionOf (x.back + i) = .second a) →
        (∀ i, i < 1024 → x.back / 64 + i ∉ s.poison ∧ s.lineLost (x.pa / 64 + i) = false) →
        ∃ u, Gives .poolFillEnd s u ∧ (now u j).st = .resident ∧ (now u j).dirty = false ∧
          ∀ i, i < 65536 → rdByte u.mem (x.pa + i) = rdByte s.mem (x.back + i)) ∧
      (x.st = .draining → x.moveup = none → (∀ i, i < 1024 → x.pa / 64 + i ∉ s.poison) →
        ∃ u, Gives .poolDrainEnd s u ∧ (now u j).st = .empty ∧ (now u j).dirty = x.dirty ∧
          ∀ i, i < 65536 → rdByte u.mem (x.back + i) = rdByte s.mem (if x.dirty then x.pa + i else x.back + i))) ∧
    (s.cycle / 70000 ≤ s.poolAges → Gives .poolAgeTick s s) ∧
    (s.poolAges < s.cycle / 70000 → ∃ u, Gives .poolAgeTick s u ∧ s.SameBytes u ∧ u.poolAges = s.poolAges + 1 ∧
      ∀ i v, look i s.pool = some v → look i u.pool = some { v with age := if v.age = 255 then 255 else v.age + 1 })

/-! ### Contexts -/

/-- R400 to R407, R415, R416: a context command acts in the states of Table 15.3 and from a writer that may give it, and otherwise
leaves only its status; the runtime answers a trap record. The model's choices: TRAPCMD on the writer's own slot answers SELF
(log entry 72), HANDLER with a full pool keeps the handler for later (log entry 73), and ROLLBACK answers its record as it
begins (log entry 71). -/
def Obligations.ContextCommands : Prop :=
  ∀ (s : State) (n t m : Nat) (x : Task) (p : Posted) (r : TrapRec) (b : BitVec 1024) (code : BitVec 8),
    let slot := s.about.slot
    let k := s.ctx slot
    let d := s.readDesc slot
    let rid := s.about.rid.toNat
    let sets (i : Instr) (f : Ctx → Prop) : Prop := ∃ u, Gives i s u ∧ f (u.ctx slot)
    let status (i : Instr) (c : BitVec 8) : Prop := sets i (fun l => l = { k with status := c })
    let v := (s.copyRec slot p).modCtx slot fun l => { l with handlers := l.handlers.filter (· != p.rid) ++ [p.rid] }
    let y := s.queue (131072 + slot.toNat)
    (s.ownCmd = true → status .ctxcmdCreate 4 ∧ status .ctxcmdLoad 4 ∧ status .ctxcmdUnfreeze 4 ∧ status .ctxcmdKill 4 ∧
      status .ctxcmdRollback 4 ∧ status .ctxcmdDestroy 4 ∧ status .trapcmdResume 4 ∧ status .trapcmdHandler 4 ∧
      status .trapcmdKill 4 ∧ status .trapcmdRollback 4) ∧
    (k.st ≠ .loaded → status .ctxcmdStart 1) ∧ (k.st = .loaded → sets .ctxcmdStart fun l => l.st = .running ∧ l.status = 0) ∧
    (k.st ≠ .running → status .ctxcmdFreeze 1) ∧
    (k.st = .running → ∃ u, Gives .ctxcmdFreeze s u ∧ (u.ctx slot).st = .frozen ∧ (look n s.tasks = some x → x.ctx = slot →
      x.st = .running → ∃ z, look n u.tasks = some z ∧ z.wire = true)) ∧
    (s.ownCmd = false →
      (k.st ≠ .destroyed → status .ctxcmdCreate 1) ∧
      (k.st = .destroyed → sets .ctxcmdCreate fun l => l.st = .created ∧ l.desc = d ∧ l.status = 0 ∧ l.openIv = 0) ∧
      (k.st ≠ .created → status .ctxcmdLoad 1) ∧
      (k.st = .created →
        ((s.reread slot).loadStatus d = none → sets .ctxcmdLoad fun l => l.st = .loaded ∧ l.status = 0 ∧ l.desc = d) ∧
        ((s.reread slot).loadStatus d = some code → sets .ctxcmdLoad fun l => l.st = .created ∧ l.status = code)) ∧
      (k.st ≠ .frozen → status .ctxcmdUnfreeze 1) ∧
      (k.st = .frozen → sets .ctxcmdUnfreeze fun l => l.st = .running ∧ l.status = 0 ∧ l.logWait = false) ∧
      (k.st = .destroyed ∨ k.st = .rollingBack ∨ k.st = .dead → status .ctxcmdKill 1) ∧
      (k.st ≠ .destroyed → k.st ≠ .rollingBack → k.st ≠ .dead → ∃ u, Gives .ctxcmdKill s u ∧ (u.ctx slot).st = .dead ∧
        (u.ctx slot).sessions = [] ∧ (u.ctx slot).handlers = [] ∧ ∀ e ∈ u.tasks, e.2.ctx ≠ slot) ∧
      (k.st ≠ .running → k.st ≠ .frozen → status .ctxcmdRollback 1) ∧
      (k.st = .running ∨ k.st = .frozen →
        ((k.openIv = 0 ∨ k.noroll = true) → sets .ctxcmdRollback fun l => l.st = .dead ∧ l.status = 6) ∧
        (1 ≤ k.openIv → k.noroll = false → sets .ctxcmdRollback fun l => l.st = .rollingBack ∨ l.st = .running)) ∧
      (k.st ≠ .created → k.st ≠ .loaded → k.st ≠ .dead → status .ctxcmdDestroy 1) ∧
      (k.st = .created ∨ k.st = .loaded ∨ k.st = .dead → ∃ u, Gives .ctxcmdDestroy s u ∧ (u.ctx slot).st = .destroyed ∧
        (s.ctxAddr slot + 512 ≤ 2 ^ 48 →
          (∀ v ∈ s.pool, v.2.soils (s.ctxAddr slot + 0xC9) = false ∧ v.2.soils (s.ctxAddr slot + 0x110) = false) → ∀ c lv o, c < 1024 → d.colmask.getLsbD c = true → lv < 5 →
          bitsNat (vget d.ext lv 0) 31 0 ≤ o → o < bitsNat (vget d.ext lv 0) 63 32 → rdByte u.mem (keyPlace lv c o) = 0)) ∧
      (s.trapRec slot rid = none → Gives .trapcmdResume s s ∧ Gives .trapcmdHandler s s ∧ Gives .trapcmdKill s s ∧
        Gives .trapcmdRollback s s) ∧
      (s.trapRec slot rid = some p →
        (p.item = .trap r → r.nr = true → Gives .trapcmdResume s s) ∧
        (p.item = .trap r → r.nr = false → p.task = some (t, m) → look t s.tasks = some x → ∃ u z, Gives .trapcmdResume s u ∧
          look t u.tasks = some z ∧ z.frozen = x.frozen.erase (.trap m)) ∧
        Gives .trapcmdKill s (s.ctxcmd slot .kill false) ∧
        ((k.st = .running ∨ k.st = .frozen) ∧ 1 ≤ k.openIv ∧ k.noroll = false →
          Gives .trapcmdRollback s ((s.ctxcmd slot .rollback false).answer slot rid)) ∧
        (¬ ((k.st = .running ∨ k.st = .frozen) ∧ 1 ≤ k.openIv ∧ k.noroll = false) →
          Gives .trapcmdRollback s (s.ctxcmd slot .rollback false)) ∧
        (k.desc.hcard = 0 → Gives .trapcmdHandler s (s.ctxcmd slot .kill false)) ∧
        (k.desc.hcard ≠ 0 → poolSize ≤ v.poolCount → Gives .trapcmdHandler s v) ∧
        (k.desc.hcard ≠ 0 → v.poolCount < poolSize → v.handlerCard slot p.rid = some b →
          v.queueCount (131072 + slot.toNat) < 256 → v.cardFault slot b = none → ∃ u z, Gives .trapcmdHandler s u ∧
          look s.nextTask u.tasks = some z ∧ z.card = Card.of b ∧ z.ctx = slot ∧ z.handler = some (slot, p.rid) ∧
          (u.queue (131072 + slot.toNat)).head = y.head + 1)))

/-- R296, R344, R408 to R413, R440, R441: ctxsave and ctxrest, ckpt and ckwait, and the events of a save: at the rendezvous of a
task a checkpoint is taken, or its save begins, or both in this order, and once all is over its record is kept and its cores are
free. The model's choices: a ckwait of limit 0 that traps at once (log entry 17), the bytes of a checkpoint (log entry 62) and
its drain (log entry 67). -/
def Obligations.SavesAndCheckpoints : Prop :=
  ∀ (s : State) (d a : BitVec 5) (t n m cy : Nat) (x : Task) (v : Saved),
    let c := s.me
    let me := s.slotOf c
    let k := s.ctx me
    let slot : Slot := fld (s.x a) 0 8
    let l := s.ctx slot
    let cmd := (s.core c).cmd
    let iv := bitsNat (s.x a) 31 0
    let limit := 256 * bitsNat (s.x a) 51 32
    let others : Prop := ∃ e ∈ s.started me, e.1 ≠ t
    let id := s.about.k
    let ckptAsked : Prop := x.wantsCkpt = true
    let y : Task := if SaveFor.yield ∈ x.saves then
      { x with saves := x.saves.filter (· != .yield) ++ (if s.needed id = true then [.yielded] else []) } else x
    let cores := s.coresOf id
    let ended (i : Instr) : Prop := ∃ u y, Gives i s u ∧ look id u.tasks = some y ∧ y.saved.isSome = true ∧ y.bound = true ∧
      y.st = (if SaveFor.ctxsave ∈ x.saves then .saved else .ready) ∧ ∀ q, (s.core q).task = some id → (u.core q).task = none
    (s.isP1 c = false → Traps (.ctxsave a) s (s.privTrap 0) ∧ Traps (.ctxrest a) s (s.privTrap 0)) ∧
    (s.isP1 c = true →
      (cmd = some (.ctxsave slot) → l.st = .saving → Stalls (.ctxsave a) s s .other) ∧
      (cmd = some (.ctxsave slot) → l.st ≠ .saving → Does (.ctxsave a) s (s.modCore c fun k => { k with cmd := none })) ∧
      (cmd = none → slot = me → Does (.ctxsave a) s (s.ctxStatus slot 4)) ∧
      (cmd = none → slot ≠ me → l.st ≠ .running → Does (.ctxsave a) s (s.ctxStatus slot 1)) ∧
      (cmd = none → slot ≠ me → l.st = .running →
        (l.desc.savesize.toNat < recordBytes * s.coreCount slot → Does (.ctxsave a) s (s.ctxStatus slot 5)) ∧
        (recordBytes * s.coreCount slot ≤ l.desc.savesize.toNat → ∃ u, Stalls (.ctxsave a) s u .other ∧
          (u.core c).cmd = some (.ctxsave slot) ∧ ((u.ctx slot).st = .saving ∨ (u.ctx slot).st = .saved))) ∧
      (l.st ≠ .saved → Does (.ctxrest a) s (s.ctxStatus slot 1)) ∧
      (l.st = .saved → s.movedNode slot = true → Does (.ctxrest a) s (s.ctxStatus slot 2)) ∧
      (l.st = .saved → s.movedNode slot = false → ∃ u, Does (.ctxrest a) s u ∧ (u.ctx slot).st = .running ∧
        u.net = s.net ++ s.packetsOf slot (fun o => o.saved.isSome) ∧
        (s.tasks = [(n, x)] → x.ctx = slot → x.saved = some v → v.recPa = none →
          originOk x.origin.toNat x.card.w x.card.h = true → s.inMask slot x.origin.toNat x.card.w x.card.h = true →
          ∃ y, look n u.tasks = some y ∧ y.st = .ready ∧ y.bound = true ∧ y.origin = x.origin ∧ y.saved = x.saved))) ∧
    ((s.core c).task = some t → look t s.tasks = some x →
      (cmd = none → (k.ckFull = true ∨ k.ckHold.isSome = true) → Stalls (.ckpt d) s s .other) ∧
      (cmd = none → k.ckFull = false → k.ckHold = none → Stalls (.ckpt d) s
        ((s.modCtx me fun k => { k with ckHold := some s.about.core }).modCore c fun k => { k with cmd := some .ckpt }) .other) ∧
      (cmd = some .ckpt → others → Stalls (.ckpt d) s s .other) ∧
      (cmd = some .ckpt → ¬ others → k.desc.cksize.toNat / 2 < s.ckptBytes t x → Gives (.ckpt d) s
        (((s.modCore c fun k => { k with cmd := none }).modCtx me fun k => { k with ckHold := none }).raise c s.st
          { cause := cCHECKPOINT_FULL, addr := k.desc.ckbase, detail := 1 })) ∧
      (cmd = some .ckpt → ¬ others → s.ckptBytes t x ≤ k.desc.cksize.toNat / 2 → Does (.ckpt d) s
        (((s.modCore c fun k => { k with cmd := none }).askSave t (.ckpt s.about.core)).setX d (BitVec.ofNat 64 (k.openIv + 1))))) ∧
    (iv ≤ k.vouched → (s.core c).cPerformed = true → Does (.ckwait a) s s) ∧
    (iv ≤ k.vouched → (s.core c).cPerformed = false → Stalls (.ckwait a) s s .fence) ∧
    (k.vouched < iv → limit = 0 → Traps (.ckwait a) s { cause := cWAIT_LIMIT, detail := BitVec.ofNat 64 (iv * 2 ^ 32) }) ∧
    (k.vouched < iv → limit ≠ 0 →
      Stalls (.ckwait a) s s (.wait limit 0 (BitVec.ofNat 64 (limit + iv * 2 ^ 32)))) ∧
    (look id s.tasks = some x → x.rendezvous = some (m, cy) → x.wire = false → s.allStand id m = true →
      (x.st = .running → ckptAsked → (∀ q ∈ cores, s.drainedMember q = true) → ∃ u, Gives .safePointRendezvous s u ∧
        (u.ctx x.ctx).openIv = (s.ctx x.ctx).openIv + 1 ∧ (u.ctx x.ctx).ckHold = none ∧ ∃ z, look id u.tasks = some z ∧
          z.st = (if y.mustSave then .saving else .running)) ∧
      (x.st = .running → ckptAsked → (∃ q ∈ cores, s.drainedMember q = false) →
        Gives .safePointRendezvous s (s.modTask id fun _ => y)) ∧
      (x.st = .running → ¬ ckptAsked → y.mustSave = true → ∃ u z, Gives .safePointRendezvous s u ∧
        look id u.tasks = some z ∧ z.st = .saving ∧ z.saved.isSome = true) ∧
      (x.st = .running → ¬ ckptAsked → y.mustSave = false → ∃ u z, Gives .safePointRendezvous s u ∧
        look id u.tasks = some z ∧ z.st = .running ∧ z.saves = [] ∧ z.rendezvous = none) ∧
      (x.st = .saving → (∀ q ∈ cores, s.drainedMember q = true) → ended .safePointRendezvous)) ∧
    (look id s.tasks = some x → x.rendezvous = some (m, cy) → x.st = .saving → (∀ q ∈ cores, s.drainedBut q = true) →
      (x.drainAt + 1400 * (s.ctx x.ctx).desc.drainlim.toNat ≤ s.net2 → ended .saveDrainLimit) ∧
      (s.net2 < x.drainAt + 1400 * (s.ctx x.ctx).desc.drainlim.toNat → Gives .saveDrainLimit s s)) ∧
    (look id s.tasks = some x → x.rendezvous = some (m, cy) → x.st = .running → s.allStand id m = false →
      (s.stallLimit x.origin.toNat ≤ cy → ∃ u y, Gives .rendezvousTimeout s u ∧ look id u.tasks = some y ∧ y.rendezvous = none ∧
        y.st = .running ∧ y.saves = x.saves) ∧
      (cy < s.stallLimit x.origin.toNat → Gives .rendezvousTimeout s s))

/-- R355 to R357, R412: the scan rotation of a stack: its next core drains, or is scanned at once when it is idle; a drain that
takes too long makes the core overdue; a scan that passed counts for the core, and a core that failed leaves dispatch. R25, R79,
R278, R337, R356, R408: a cycle of the core clock ends. GSC of a task that runs or is saved and is not frozen counts once its
first instruction may issue; so do the stalls of its streams, less those that a rendezvous suspends, the waits of its items and
the drain of a scan; memory and every register keep their values. It does not end while a stall on a token queue has to end or
trap in it, a stall wire is to be released, or a save whose drain has reached its limit is to be written. While the module is
not READY only time goes on. The model's choices: an item's wait counts from its acceptance (log entry 113), and what a cycle
waits for before it ends is one event's guard (log entries 2 and 18). -/
def Obligations.ScansAndCycles : Prop :=
  (∀ (s : State) (c t : Nat) (id : CoreId) (x : Task),
    let k := s.about.k
    let r := vget s.scans k {}
    let now (u : State) := vget u.scans k {}
    k < 4 →
    (r.draining = none → r.scanning = none → r.began + s.scanTurn ≤ s.cycle → s.nextScan k = some c →
      ((s.core c).task = none → c < 1024 → ∃ u, Gives .scanStart s u ∧ (now u).scanning = some (BitVec.ofNat 10 c) ∧
        (now u).draining = none ∧ (now u).since = s.cycle ∧ (now u).began = s.cycle) ∧
      ((s.core c).task = some t → c < 1024 → look t s.tasks = some x → ∃ u y, Gives .scanStart s u ∧
        (now u).draining = some (BitVec.ofNat 10 c) ∧ (now u).scanning = none ∧ look t u.tasks = some y ∧
        SaveFor.scan (BitVec.ofNat 10 c) ∈ y.saves)) ∧
    (r.draining.isSome = true ∨ r.scanning.isSome = true ∨ s.cycle < r.began + s.scanTurn → Gives .scanStart s s) ∧
    (r.draining = some id → (s.core id.toNat).task = some t → look t s.tasks = some x → x.st = .running →
      (700000 ≤ r.waited → ∃ u y, Gives .scanDrainTimeout s u ∧ (now u).draining = none ∧ (now u).overdue = r.overdue ++ [id] ∧
        look t u.tasks = some y ∧ SaveFor.scan id ∉ y.saves) ∧
      (r.waited < 700000 → Gives .scanDrainTimeout s s)) ∧
    (r.scanning = some id →
      (s.cycle < r.since + 28000 → Gives .scanEnd s s) ∧
      (r.since + 28000 ≤ s.cycle → s.about.yes = true → ∃ u, Gives .scanEnd s u ∧ (now u).scanning = none ∧
        look id.toNat u.scanned = some r.since ∧ u.scanFailed = s.scanFailed) ∧
      (r.since + 28000 ≤ s.cycle → s.about.yes = false → (∀ e ∈ s.ctxs, ∀ w ∈ e.2.used, w.2.1 ≠ id) →
        ∃ u, Gives .scanEnd s u ∧ (now u).scanning = none ∧ id ∈ u.scanFailed))) ∧
  (∀ s : State,
    let held : Prop := s.cycleOpen = true ∨ s.poolAges < s.cycle / 70000 ∨ s.periods < s.cycle / 700000 ∨
      ∃ e ∈ s.tasks, (e.2.thaws s.cycle = true ∨ s.drainOver e.1 e.2 = true)
    (s.hub.ready = false → Gives .gscAdvance s { s with cycle := s.cycle + 1 }) ∧
    (s.hub.ready = true → held → Gives .gscAdvance s s) ∧
    (s.hub.ready = true → ¬ held → ∃ u, Gives .gscAdvance s u ∧
      (s.gangOuts = [] → (∀ slot, (s.ctx slot).st ≠ .rollingBack ∧ (s.ctx slot).handlers = [] ∧ (s.ctx slot).adds = []) →
        u.cycle = s.cycle + 1 ∧ u.mem = s.mem ∧ u.hub = s.hub ∧ u.ctxs = s.ctxs ∧ u.l0Then = [] ∧
        (∀ n t, look n s.tasks = some t → look n u.tasks = some (if (t.st = .running ∨ t.st = .saving) ∧ t.frozenIn s.cycle = false then
          { t with
            gsc := if t.start ≤ s.cycle then t.gsc + 1 else t.gsc
            rendezvous := t.rendezvous.map fun r => (r.1, r.2 + 1) } else t)) ∧
        (∀ c k st, look c s.cores = some k → ∃ l, look c u.cores = some l ∧ l.x = k.x ∧ l.rows = k.rows ∧
          (l.seq st).pc = (k.seq st).pc ∧
          l.shown = [] ∧ l.rowsThen = [] ∧
          (s.stallCounts k = false → (l.seq st).stall = (k.seq st).stall) ∧
          (s.stallCounts k = true → ∀ n t, k.task = some n → look n s.tasks = some t →
            (l.seq st).stall = (k.seq st).stall.map fun w => { w with
              cycles := if s.stands c st w.why = false then 0
                else if t.rendezvous.isSome ∧ w.why.isWait = false then w.cycles else w.cycles + 1 })) ∧
        (∀ i ∈ s.items, (if i.st = .queued ∨ s.itemFrozen i = true ∨
            (i.st = .accepted ∧ bWt i.block = true ∧ i.fn ≠ 8 ∧ s.phaseShown i = true) then i
          else { i with waited := i.waited + 1 }) ∈ u.items))))

/-! ### Links -/

/-- R425, R427, R438, R444, R445: the link commands of the C-stream. lsopen returns a status or opens a session and returns the
owner's answer; lsclose closes one; lretire sends watermarks, lsync waits for their answers; gang prepares every member, then
commits or aborts, and leaves its status in its descriptor. The model's choices: what lsclose waits for before it sends CLOSE
(log entry 79), and that a descriptor of gang that does not translate, or is poisoned, traps before the fence of R445 (log entry
80). -/
def Obligations.LinkCommands : Prop :=
  ∀ (s u : State) (d a b : BitVec 5) (o : LinkTry) (nonce : X64) (nodes : List Node) (n id : Nat) (g : GangOut) (desc key cnt : Nat)
    (tr : Trans) (t : Trap) (ans : Answer),
    let c := s.me
    let slot := s.slotOf c
    let node : Node := fld (s.x a) 0 12
    let x := s.session slot node
    let cmd := (s.core c).cmd
    let done (w : State) := w.modCore c fun k => { k with cmd := none }
    let w := (s.settleStores slot node).closeSession slot node
    let l := s.named slot (s.x a)
    let put (w : State) (v : Nat) := (w.write (g.desc + 6) (natBytes v 1)).touch (g.desc + 6) true
    (cmd = none →
      (node = s.hub.nodeid → Does (.lsopen d a) s (s.setX d 2)) ∧
      (node ≠ s.hub.nodeid → fld (s.desc c).node 0 12 ≠ s.hub.nodeid → Does (.lsopen d a) s (s.setX d 7)) ∧
      (node ≠ s.hub.nodeid → fld (s.desc c).node 0 12 = s.hub.nodeid →
        (x.st = .opened → Does (.lsopen d a) s (s.setX d 1)) ∧
        (x.st = .opening ∨ x.st = .closing ∨ (x.st = .lost ∧ s.net2 < x.settle) → Stalls (.lsopen d a) s s .other) ∧
        (x.st = .closed ∨ (x.st = .lost ∧ x.settle ≤ s.net2) →
          (64 ≤ (s.ctx slot).liveSessions ∨ 4096 ≤ s.liveSessions → Does (.lsopen d a) s (s.setX d 6)) ∧
          ((s.ctx slot).liveSessions < 64 → s.liveSessions < 4096 → ∃ v, Stalls (.lsopen d a) s v .other ∧
            (v.core c).cmd = some (.lsopen node) ∧ (v.session slot node).st = .opening ∧
            v.net = s.net ++ [.openReq slot node]))) ∧
      (x.st = .closed → Does (.lsclose a) s s) ∧
      (x.st = .opening ∨ x.st = .closing → Stalls (.lsclose a) s s .other) ∧
      (x.st = .opened → Stalls (.lsclose a) s
        ((s.setSession slot node { x with st := .closing, op := none }).modCore c fun k => { k with cmd := some (.lsclose node) })
        .other) ∧
      (x.st = .lost → x.settle ≤ s.net2 → Does (.lsclose a) s w) ∧
      (s.fenceRel 4 = false → Stalls (.lsync a) s s .fence) ∧
      (s.fenceRel 4 = true → (∃ m ∈ s.live slot (s.x a), s.coreWaits c slot m = true) → Stalls (.lsync a) s s .other) ∧
      (s.fenceRel 4 = true → (∀ m ∈ s.live slot (s.x a), s.coreWaits c slot m = false) → l = [] → Does (.lsync a) s s) ∧
      (s.fenceRel 4 = true → (∀ m ∈ s.live slot (s.x a), s.coreWaits c slot m = false) → l ≠ [] → Stalls (.lsync a) s
        ((l.foldl (fun s n => s.startOp slot n) s).modCore c fun k => { k with cmd := some (.lsync l) }) .other) ∧
      (s.gangDesc (s.x a) = .error t → Traps (.gang a b) s t) ∧
      (s.gangDesc (s.x a) = .ok (desc, n) → s.object (s.x b) 8 2 = .key key tr u → u.fenceRel 4 = true →
        (n = 0 ∨ 4096 < n ∨ (u.hubRead desc).get (desc + 8) 4 = 0 → u.me = c → (u.hubRead desc).plogKey (u.slotOf c) desc = false →
          Does (.gang a b) s (done (((u.hubRead desc).write (desc + 6) (natBytes 3 1)).touch (desc + 6) true))))) ∧
    (cmd = some (.lsopen node) →
      (x.op = none → x.st = .opening → Stalls (.lsopen d a) s s .other) ∧
      (x.op = some o → o.answer = some (.ok nonce) → Does (.lsopen d a) s
        ((done (s.setSession slot node { st := .opened, nonce := nonce, lastSent := x.lastSent })).setX d 0)) ∧
      (x.op = some o → o.answer = some ans → (ans = .refused ∨ ans = .ownerFull ∨ ans = .expired) → Does (.lsopen d a) s
        ((done (s.closeSession slot node)).setX d (if ans = .refused then 3 else if ans = .ownerFull then 4 else 5)))) ∧
    (cmd = some (.lsclose node) →
      (x.st = .closing → x.op = none → s.closable slot node = true → Stalls (.lsclose a) s (s.startOp slot node) .other) ∧
      (x.st = .closing → x.op = some o → o.answer = none → Stalls (.lsclose a) s s .other) ∧
      (x.st = .closing → x.op = some o → o.answer ≠ none → Does (.lsclose a) s (done (s.closeSession slot node))) ∧
      (x.st = .lost → x.settle ≤ s.net2 → Does (.lsclose a) s (done w))) ∧
    Does (.lretire a) s (l.foldl (fun s n => s.sendMark slot n) s) ∧
    (∀ m, (s.sendMark slot m).net = s.net ++ [.watermark slot m (s.session slot m).nonce (s.session slot m).w 0]) ∧
    (cmd = some (.lsync nodes) →
      ((∃ m ∈ nodes, (s.session slot m).st = .opened ∧ (s.session slot m).op.isSome = true) → Stalls (.lsync a) s s .other) ∧
      ((∀ m ∈ nodes, (s.session slot m).st = .opened → (s.session slot m).op = none) → Does (.lsync a) s (done s))) ∧
    (cmd = some (.gang id) → s.gangOut id = some g → s.plogKey slot g.desc = false →
      ((∃ p ∈ g.prepared, p = none) → Stalls (.gang a b) s s .other) ∧
      ((∀ p ∈ g.prepared, p = some true) → Does (.gang a b) s (done ((put s 1).gangCommitAll g))) ∧
      (g.members.length = g.prepared.length → g.prepared = List.replicate cnt (some true) ++ [some false] → g.unsent = [] →
        (∀ h ∈ s.gangOuts, h.id = id → h = g) → (∀ e ∈ s.pool, e.2.soils (g.desc + 6) = false ∧ e.2.soils (g.desc + 12) = false) →
        ∃ v, Does (.gang a b) s (done v) ∧ (∀ h, v.gangOut id = some h → h.phase = 2) ∧
          (cnt = 0 → v.gangOut id = none ∧
            ∀ q, q ≠ g.desc + 6 → q ≠ g.desc + 12 → q ≠ g.desc + 13 → rdByte v.mem q = rdByte s.mem q)))

/-- R419, R426, R431 to R436, R438, R441: what reaches a requester: an answer completes its operation, and every other answer is
discarded; a try that has gone unanswered for RTO is made again, and after 16 tries the session is lost, as after 1 ms of BUSY;
heartbeats, settling, the age of packets and the in-doubt list. -/
def Obligations.RequesterEvents : Prop :=
  ∀ (s : State) (o : Outs) (lt : LinkTry) (r : Read) (core : CoreId) (no size : Nat) (q : BitVec 5) (sext : Bool) (v : X64),
    let p := s.about
    let slot := p.slot
    let node := p.node
    let x := s.session slot node
    let live : Prop := x.st = .opened ∨ x.st = .closing
    let mine := x.outs.find? fun (o : Outs) => o.isLoad == p.isLoad && o.serial == p.serial && o.saved.isNone
    let c := core.toNat
    let lost (i : Instr) (n : Option (BitVec 32)) (reason : BitVec 4) : Prop := Gives i s (s.loseSession slot node n reason false)
    let which : Option (BitVec 32) := if o.isLoad then none else some o.serial
    let req := { o.req with w := x.w }
    (p.yes = false → (¬ live ∨ x.nonce ≠ p.nonce ∨ mine = none) → Gives .requesterAnswer s s) ∧
    (p.yes = false → live → x.nonce = p.nonce → mine = some o →
      (p.answer = .ok v → o.hold = none → o.who = .read core no → (s.core c).read no = some r → r.poison = none → r.dst = .x q size sext →
        ∃ u, Gives .requesterAnswer s u ∧ (u.core c).read no = none ∧
          (∀ e, (u.core c).getX e = if e = q ∧ q ≠ 0 then 
              loadValue (if o.isLoad then bytesNat (r.withFwd (natBytes p.data.toNat r.size)) else v.toNat) size sext
            else (s.core c).getX e) ∧
          ∀ e ∈ (u.session slot node).outs, ¬ (e.isLoad = o.isLoad ∧ e.serial = o.serial)) ∧
      (p.answer = .denied → o.hold = none → o.who = .read core no → (s.core c).read no = some r → ((s.core c).seq .c).halted = false →
        ∃ u, Gives .requesterAnswer s u ∧ (u.core c).x = (s.core c).x ∧ ((u.core c).seq .c).halted = true ∧
          (u.core c).tcause = cPAGE_PERM) ∧
      (p.answer = .busy → ∃ u, Gives .requesterAnswer s u ∧ u.cores = s.cores ∧ u.mem = s.mem ∧ (u.session slot node).outs =
        x.outs.map fun e => if e.isLoad = o.isLoad ∧ e.serial = o.serial then
          { e with tries := e.tries - 1, sentAt := s.net2, busyAt := some (e.busyAt.getD s.net2) } else e) ∧
      (p.answer = .retired → lost .requesterAnswer (some o.serial) 4) ∧
      (p.answer = .sessionLost → Gives .requesterAnswer s (s.loseSession slot node none 2 true))) ∧
    (p.yes = true → x.st = .opening → x.op = some lt → lt.answer = none → Gives .requesterAnswer s
      (s.setSession slot node { x with op := some { lt with answer := some p.answer } })) ∧
    (p.yes = true → x.nonce = p.nonce → x.op = some lt →
      (live → p.answer = .sessionLost → Gives .requesterAnswer s (s.loseSession slot node none 2 true)) ∧
      (p.answer ≠ .sessionLost → lt.tag = p.serial →
        (x.st = .closing → Gives .requesterAnswer s (s.setSession slot node { x with op := some { lt with answer := some p.answer } })) ∧
        (x.st = .opened → Gives .requesterAnswer s (s.setSession slot node { x with op := none }))) ∧
      (p.answer ≠ .sessionLost → lt.tag ≠ p.serial → x.st = .opened → Gives .requesterAnswer s s) ∧
      (p.answer ≠ .sessionLost → lt.tag ≠ p.serial → x.st = .closing → Gives .requesterAnswer s (s.setSession slot node x))) ∧
    (p.yes = true → live → x.nonce ≠ p.nonce → Gives .requesterAnswer s s) ∧
    (p.yes = false → live → mine = some o →
      (s.net2 < o.sentAt + o.rto → Gives .retransmitTimeout s s) ∧
      (o.sentAt + o.rto ≤ s.net2 → 16 ≤ o.tries → lost .retransmitTimeout which 1) ∧
      (o.sentAt + o.rto ≤ s.net2 → o.tries < 16 → ∃ u, Gives .retransmitTimeout s u ∧
        u.net = s.net ++ [.request node req req.digest] ∧ u.cores = s.cores ∧ u.mem = s.mem)) ∧
    (p.yes = true → x.op = some lt → lt.answer = none → lt.at_ + lt.rto ≤ s.net2 →
      (lt.tries < 16 → ∃ u, Gives .retransmitTimeout s u ∧ u.net = s.net ++ [x.opPacket slot node] ∧
        (u.session slot node).op = some { lt with tries := lt.tries + 1, at_ := s.net2, rto := s.rto }) ∧
      (16 ≤ lt.tries → x.st = .opened → lost .retransmitTimeout none 1)) ∧
    (live → mine = some o →
      (∀ t, o.busyAt = some t → t + nsToNet 1000000 ≤ s.net2 → lost .busyLimit which 3) ∧
      (∀ t, o.busyAt = some t → s.net2 < t + nsToNet 1000000 → Gives .busyLimit s s) ∧
      (o.busyAt = none → Gives .busyLimit s s)) ∧
    (x.outs = [] → x.withheld = [] → (s.ctx slot).indoubt.length ≤ 65535 → ((s.loseSession slot node none 1 false).session slot node).st = .lost ∧
      ((s.loseSession slot node none 1 false).session slot node).settle = s.net2 + nsToNet 1100000) ∧
    (live → (s.ctx slot).st ≠ .dead → (s.ctx slot).st ≠ .destroyed →
      (x.lastSent + nsToNet 1000 ≤ s.net2 → Gives .heartbeat s (s.sendMark slot node)) ∧
      (s.net2 < x.lastSent + nsToNet 1000 → Gives .heartbeat s s)) ∧
    (x.st = .lost → (x.settle ≤ s.net2 → Gives .sessionSettle s ((s.setSession slot node { x with outs := [] }).settleStores slot node)) ∧
      (s.net2 < x.settle → Gives .sessionSettle s s)) ∧
    Gives .packetExpiry s { s with net := s.net.eraseIdx p.k } ∧
    Gives .idpop s (s.modCtx slot fun k => { k with indoubt := k.indoubt.drop (p.k % 65536) })

/-- R421, R422, R426, R430, R431, R446, R489: an owner's side: a session is opened for a requester with an export, closed, and
expires; a load is answered with its data, a mutating request with a serial that has not been seen runs once and is remembered,
and one that has been seen gets the same answer and changes no byte; a serial too far ahead loses the session, and a full result
cache answers BUSY; gangs are held (16 at a queue, and only at an ENABLED queue of the host), committed, dropped and watched. -/
def Obligations.OwnerEvents : Prop :=
  ∀ (s : State) (x : OSession) (e : RCache) (f : GangHeld),
    let r := s.about.req
    let g := { s.about.gang with node := r.node }
    let h := s.heard r r.w
    let w := ((h.osession r).map (·.w)).getD 0
    let pa := r.pa.toNat
    let replies (i : Instr) (u : State) (a : Answer) (data : BitVec 512) : Prop :=
      Gives i s u ∧ u.net = s.net ++ [.answer r.node r.slot r.serial a data]
    let found := h.rcache.find? fun e => e.of r && e.serial == r.serial
    let new : Prop := found = none ∧ (r.serial - w).toNat < 65536 ∧ h.rcache.length < 65536
    let hole (n : Nat) : Prop := ∃ a, pa ≤ a ∧ a < pa + n ∧ s.poolHole a = true
    let done (a : Answer) : RCache := { node := r.node, slot := r.slot, serial := r.serial, digest := r.digest, answer := a }
    let allowed (g : GangMsg) : Prop := h.granted r g = true ∧ h.requestMapped r = true
    let q := g.queue.toNat
    let k := s.about.k
    let open_ : Prop := s.osession r = some x ∧ x.nonce = r.nonce
    (s.exportsFor r.node r.slot = [] → ∃ u, replies .ownerOpen u .refused 0 ∧ u.osessions = s.osessions) ∧
    (s.exportsFor r.node r.slot ≠ [] → s.osession r = none → 16384 ≤ s.osessions.length → ∃ u, replies .ownerOpen u .ownerFull 0 ∧
      u.osessions = s.osessions) ∧
    (s.exportsFor r.node r.slot ≠ [] → (s.osessions.length < 16384 ∨ (s.osession r).isSome = true) → ∃ u nonce, replies .ownerOpen u (.ok nonce) 0 ∧ nonce ≠ 0 ∧
      u.osession r = some { nonce := nonce, lastAt := s.net2 } ∧ ∀ y ∈ u.rcache, y.of r = false) ∧
    (open_ → ∃ u, replies .ownerClose u (.ok 0) 0 ∧ u.osession r = none ∧ ∀ y ∈ u.rcache, y.of r = false) ∧
    (s.osession r = none ∨ (∃ y, s.osession r = some y ∧ y.nonce ≠ r.nonce) →
      ∃ u, replies .ownerClose u .sessionLost 0 ∧ u.osessions = s.osessions ∧ u.rcache = s.rcache) ∧
    (s.osession r = some x → x.lastAt + nsToNet 1000000 ≤ s.net2 → ∃ u, Gives .ownerSessionExpiry s u ∧ u.osession r = none) ∧
    (s.osession r = some x → s.net2 < x.lastAt + nsToNet 1000000 → Gives .ownerSessionExpiry s s) ∧
    (open_ → r.serial = 0 → Gives .watermarkReceipt s h) ∧
    (open_ → r.serial ≠ 0 → ∃ u, replies .watermarkReceipt u (.ok 0) 0 ∧ u.osessions = h.osessions ∧ u.rcache = h.rcache ∧
      s.SameBytes u) ∧
    (open_ → (1 ≤ (r.w - x.w).toNat ∧ (r.w - x.w).toNat < 2 ^ 31 → h.osession r = some { x with w := r.w, lastAt := s.net2 }) ∧
      ((r.w - x.w).toNat = 0 ∨ 2 ^ 31 ≤ (r.w - x.w).toNat → h.osession r = some { x with lastAt := s.net2 })) ∧
    (s.osession r = none ∨ (∃ y, s.osession r = some y ∧ y.nonce ≠ r.nonce) →
      ∃ u, replies .watermarkReceipt u .sessionLost 0 ∧ u.rcache = s.rcache) ∧
    (r.op.isGang = false → r.size ≤ 64 →
      (s.osession r = none → ∃ u, replies .ownerRequest u .sessionLost 0 ∧ s.SameBytes u) ∧
      (open_ → r.op = .load →
        (allowed {} → poisonIn s pa r.size ≠ none → ∃ u, replies .ownerRequest u .poison 0 ∧ s.SameBytes u) ∧
        (allowed {} → poisonIn s pa r.size = none → hole r.size → ∃ u v, replies .ownerRequest u (.ok 0) v ∧ s.SameBytes u) ∧
        (allowed {} → poisonIn s pa r.size = none → ¬ hole r.size → ∃ u,
          replies .ownerRequest u (.ok 0) (BitVec.ofNat 512 (rdNat s.mem pa r.size)) ∧ s.SameBytes u) ∧
        (¬ allowed {} → ∃ u, replies .ownerRequest u .denied 0 ∧ s.SameBytes u)) ∧
      (open_ → r.op ≠ .load →
        (found = some e → ∃ u, replies .ownerRequest u (if e.digest = r.digest then e.answer else .serialDigest) e.data ∧
          s.SameBytes u ∧ u.rcache = h.rcache) ∧
        (found = none → 2 ^ 31 ≤ (r.serial - w).toNat → ∃ u, replies .ownerRequest u .retired 0 ∧ s.SameBytes u) ∧
        (found = none → 65536 ≤ (r.serial - w).toNat → (r.serial - w).toNat < 2 ^ 31 → ∃ u, replies .ownerRequest u .sessionLost 0 ∧
          s.SameBytes u ∧ u.osession r = none ∧ u.rcache = h.rcache.filter fun y => !y.of r) ∧
        (found = none → (r.serial - w).toNat < 65536 → 65536 ≤ h.rcache.length → ∃ u, replies .ownerRequest u .busy 0 ∧ s.SameBytes u ∧
          u.rcache = h.rcache ∧ u.osessions = h.osessions) ∧
        (new → ¬ allowed {} → ∃ u, replies .ownerRequest u .denied 0 ∧ s.SameBytes u ∧ u.rcache = h.rcache ++ [done .denied]) ∧
        (new → allowed {} → s.MemWf → (∀ y ∈ s.pool, y.2.soils pa = false) → r.op = .store → ∃ u, replies .ownerRequest u (.ok 0) 0 ∧ u.rcache = h.rcache ++ [done (.ok 0)] ∧
          (r.bad = true → ∀ l ∈ linesOf pa r.size, u.poison.contains l = true) ∧
          ∀ a, rdByte u.mem a = if pa ≤ a ∧ a < pa + r.size then fld r.data (8 * (a - pa)) 8 else rdByte s.mem a) ∧
        (∀ fn, new → allowed {} → r.op = .atomic fn → poisonIn s pa r.bytes ≠ none → ∃ u, replies .ownerRequest u .poison 0 ∧
          u.rcache = h.rcache ++ [done .poison] ∧ s.SameBytes u) ∧
        (∀ fn, new → allowed {} → s.MemWf → (∀ y ∈ s.pool, y.2.soils pa = false) → r.op = .atomic fn → poisonIn s pa r.bytes = none →
          ∃ u old, replies .ownerRequest u (.ok old) 0 ∧ u.rcache = h.rcache ++ [done (.ok old)] ∧
          (¬ hole r.bytes → old = BitVec.ofNat 64 (rdNat s.mem pa r.bytes)) ∧
          ∀ a, (a < pa ∨ pa + r.bytes ≤ a) → rdByte u.mem a = rdByte s.mem a))) ∧
    (open_ → new → allowed g →
      (r.op = .prepare →
        (q < 131072 → (s.queue q).st = .enabled → (s.gangs.filter fun h => h.msg.queue == g.queue && !h.armed).length < 16 →
          ∃ u, replies .gangPrepare u .ack 0 ∧ u.gangs = s.gangs ++ [{ msg := g, armed := false, since := s.net2 }]) ∧
        (131072 ≤ q ∨ (s.queue q).st ≠ .enabled ∨ 16 ≤ (s.gangs.filter fun h => h.msg.queue == g.queue && !h.armed).length →
          ∃ u, replies .gangPrepare u .nak 0 ∧ u.gangs = s.gangs)) ∧
      (r.op = .commit →
        (s.gangs.find? (fun h => h.named g && !h.armed) = some f → ∃ u, replies .gangCommit u (.ok 0) 0 ∧
          u.gangs = s.gangs.map fun y => if y = f then { y with armed := true, since := s.net2 } else y) ∧
        (s.gangs.find? (fun h => h.named g && !h.armed) = none → ∃ u, replies .gangCommit u .expired 0 ∧ u.gangs = s.gangs)) ∧
      (r.op = .abort → ∃ u, replies .gangAbort u (.ok 0) 0 ∧ u.gangs = s.gangs.filter fun h => !(h.named g && !h.armed)) ∧
      (r.op = .go → ∃ u, replies .gangGo u (.ok 0) 0 ∧ u.gangs = s.gangs.filter fun h => !(h.named g && h.armed))) ∧
    (s.gangs[k]? = some f →
      (f.armed = false → f.since + 1400 * f.msg.wdog.toNat ≤ s.net2 → Gives .gangHoldExpiry s { s with gangs := s.gangs.eraseIdx k }) ∧
      (f.armed = true → Gives .gangHoldExpiry s s) ∧ (f.armed = false → Gives .gangWatchdogExpiry s s) ∧
      (f.armed = true → f.since + 1400 * f.msg.wdog.toNat ≤ s.net2 → ∃ u, Gives .gangWatchdogExpiry s u ∧
        u.gangs = s.gangs.eraseIdx k ∧ (u.ctx (s.queue f.msg.queue.toNat).ctx).st = .dead) ∧
      (s.net2 < f.since + 1400 * f.msg.wdog.toNat → Gives .gangHoldExpiry s s ∧ Gives .gangWatchdogExpiry s s))

/-! ### The module: bring-up, mailbox, power, host port and repair -/

/-- R454, R455, R456, R466, R468, R469: a mailbox command does its work and leaves its STATUS, 0 or 1 for a bad argument; at the end
of each period the budgets are computed from MODLIM, the fixed power and F of each die; the board controller's commands use the
mailbox as the host's do. The model's choices: the layout of ARGS (log entry 84), and that a failed FWSTAGE takes a staged trial
image away (log entry 87). -/
def Obligations.MailboxAndBudgets : Prop :=
  ∀ s : State,
    let l := natBytes s.hub.mbox.args.toNat 240
    let a (o : Nat) := bytesNat ((l.drop o).take 8)
    let h := s.hub
    let other := ~~~ h.fw.slot
    let image := (vget h.fw.images other.toNat (0, 0, false))
    let host : Prop := 0x8000000000000 ≤ a 0 ∧ a 0 + a 8 ≤ 2 ^ 52
    let img := s.bytesAt (a 0) (a 8)
    let runs (n : Nat) : Prop := s.about.yes = false ∧ h.mbox.running = true ∧ h.mbox.cmd.toNat = n
    let commands : List (Instr × Nat) := [(.keyinst, 1), (.keydel, 2), (.fwstage, 3), (.setlim, 4), (.mboxReset, 5)]
    let board (n : Nat) : Mbox := { h.mbox with cmd := BitVec.ofNat 64 n, args := BitVec.ofNat 1920 (bytesNat s.about.bytes) }
    let f (k : Nat) : Nat :=
      let t := (vget h.temps k 0).toNat
      let x := vget h.factor k 100
      if 95 ≤ t then Nat.max (x - 5) 50 else if t ≤ 90 then Nat.min (x + 1) 100 else x
    (runs 1 →
      (8 ≤ a 0 → a 0 ≤ 63 → Gives .keyinst s ({ s with hub := { h with
        keys := put (a 0) (BitVec.ofNat 768 (bytesNat ((l.drop 8).take 96).reverse)) h.keys } }.mboxEnd 0)) ∧
      (a 0 < 8 ∨ 63 < a 0 → Gives .keyinst s (s.mboxEnd 1))) ∧
    (runs 2 →
      (8 ≤ a 0 → a 0 ≤ 63 → ∃ u : State, Gives .keydel s (u.mboxEnd 0) ∧ u = { s with hub := { h with keys := u.hub.keys } } ∧
        look (a 0) u.hub.keys = none ∧ ∀ i, i ≠ a 0 → look i u.hub.keys = look i h.keys) ∧
      (a 0 < 8 ∨ 63 < a 0 → Gives .keydel s (s.mboxEnd 1))) ∧
    (runs 3 →
      (¬ host → Gives .fwstage s (s.mboxEnd 1)) ∧
      (host → ∃ (u : State) (st : BitVec 8), Gives .fwstage s (u.mboxEnd st) ∧ u = { s with hub := { h with fw := u.hub.fw } } ∧
        u.hub.fw.slot = h.fw.slot ∧ u.hub.fw.pref = h.fw.pref ∧ u.hub.fw.floor = h.fw.floor ∧
        vget u.hub.fw.images h.fw.slot.toNat image = vget h.fw.images h.fw.slot.toNat image ∧
        (u.hub.fw.trial = some other ↔ st = 0) ∧
        (st = 0 ↔ ∃ v sec, Config.firmware img = some (v, sec) ∧ h.fw.floor.toNat ≤ sec.toNat) ∧
        ((∀ q, a 0 ≤ q → q < a 0 + a 8 → s.poolHole q = false) → img = rdBytes s.mem (a 0) (a 8)) ∧
        (∀ v sec, Config.firmware img = some (v, sec) → h.fw.floor.toNat ≤ sec.toNat →
          vget u.hub.fw.images other.toNat image = (v, sec, true)))) ∧
    (runs 4 →
      (1200 ≤ a 0 → a 0 ≤ 2400 → ∃ u : State, Gives .setlim s (u.mboxEnd 0) ∧ u = { s with hub := { h with modlim := u.hub.modlim } } ∧
        u.hub.modlim.toNat = a 0) ∧
      (a 0 < 1200 ∨ 2400 < a 0 → Gives .setlim s (s.mboxEnd 1))) ∧
    (runs 5 → Gives .mboxReset s (s.moduleReset s.about.w0.toNat)) ∧
    (∀ e ∈ commands,
      (s.about.yes = false → h.mbox.running = false ∨ h.mbox.cmd.toNat ≠ e.2 → Gives e.1 s s) ∧
      (s.about.yes = true → h.mbox.running = true → Gives e.1 s s) ∧
      (s.about.yes = true → h.mbox.running = false →
        (e.2 ≤ 3 → h.ready = false → Gives e.1 s { s with hub := { h with mbox := { board e.2 with status := 2 } } }) ∧
        (4 ≤ e.2 ∨ h.ready = true → Gives e.1 s { s with hub := { h with mbox := { board e.2 with running := true } } }))) ∧
    (h.mbox.running = true → s.hubWord 0x808 = 0xFF) ∧ (∀ v : BitVec 8, (s.mboxEnd v).hubWord 0x808 = v.setWidth 64) ∧
    (s.cycle / 700000 ≤ s.periods → Gives .budgetPeriod s s) ∧
    (s.periods < s.cycle / 700000 → ∃ u, Gives .budgetPeriod s u ∧ u = { s with
        periods := s.periods + 1
        hub := { h with factor := u.hub.factor, budget := u.hub.budget, power := u.hub.power, inlet := u.hub.inlet } } ∧
      ∀ k, k < 4 → vget u.hub.factor k 100 = f k ∧
        (vget u.hub.budget k 0).toNat = Nat.min ((h.modlim.toNat * 1000 - s.about.w0.toNat) * f k / 400) 409600)

/-- R439, R451, R452, R462, R469: after a module reset every context slot is DESTROYED, no session, result or task is left, every
byte of the package reads 0, and exactly one of READY and FAILED is set; an uncontained error, as a die that comes to 105 °C is,
sets FATAL and clears READY, with its record and its report, ends a mailbox command that needs READY, and discards the requests
in flight, whether or not READY was 1. The model's choices: what a module reset keeps (log entry 89), that a corrected flit of
an Mbayr port shares the event of the uncontained error (log entry 122), and what the drive is after a retraining (Config.drive,
log entry 98). -/
def Obligations.ModuleEvents : Prop :=
  ∀ s : State,
    let p := s.about
    let k := p.n
    let t := Nat.min p.k 255
    let stops (i : Instr) (v : State) : Prop := ∃ u, Gives i s u ∧ u.hub.fatal = true ∧ u.hub.ready = false ∧ u.net = [] ∧
      u.hub.msgs = v.hub.msgs ++ [.fatal] ∧ u.hub.errcnt = v.hub.errcnt + 1 ∧
      u.hub.mbox = (if v.hub.mbox.running ∧ 1 ≤ v.hub.mbox.cmd.toNat ∧ v.hub.mbox.cmd.toNat ≤ 3 then
        { v.hub.mbox with running := false, status := 2 } else v.hub.mbox) ∧ { u with hub := s.hub, net := s.net } = s
    let warm : State := { s with hub := { s.hub with temps := vset s.hub.temps k (BitVec.ofNat 8 t) } }
    (∃ u, Gives .moduleReset s u ∧ (∀ slot, (u.ctx slot).st = .destroyed) ∧ u.osessions = [] ∧ u.rcache = [] ∧ u.tasks = [] ∧
      u.net = [] ∧ u.poison = [] ∧ u.hub.fatal = false ∧ u.hub.ready = (! u.hub.failed) ∧ u.hub.modlim = 2400#12 ∧
      u.hub.poisonfwd = 0#2 ∧ (∀ n, vget u.hub.temps n 0 = 0) ∧ u.hub.fw.trial = none ∧ u.hub.resets = s.hub.resets + 1 ∧
      (u.hub.ready = true → u.hub.phase = 8#4 ∧ u.hub.code = 0#8 ∧ u.hub.fw.pref = u.hub.fw.slot ∧
        (Config.lanesFound (s.hub.resets + 1) = [] → Config.banksFound (s.hub.resets + 1) = [] → u.repairs.layers = 0 →
          u.hub.errcnt = 0#64) ∧
        u.spares = u.repairs.lanes ∧ u.layeravail = ~~~ u.repairs.layers ∧
        ∀ n, n < 4 → vget u.repairs.sites n none = some ((vget u.kx n 0).toNat, (vget u.ky n 0).toNat)) ∧
      (u.hub.failed = true → u.hub.code ≠ 0#8 ∧ (u.hub.code.toNat ≤ 4 → u.hub.errcnt = 1#64)) ∧
      (∀ a, inPackage a = true → rdByte u.mem a = 0#8) ∧ ∀ a, inPackage a = false → rdByte u.mem a = rdByte s.mem a) ∧
    (p.yes = false → stops .uncontainedError s) ∧
    (p.yes = true → ∃ u, Gives .uncontainedError s u ∧ u.hub.msgs = s.hub.msgs ++ [.correctable] ∧ u.hub.errcnt = s.hub.errcnt + 1 ∧
      u.hub.fatal = s.hub.fatal ∧ u.hub.ready = s.hub.ready ∧ { u with hub := s.hub } = s) ∧
    (t < 105 ∨ 4 ≤ k ∨ 105 ≤ (vget s.hub.temps k 0).toNat → Gives .dieTemperatureChange s warm) ∧
    (105 ≤ t → k < 4 → (vget s.hub.temps k 0).toNat < 105 → stops .dieTemperatureChange warm) ∧
    ((vget s.hub.ports k {}).contained = true → Gives .nvmePortRetrained s { s with fresh := s.fresh + 1, hub := { s.hub with
      ports := vset s.hub.ports k { Config.drive k s.fresh with contained := false } } }) ∧
    ((vget s.hub.ports k {}).contained = false → Gives .nvmePortRetrained s s)

/-- R314, R450, R453, R459, R464, R466: what the host does. It reads and writes the host-managed range, where a poisoned line
returns data marked poison; it reads the registers and its configuration space, and sets its own settings there; it writes the
registers of the hub range, of which those that are read-only take nothing; a command reaches the mailbox; and before READY a
request to any other register of BAR0 completes as Unsupported Request. The model's choices: the host's settings come through
the memory events (log entry 94), what an offset without a register reads (log entry 95), STATUS 1 for an unknown CMD (log entry
85), base registers that take multiples of 4 KiB (log entry 88), and the turn of a kick (log entry 116). -/
def Obligations.HostPort : Prop :=
  ∀ (s : State) (pa : Nat),
    let p := s.about
    let h := s.hub
    let o := p.addr.toNat
    let bs := p.bytes
    let v : X64 := BitVec.ofNat 64 (bytesNat bs)
    let page := v &&& 0xFFFFFFFFFFFFF000#64
    let served (n : Nat) : Prop := (h.ready = true ∧ o + n ≤ 0x100000000) ∨ o + n ≤ 0x1000 ∨ (0x10000 ≤ o ∧ o + n ≤ 0x12000)
    let reg (i : Nat) (f : Hub) : Prop := o = i → Gives .registerWrite s { s with hub := f }
    (h.ready = true → h.hdmBase ≤ o → o + p.k ≤ h.hdmBase + h.hdmSize → h.hdmSize ≤ 0x14000000000 →
      s.hdm p.k = some (o - h.hdmBase)) ∧
    (h.ready = false → s.hdm p.k = none) ∧
    (p.rid = 1 → Gives .hostMemRead s (s.hostMsg (.classCode 0x1200))) ∧
    (p.rid = 2 → Gives .hostMemRead s (s.hostMsg (.memoryActive h.ready))) ∧
    (p.rid ≠ 1 → p.rid ≠ 2 → p.yes = true → o < 0x100000000 →
      (served p.k → Gives .hostMemRead s (s.hostMsg (.data (s.hubBytes (0x2000000000000 + o) p.k) false))) ∧
      (¬ served p.k → Gives .hostMemRead s (s.hostMsg .unsupported))) ∧
    (p.rid ≠ 1 → p.rid ≠ 2 → p.yes = false →
      (s.hdm p.k = none → Gives .hostMemRead s s) ∧
      (s.hdm p.k = some pa → ∃ u data, Gives .hostMemRead s u ∧ u.mem = s.mem ∧
        u.hub.msgs = h.msgs ++ [.data data (poisonIn s pa p.k).isSome] ∧
        ((∀ a, pa ≤ a → a < pa + p.k → s.poolHole a = false) → data = rdBytes s.mem pa p.k))) ∧
    (p.rid = 1 → Gives .hostMemWrite s { s with hub := { h with hdmBase := o, hdmSize := Nat.min p.w0.toNat 0x14000000000 } }) ∧
    (p.rid = 2 → Gives .hostMemWrite s { s with hub := { h with cxlCache := p.yes } }) ∧
    (p.rid = 3 → Gives .hostMemWrite s { s with hub := { h with severity := p.yes } }) ∧
    (p.rid ≠ 1 → p.rid ≠ 2 → p.rid ≠ 3 →
      (s.hdm bs.length = none → Gives .hostMemWrite s s) ∧
      (s.hdm bs.length = some pa → (∀ e ∈ s.pool, e.2.soils pa = false) → ∃ u, Gives .hostMemWrite s u ∧ u.mem = wrBytes s.mem pa bs ∧
        u.hub.msgs = h.msgs ++ [.written] ∧
        (p.yes = true → ∀ l ∈ linesOf pa bs.length, l ∈ u.poison) ∧
        (p.yes = false → ∀ l ∈ u.poison, l ∈ s.poison ∧ (¬ (pa ≤ 64 * l ∧ 64 * l + 64 ≤ pa + bs.length) ∨ s.lineLost l = true)) ∧
        { u with mem := s.mem, poison := s.poison, wbuf := s.wbuf, banks := s.banks, pool := s.pool, hub := { u.hub with msgs := h.msgs } } = s)) ∧
    (bs.length = 8 →
      reg 0x040 { h with poisonfwd := v.setWidth 2 } ∧
      (o ∈ ([0x000, 0x008, 0x010, 0x020, 0x028, 0x030, 0x038, 0x048, 0x050] : List Nat) → Gives .registerWrite s s) ∧
      (h.ready = false → 0x1000 ≤ o → o < 0x100000000 → Gives .registerWrite s s) ∧
      (h.ready = true →
        reg 0x1010 { h with qtbase := page } ∧ reg 0x1018 { h with gtbase := page } ∧ reg 0x1058 { h with ctbase := page } ∧
        reg 0x1078 { h with expbase := page } ∧ reg 0x1088 { h with ktbase := page } ∧ reg 0x1060 { h with fhctx := v.setWidth 8 } ∧
        (11 ≤ bitsNat v 6 0 → bitsNat v 6 0 ≤ 100 → reg 0x1028 { h with scanper := v.setWidth 7 }) ∧
        (bitsNat v 6 0 < 11 ∨ 100 < bitsNat v 6 0 → reg 0x1028 h) ∧
        (1000 ≤ bitsNat v 19 0 → bitsNat v 19 0 ≤ 1000000 → reg 0x1070 { h with rto := v.setWidth 20 }) ∧
        (bitsNat v 19 0 < 1000 ∨ 1000000 < bitsNat v 19 0 → reg 0x1070 h) ∧
        (s.sessionOpen = true → reg 0x1068 h) ∧ (s.sessionOpen = false → reg 0x1068 { h with nodeid := v.setWidth 12 }) ∧
        (∀ q, q < 131072 → o = 0x40000000 + 0x1000 * q →
          (s.kickTurn 0 = true → Gives .registerWrite s ({ s with kickAt := (s.cycle, 0) }.kickQueue q v)) ∧
          (s.kickTurn 0 = false → Gives .registerWrite s s)) ∧
        (s.poolEmpty = false → reg 0x1038 h ∧ reg 0x1040 h) ∧ (s.poolEmpty = true → reg 0x1038 { h with plbase := page })) ∧
      (h.mbox.running = true → reg 0x800 h) ∧
      (h.mbox.running = false →
        (1 ≤ v.toNat → v.toNat ≤ 3 → h.ready = false → reg 0x800 { h with mbox := { h.mbox with cmd := v, status := 2 } }) ∧
        ((1 ≤ v.toNat ∧ v.toNat ≤ 3 ∧ h.ready = true) ∨ v.toNat = 4 ∨ v.toNat = 5 →
          reg 0x800 { h with mbox := { h.mbox with cmd := v, running := true } }) ∧
        (v.toNat = 0 ∨ 5 < v.toNat → reg 0x800 { h with mbox := { h.mbox with cmd := v, status := 1 } }))) ∧
    (h.ready = false → 0x1000 ≤ o → o < 0x100000000 → p.yes = true ∨ o < 0x10000 ∨ 0x12000 ≤ o →
      Gives .bar0UnsupportedRequest s (s.hostMsg .unsupported)) ∧
    (h.ready = true ∨ o < 0x1000 ∨ (p.yes = false ∧ 0x10000 ≤ o ∧ o < 0x12000) ∨ 0x100000000 ≤ o →
      Gives .bar0UnsupportedRequest s s)

/-- R457, R458: the seven SPDM requests have their response, and any other request has UnsupportedRequest, each with the signature
of slot 1; measurement 4 is the digest of the key slots, and the algorithms are the one curve and SHA-384. The response codes
and the layout of ALGORITHMS are DMTF's (log entry 86), and what the spec does not state of a response is a free value. -/
def Obligations.SpdmAnswers : Prop :=
  ∀ s : State,
    let h := s.hub
    let free (code n : Nat) := (List.range n).map (Config.spdmByte code)
    let m (i : Nat) := natBytes i 1 ++ natBytes (if i = 4 then Config.keyDigest h.keys else Config.measurement i h.resets).toNat 48
    let k := s.about.k
    let signed (code : Nat) (l : List Byte) : List Byte :=
      l ++ natBytes (deviceSign (natBytes 0x12 1 ++ natBytes code 1 ++ l) s.fresh).toNat 96
    let algorithms : List Byte :=
      natBytes 0x00280000 4 ++ natBytes 0x00040001 4 ++ natBytes 0 4 ++ natBytes 0x00020000 4 ++ natBytes 0 14 ++ natBytes 1 4 ++ natBytes 0x00310001 4
    let replies (i : Instr) (code : Nat) (l : List Byte) : Prop :=
      (h.answersSpdm = true → Gives i s { s with
        fresh := s.fresh + 1, hub := { h with msgs := h.msgs ++ [.spdm (BitVec.ofNat 8 code) (signed code l)] } }) ∧
      (h.answersSpdm = false → Gives i s s)
    replies .getVersion 0x04 (free 0x04 2 ++ natBytes 0x1200 2) ∧
    replies .getCapabilities 0x61 (free 0x61 16) ∧
    replies .negotiateAlgorithms 0x63 algorithms ∧
    replies .getDigests 0x01 (free 0x01 48) ∧
    replies .getCertificate 0x02 ((List.range s.about.n).map fun i => Config.certificate (k + i)) ∧
    replies .challenge 0x03 s.about.bytes ∧
    (1 ≤ k → k ≤ 4 → replies .getMeasurements 0x60 (m k)) ∧
    (k = 0 ∨ 4 < k → replies .getMeasurements 0x60 (m 1 ++ m 2 ++ m 3 ++ m 4)) ∧
    replies .spdmUnsupported 0x7F (natBytes 0x07 1)

/-- R17, R82 to R84, R98, R100, R109 to R113, R115: a write buffer drains and a corrected line is written back with no effect that
is observed; a scrub corrects one error of each codeword of a row without erasures and poisons the line otherwise; a failed bank
is rebuilt into the spare, and a second one poisons every row with two erasures and retires the layer; a lane with two errors
within 1 ms is steered onto the spare, and with none left the layers above are retired; a retired layer leaves the address map,
with its contents, once no context holds an allotment in it. The model's choices: the repair record is written at every change
(log entry 101), a rebuild's position is an input (log entry 27), the symbols in error that a scrub meets are an input (log
entry 30), and all rows with two erasures are poisoned at the failure (log entry 26). -/
def Obligations.Upkeep : Prop :=
  ∀ (s : State) (c layer g i j : Nat),
    let p := s.about
    let key := groupKey c layer g
    let b := s.bank key
    let row := p.k
    let line := rowLine c layer g row
    let t := s.walkTo key p.w0.toNat (rowsOf layer)
    let gone := (t.bank key).erased row
    let bad (x : Nat) := (p.nats.eraseDups.filter fun n => n % 4 == x && decide (n / 4 < 18) && !gone.contains (n / 4)).length
    let seg := p.level.toNat
    let lane := p.core.toNat * 128 + seg * 32 + p.n
    let layer' := p.level.toNat
    let has (r : Nat) : Prop := r < b.walked ∨ r ∈ b.written ∨ (b.rebuilding.isSome = true ∧ r < Nat.min p.w0.toNat (rowsOf layer))
    Gives .correctedWriteBack s { s with soft := s.soft.filter (· != p.k) } ∧
    (s.aboutGroup = some (c, layer, g) →
      Gives .writeBufferDrain s { s with wbuf := s.wbuf.filter fun l => !(lineGroup l).any fun e => e.1 == key } ∧
      (row < rowsOf layer → layerIn s.layeravail (stackOf c) layer = true → line ∉ s.wbuf →
        (b.failed = [] → gone = []) ∧
        (b.failed = [j] → b.spareFor = some j → (has row → gone = []) ∧ (¬ has row → gone = [j])) ∧
        ((∀ x, x < 4 → bad x = 0) → Gives .scrub s t) ∧
        (gone = [] → (∀ x, x < 4 → bad x ≤ 1) → (∃ x, x < 4 ∧ bad x = 1) → ∃ u, Gives .scrub s u ∧ u.mem = s.mem ∧
          u.poison = s.poison ∧ line ∈ u.soft) ∧
        ((gone ≠ [] ∧ ∃ x, x < 4 ∧ 1 ≤ bad x) ∨ (∃ x, x < 4 ∧ 2 ≤ bad x) → Gives .scrub s (t.poisonLine line))) ∧
      (p.k < 18 → p.k ∉ b.failed →
        (b.failed = [] → b.replaced = [] → ∃ u, Gives .bankMarkedFailed s u ∧ u.mem = s.mem ∧ u.poison = s.poison ∧
          u.cores = s.cores ∧ u.bank key = { failed := [p.k], rebuilding := some p.k, spareFor := some p.k } ∧
          look key u.repairs.banks = some { failed := [p.k] } ∧ ∀ n, n ≠ key → u.bank n = s.bank n) ∧
        (b.failed = [j] → b.spareFor = some j → ∃ u, Gives .bankMarkedFailed s u ∧ u.mem = s.mem ∧ (u.bank key).failed = [j, p.k] ∧
          (u.bank key).rebuilding = none ∧ (∀ r, r < rowsOf layer → ¬ has r → rowLine c layer g r ∈ u.poison) ∧
          (∀ l ∈ u.poison, l ∈ s.poison ∨ ∃ r, r < rowsOf layer ∧ ¬ has r ∧ l = rowLine c layer g r) ∧
          (layerIn s.layeravail (stackOf c) layer = true → layerIn u.retiring (stackOf c) layer = true))) ∧
      (b.rebuilding = some i →
        (s.cycle % 8 = 0 →
          Gives .rebuildComplete s (s.setBank key { failed := b.failed.filter (· != i), replaced := [i] }).recordRepairs) ∧
        (s.cycle % 8 ≠ 0 → Gives .rebuildComplete s s))) ∧
    (seg < 4 → p.n < 32 → s.cycle % 8 = 0 →
      (p.yes = false → s.laneFails lane = false → Gives .laneRetirement s s) ∧
      (p.yes = true ∨ s.laneFails lane = true →
        (lane ∉ s.spares → ∃ u, Gives .laneRetirement s u ∧ u.spares = setIns lane s.spares ∧ u.repairs.lanes = u.spares ∧
          u.mem = s.mem ∧ u.retiring = s.retiring ∧ u.layeravail = s.layeravail) ∧
        (lane ∈ s.spares → ∃ u, Gives .laneRetirement s u ∧ u.mem = s.mem ∧ u.layeravail = s.layeravail ∧
          ∀ k, seg < k → k ≤ 4 → layerIn s.layeravail (stackOf p.core.toNat) k = true →
            layerIn u.retiring (stackOf p.core.toNat) k = true))) ∧
    (p.n < 4 → 1 ≤ layer' → layer' ≤ 4 → layerIn s.retiring p.n layer' = true →
      (s.layerFree p.n layer' = false → Gives .recoveryPoint s s) ∧
      (s.layerFree p.n layer' = true → ∃ u, Gives .recoveryPoint s u ∧ layerIn u.layeravail p.n layer' = false ∧
        layerIn u.repairs.layers p.n layer' = true ∧
        (∀ n k, n < 4 → 1 ≤ k → k ≤ 4 → ¬ (n = p.n ∧ k = layer') → layerIn u.layeravail n k = layerIn s.layeravail n k) ∧
        ∀ a, rdByte u.mem a = if inLayer p.n layer' a then 0#8 else rdByte s.mem a))

/-! ### Reset, encodings, and what every step keeps -/

/-- R8, R439, R452, R468: the machine right after reset. Every CSR has its At reset value, every steer register is EMPTY and UNSET,
every context slot is DESTROYED, no session and no result is left, MODLIM is 2400, and memory is in its canonical form. -/
def Obligations.ResetValues : Prop :=
  let s := State.reset
  (∀ c n v, ((n, v) : BitVec 12 × X64) ∈ ([(0x000, 0x11), (0x001, 0), (0x002, 0), (0x003, 0), (0x004, 0), (0x005, 0x7BDEF), (0x011, 0),
      (0x012, 0), (0x014, 0x3721862195218421), (0x016, 0), (0x030, 70000), (0x031, 0), (0x032, 0), (0x033, 0), (0x034, 0), (0x040, 0)] :
      List (BitVec 12 × X64)) → s.csr c n = some v) ∧
  (∀ c st i, s.steer c st i = {}) ∧ (∀ slot, (s.ctx slot).st = .destroyed) ∧ s.osessions = [] ∧ s.rcache = [] ∧
  s.hub.modlim = 2400#12 ∧ s.hub.nodeid = 0#12 ∧ s.hub.rto = 4000#20 ∧ s.hub.scanper = 20#7 ∧ s.hub.poisonfwd = 0#2 ∧
  s.hub.errcnt = 0#64 ∧ (∀ q, s.qstat q = 0#64) ∧ s.OneStatus ∧ s.MemWf

/-- R149: an instruction that is well formed is encoded by a word of its stream, and that word decodes to it, every operand at every
value that its encoding admits. -/
def Obligations.DecodeEncode : Prop :=
  ∀ (i : Instr) (st : Stream), i.wf = true → i.inStream st = true → decode st (encode i) = some i

/-- R149: a word has one meaning: where it decodes to an instruction, the instruction is well formed, it is one of the stream, and
the word is its encoding, so that every other setting of a bit that its layout fixes is refused. -/
def Obligations.EncodeDecode : Prop :=
  ∀ (w : IWord) (st : Stream) (i : Instr), decode st w = some i → i.wf = true ∧ i.inStream st = true ∧ encode i = w

/-- The words that chapters 05 to 16 write out for an instruction (R150, R198, R199, R204, R217, R264, R302, R322, R325, R331, R343,
R409 and the examples and tables of those chapters) decode to it, and those that they show as illegal in a stream to none. -/
def Obligations.DecodeKnownWords : Prop :=
  (∀ e ∈ ([
    (.c, 0xFC000000#32, some (.nop)), (.c, 0xFC000001#32, none), (.s, 0xFC000001#32, some (.nopDA ⟨0, 1⟩)), (.l, 0x40000000#32, none),
    (.c, 0x84832968#32, some (.ldxHandle 4 3 5 2 6 8)), (.c, 0x4C00010C#32, some (.prep 2 12)), (.c, 0x54000101#32, some (.xferT 2)),
    (.l, 0x06830076#32, some (.ldv 40 3 7 ⟨1, 2⟩)), (.a, 0x672C3178#32, some (.fadd ⟨50, 48, 49, 3, 1, ⟨2, 0⟩⟩)),
    (.a, 0xC4828000#32, some (.rep 16 1 1 0)), (.a, 0x07204210#32, some (.vadd ⟨50, 1, 2, 0, 1, ⟨0, 0⟩⟩)),
    (.c, 0x80A10060#32, some (.ldxPlace 5 1 0 6 0)), (.c, 0x40051880#32, some (.cmp 0 5 3 1)), (.c, 0x54000081#32, some (.xferT 1)),
    (.c, 0x4C00008B#32, some (.prep 1 11)), (.c, 0x4C000101#32, some (.prep 2 1)), (.c, 0x1884FFFF#32, some (.addi 4 4 65535)),
    (.c, 0x70050040#32, some (.tksend 5 2))] : List (Stream × IWord × Option Instr)), decode e.1 e.2.1 = e.2.2) ∧
  (∀ e ∈ ([
    (.c, 0xA4823500#32, some (.ataddHandle 4 2 6 10 0)), (.c, 0xF0000182#32, some (.fenceSc 3)), (.c, 0xF0000081#32, some (.fenceRel 1)),
    (.c, 0xF5200040#32, some (.csrr 9 4)), (.c, 0xF8000381#32, some (.trap 7)), (.c, 0xF80A5803#32, some (.iinv 10 11)),
    (.c, 0xF8000002#32, some (.eret)), (.c, 0xF8000004#32, some (.halt)), (.c, 0xF8000005#32, some (.dbgbrk)),
    (.c, 0x61080006#32, some (.loop 1 8 6)), (.c, 0x640000E4#32, some (.loopc 0 1 100)), (.c, 0x6A000000#32, some (.lend 2)),
    (.l, 0x2C000070#32, some (.ainc 0 7 ⟨0, 0⟩)), (.l, 0x2C000004#32, some (.ainc 0 0 ⟨1, 0⟩)),
    (.l, 0x08428000#32, some (.ldvd 4 2 1 0 ⟨0, 0⟩)), (.l, 0x10060020#32, some (.ldsc 6 2 ⟨0, 0⟩)),
    (.s, 0x4C010030#32, some (.note 1 3 ⟨0, 0⟩)), (.l, 0x28050104#32, some (.waita 5 16 ⟨1, 0⟩))] : List (Stream × IWord × Option Instr)), decode e.1 e.2.1 = e.2.2) ∧
  (∀ e ∈ ([
    (.l, 0x20000020#32, some (.mark 2 ⟨0, 0⟩)), (.s, 0x24000030#32, some (.fenceD 3 ⟨0, 0⟩)), (.s, 0x50000001#32, some (.lfence ⟨0, 1⟩)),
    (.l, 0xE0040040#32, some (.loopDA 0 4 4 ⟨0, 0⟩)), (.l, 0xE8000000#32, some (.lendDA 0 ⟨0, 0⟩)),
    (.s, 0xF1400004#32, some (.xferTDA 1 ⟨1, 0⟩)), (.c, 0x28200000#32, some (.lim 1 0)), (.c, 0x28401000#32, some (.lim 2 4096)),
    (.c, 0x2C482000#32, some (.lih 2 1 8192)), (.c, 0x70010020#32, some (.tksend 1 1)), (.c, 0x70020060#32, some (.tksend 2 3)),
    (.c, 0x74600060#32, some (.tkrecv 3 3)), (.l, 0x0480000F#32, some (.ldv 8 0 0 ⟨3, 3⟩)), (.a, 0xBCA00000#32, some (.vtype 5 0 ⟨0, 0⟩)),
    (.a, 0xBE200000#32, some (.vtype 17 0 ⟨0, 0⟩)), (.a, 0x07040000#32, some (.vadd ⟨48, 16, 0, 0, 0, ⟨0, 0⟩⟩)),
    (.a, 0xC4A20000#32, some (.rep 20 1 0 0)), (.a, 0x07204200#32, some (.vadd ⟨50, 1, 2, 0, 0, ⟨0, 0⟩⟩))] : List (Stream × IWord × Option Instr)), decode e.1 e.2.1 = e.2.2) ∧
  (∀ e ∈ ([
    (.a, 0xC4000000#32, some (.rep 0 0 0 0)), (.a, 0x04108307#32, some (.vadd ⟨1, 2, 3, 0, 0, ⟨1, 3⟩⟩)),
    (.a, 0xC4208000#32, some (.rep 4 0 1 0)), (.a, 0xAC310500#32, some (.vslide ⟨3, 4, 5, 0, 0, ⟨0, 0⟩⟩)),
    (.a, 0x70A2CC00#32, some (.ffma ⟨10, 11, 12, 0, 0, ⟨0, 0⟩⟩)), (.a, 0x81210500#32, some (.vcmp ⟨2, 2, 4, 5, 0, ⟨0, 0⟩⟩)),
    (.a, 0xB9060000#32, some (.vcmpjAny 1 3 ⟨0, 0⟩)), (.a, 0x9C204500#32, some (.vnarrow ⟨2, 1, 2, 1, 0, 0, ⟨0, 0⟩⟩)),
    (.a, 0xA4407400#32, some (.pxunp ⟨4, 1, 26, 0, 0, 0, ⟨0, 0⟩⟩)), (.a, 0x10510210#32, some (.vsubs ⟨5, 4, 2, 0, 1, ⟨0, 0⟩⟩)),
    (.a, 0x20614300#32, some (.vmulq ⟨6, 5, 3, 0, 0, ⟨0, 0⟩⟩)), (.a, 0xA871B400#32, some (.pxpak ⟨7, 6, 26, 0, 0, 0, ⟨0, 0⟩⟩)),
    (.a, 0x7C920600#32, some (.vrsum ⟨9, 8, 0, 0, ⟨0, 0⟩⟩)), (.a, 0xB5062000#32, some (.pand 2 3 4 ⟨0, 0⟩)),
    (.a, 0xB68010C0#32, some (.pset 5 16 ⟨0, 0⟩)), (.a, 0xE8800000#32, some (.lendR 0 ⟨0, 0⟩)),
    (.a, 0xC0D50000#32, some (.mcfg 13 20 ⟨0, 0⟩)), (.a, 0xC0F3C000#32, some (.mcfg 15 15 ⟨0, 0⟩))] : List (Stream × IWord × Option Instr)), decode e.1 e.2.1 = e.2.2) ∧
  (∀ e ∈ ([
    (.a, 0xC0000204#32, some (.mwl ⟨1, 0⟩)), (.a, 0xC0000300#32, some (.mswap ⟨0, 0⟩)), (.a, 0xC0000404#32, some (.mma 0 ⟨1, 0⟩)),
    (.a, 0xC0100407#32, some (.mma 1 ⟨1, 3⟩)), (.a, 0xC0000504#32, some (.mmas 0 ⟨1, 0⟩)), (.a, 0xC0100100#32, some (.mzero 1 ⟨0, 0⟩)),
    (.c, 0xE0070004#32, some (.cpyPlace 7)), (.c, 0xE007000C#32, some (.cpyxPlace 7)), (.c, 0xE0022810#32, some (.cpymHandle 2 5)),
    (.c, 0xE004001C#32, some (.strmPlace 4)), (.c, 0xE0030024#32, some (.fexPlace 3)), (.c, 0xE009002C#32, some (.scrbPlace 9)),
    (.c, 0xC0080000#32, some (.kinv 8)), (.c, 0x18800064#32, some (.addi 4 0 100)), (.c, 0xC0000003#32, some (.texit)),
    (.c, 0xC0640001#32, some (.spawn 3 4)), (.c, 0xC0053002#32, some (.kick 5 6)), (.c, 0xE0070034#32, some (.nvrdPlace 7))] : List (Stream × IWord × Option Instr)), decode e.1 e.2.1 = e.2.2) ∧
  (∀ e ∈ ([
    (.c, 0xE007003C#32, some (.nvwrPlace 7)), (.c, 0xC4000000#32, some (.gsync)), (.c, 0xC4000001#32, some (.yield)),
    (.c, 0xC80A5800#32, some (.bari 10 11)), (.c, 0xC80A6001#32, some (.barm 10 12)), (.c, 0xC80A6802#32, some (.bara 10 13)),
    (.c, 0xC80A7003#32, some (.bwait 10 14)), (.c, 0xC92A0004#32, some (.btest 9 10)), (.c, 0xC814A805#32, some (.sqadd 20 21)),
    (.c, 0xCAF4B006#32, some (.sqwait 20 22 23)), (.c, 0xCB140007#32, some (.sqrd 24 20)), (.c, 0xCC670000#32, some (.trans 3 7)),
    (.c, 0xCC030001#32, some (.hinv 3)), (.c, 0xCD230002#32, some (.hrd 9 3)), (.c, 0xCC0A0003#32, some (.splnt 10)),
    (.c, 0xCC0A6004#32, some (.hshoot 10 12)), (.c, 0xCC0C6805#32, some (.poolup 12 13)), (.c, 0xCC0C0006#32, some (.poolev 12))] : List (Stream × IWord × Option Instr)), decode e.1 e.2.1 = e.2.2) ∧
  (∀ e ∈ ([
    (.c, 0xCD2C0007#32, some (.poolscan 9 12)), (.c, 0xD00B0002#32, some (.ctxsave 11)), (.c, 0xD00C0003#32, some (.ctxrest 12)),
    (.c, 0xD1200000#32, some (.ckpt 9)), (.c, 0xD00A0001#32, some (.ckwait 10)), (.c, 0xD52A0000#32, some (.lsopen 9 10)),
    (.c, 0xD40A0001#32, some (.lsclose 10)), (.c, 0xD40A0002#32, some (.lsync 10)), (.c, 0xD40A0003#32, some (.lretire 10)),
    (.c, 0xD40C6804#32, some (.gang 12 13)), (.c, 0xE0070044#32, some (.credPlace 7)), (.c, 0xE0022840#32, some (.credHandle 2 5)),
    (.s, 0x2C010004#32, some (.ainc 1 0 ⟨1, 0⟩)), (.s, 0xFC000002#32, some (.nopDA ⟨0, 2⟩)),
    (.s, 0x4081000A#32, some (.stv 8 1 0 ⟨2, 2⟩)), (.s, 0x2C010070#32, some (.ainc 1 7 ⟨0, 0⟩)), (.c, 0xC80F7003#32, some (.bwait 15 14))] : List (Stream × IWord × Option Instr)), decode e.1 e.2.1 = e.2.2) ∧
  ∀ st, decode st 0#32 = none

/-- A memory in its canonical form is what its bytes are: two that read the same everywhere are equal. -/
def Obligations.CanonicalMemory : Prop :=
  ∀ s t : State, s.MemWf → t.MemWf → s.SameBytes t → s.mem = t.mem

/-- Every step keeps memory in its canonical form, so that equal memories are equal data. -/
def Obligations.StepKeepsMemory : Prop :=
  ∀ s t : State, s.MemWf → step s = .next t → t.MemWf

/-- R451: FAILED and READY are never both 1: every step keeps it so. -/
def Obligations.StepKeepsStatus : Prop :=
  ∀ s t : State, s.OneStatus → step s = .next t → t.OneStatus
end

