-- ==== Sys2Proof/Laws/Fields.lean ====
section
/-! SUPPORT. The fields of an encoded word, format by format, and the round trip of every instruction: its stream's decoder
reads the instruction back from its word. One lemma per constructor of Instr. -/

namespace Sys2Proof.Laws

theorem app_toNat {a b : Nat} (x : BitVec a) (y : BitVec b) : (x ++ y).toNat = x.toNat * 2 ^ b + y.toNat := by
  rw [BitVec.toNat_append, ← Nat.shiftLeft_add_eq_or_of_lt y.isLt, Nat.shiftLeft_eq]

theorem fld_of {w : IWord} {lo n : Nat} {v : BitVec n} (h : w.toNat / 2 ^ lo % 2 ^ n = v.toNat) : fld w lo n = v := by
  apply BitVec.eq_of_toNat_eq
  rw [BitVec.extractLsb'_toNat, Nat.shiftRight_eq_div_pow, h]

/-- A number cut at bit `n` and put together again. -/
theorem fld_split {n m : Nat} (x : BitVec (m + n)) : fld x n m ++ fld x 0 n = x := by
  apply BitVec.eq_of_toNat_eq
  rw [app_toNat, BitVec.extractLsb'_toNat, BitVec.extractLsb'_toNat, Nat.shiftRight_eq_div_pow, Nat.shiftRight_zero]
  have h : x.toNat / 2 ^ n < 2 ^ m := by
    apply Nat.div_lt_of_lt_mul
    have := x.isLt
    rwa [Nat.pow_add, Nat.mul_comm] at this
  rw [Nat.mod_eq_of_lt h, Nat.mul_comm]
  exact Nat.div_add_mod ..

/-- A layout that a stream's family holds decodes. -/
theorem decode_of {st : Stream} {w : IWord} {i : Instr} (h : layoutOf st w = some i) (hw : i.wf = true)
    (hs : i.inStream st = true) : decode st w = some i := by
  unfold decode
  rw [h]
  change legalIn st i = some i
  unfold legalIn
  rw [hw, hs]
  rfl

theorem CR_toNat (m : BitVec 6) (d a b : BitVec 5) (j : BitVec 4) (fn : BitVec 7) :
    (encCR m d a b j fn).toNat =
      m.toNat * 2 ^ 26 + d.toNat * 2 ^ 21 + a.toNat * 2 ^ 16 + b.toNat * 2 ^ 11 + j.toNat * 2 ^ 7 +
        fn.toNat := by
  unfold encCR
  rw [app_toNat, app_toNat, app_toNat, app_toNat, app_toNat]
  omega

theorem CR_26_6 (m : BitVec 6) (d a b : BitVec 5) (j : BitVec 4) (fn : BitVec 7) :
    fld (encCR m d a b j fn) 26 6 = m :=
  fld_of (by rw [CR_toNat]; omega)
theorem CR_21_5 (m : BitVec 6) (d a b : BitVec 5) (j : BitVec 4) (fn : BitVec 7) :
    fld (encCR m d a b j fn) 21 5 = d :=
  fld_of (by rw [CR_toNat]; omega)
theorem CR_16_5 (m : BitVec 6) (d a b : BitVec 5) (j : BitVec 4) (fn : BitVec 7) :
    fld (encCR m d a b j fn) 16 5 = a :=
  fld_of (by rw [CR_toNat]; omega)
theorem CR_11_5 (m : BitVec 6) (d a b : BitVec 5) (j : BitVec 4) (fn : BitVec 7) :
    fld (encCR m d a b j fn) 11 5 = b :=
  fld_of (by rw [CR_toNat]; omega)
theorem CR_7_4 (m : BitVec 6) (d a b : BitVec 5) (j : BitVec 4) (fn : BitVec 7) :
    fld (encCR m d a b j fn) 7 4 = j :=
  fld_of (by rw [CR_toNat]; omega)
theorem CR_0_7 (m : BitVec 6) (d a b : BitVec 5) (j : BitVec 4) (fn : BitVec 7) :
    fld (encCR m d a b j fn) 0 7 = fn :=
  fld_of (by rw [CR_toNat]; omega)
theorem CR_11_10 (m : BitVec 6) (d : BitVec 5) (j : BitVec 4) (fn : BitVec 7) :
    fld (encCR m d 0#5 0#5 j fn) 11 10 = 0#10 :=
  fld_of (by rw [CR_toNat]; simp only [BitVec.toNat_ofNat]; omega)

theorem CI_toNat (m : BitVec 6) (d a : BitVec 5) (imm : BitVec 16) :
    (encCI m d a imm).toNat =
      m.toNat * 2 ^ 26 + d.toNat * 2 ^ 21 + a.toNat * 2 ^ 16 + imm.toNat := by
  unfold encCI
  rw [app_toNat, app_toNat, app_toNat]
  omega

theorem CI_26_6 (m : BitVec 6) (d a : BitVec 5) (imm : BitVec 16) :
    fld (encCI m d a imm) 26 6 = m :=
  fld_of (by rw [CI_toNat]; omega)
theorem CI_21_5 (m : BitVec 6) (d a : BitVec 5) (imm : BitVec 16) :
    fld (encCI m d a imm) 21 5 = d :=
  fld_of (by rw [CI_toNat]; omega)
theorem CI_16_5 (m : BitVec 6) (d a : BitVec 5) (imm : BitVec 16) :
    fld (encCI m d a imm) 16 5 = a :=
  fld_of (by rw [CI_toNat]; omega)
theorem CI_0_16 (m : BitVec 6) (d a : BitVec 5) (imm : BitVec 16) :
    fld (encCI m d a imm) 0 16 = imm :=
  fld_of (by rw [CI_toNat]; omega)

theorem CF_toNat (m : BitVec 6) (d a : BitVec 5) (pos wid : BitVec 6) (fn : BitVec 4) :
    (encCF m d a pos wid fn).toNat =
      m.toNat * 2 ^ 26 + d.toNat * 2 ^ 21 + a.toNat * 2 ^ 16 + pos.toNat * 2 ^ 10 + wid.toNat * 2 ^ 4 +
        fn.toNat := by
  unfold encCF
  rw [app_toNat, app_toNat, app_toNat, app_toNat, app_toNat]
  omega

theorem CF_26_6 (m : BitVec 6) (d a : BitVec 5) (pos wid : BitVec 6) (fn : BitVec 4) :
    fld (encCF m d a pos wid fn) 26 6 = m :=
  fld_of (by rw [CF_toNat]; omega)
theorem CF_21_5 (m : BitVec 6) (d a : BitVec 5) (pos wid : BitVec 6) (fn : BitVec 4) :
    fld (encCF m d a pos wid fn) 21 5 = d :=
  fld_of (by rw [CF_toNat]; omega)
theorem CF_16_5 (m : BitVec 6) (d a : BitVec 5) (pos wid : BitVec 6) (fn : BitVec 4) :
    fld (encCF m d a pos wid fn) 16 5 = a :=
  fld_of (by rw [CF_toNat]; omega)
theorem CF_10_6 (m : BitVec 6) (d a : BitVec 5) (pos wid : BitVec 6) (fn : BitVec 4) :
    fld (encCF m d a pos wid fn) 10 6 = pos :=
  fld_of (by rw [CF_toNat]; omega)
theorem CF_4_6 (m : BitVec 6) (d a : BitVec 5) (pos wid : BitVec 6) (fn : BitVec 4) :
    fld (encCF m d a pos wid fn) 4 6 = wid :=
  fld_of (by rw [CF_toNat]; omega)
theorem CF_0_4 (m : BitVec 6) (d a : BitVec 5) (pos wid : BitVec 6) (fn : BitVec 4) :
    fld (encCF m d a pos wid fn) 0 4 = fn :=
  fld_of (by rw [CF_toNat]; omega)

theorem CJ_toNat (m : BitVec 6) (ja : BitVec 4) (a : BitVec 5) (jb j : BitVec 4) (fn : BitVec 7) :
    (encCJ m ja a jb j fn).toNat =
      m.toNat * 2 ^ 26 + ja.toNat * 2 ^ 21 + a.toNat * 2 ^ 16 + jb.toNat * 2 ^ 11 + j.toNat * 2 ^ 7 +
        fn.toNat := by
  unfold encCJ
  rw [app_toNat, app_toNat, app_toNat, app_toNat, app_toNat, app_toNat, app_toNat]
  simp only [BitVec.toNat_ofNat]
  omega

theorem CJ_26_6 (m : BitVec 6) (ja : BitVec 4) (a : BitVec 5) (jb j : BitVec 4) (fn : BitVec 7) :
    fld (encCJ m ja a jb j fn) 26 6 = m :=
  fld_of (by rw [CJ_toNat]; omega)
theorem CJ_25_1 (m : BitVec 6) (ja : BitVec 4) (a : BitVec 5) (jb j : BitVec 4) (fn : BitVec 7) :
    fld (encCJ m ja a jb j fn) 25 1 = 0#1 :=
  fld_of (by rw [CJ_toNat]; simp only [BitVec.toNat_ofNat]; omega)
theorem CJ_21_4 (m : BitVec 6) (ja : BitVec 4) (a : BitVec 5) (jb j : BitVec 4) (fn : BitVec 7) :
    fld (encCJ m ja a jb j fn) 21 4 = ja :=
  fld_of (by rw [CJ_toNat]; omega)
theorem CJ_16_5 (m : BitVec 6) (ja : BitVec 4) (a : BitVec 5) (jb j : BitVec 4) (fn : BitVec 7) :
    fld (encCJ m ja a jb j fn) 16 5 = a :=
  fld_of (by rw [CJ_toNat]; omega)
theorem CJ_15_1 (m : BitVec 6) (ja : BitVec 4) (a : BitVec 5) (jb j : BitVec 4) (fn : BitVec 7) :
    fld (encCJ m ja a jb j fn) 15 1 = 0#1 :=
  fld_of (by rw [CJ_toNat]; simp only [BitVec.toNat_ofNat]; omega)
theorem CJ_11_4 (m : BitVec 6) (ja : BitVec 4) (a : BitVec 5) (jb j : BitVec 4) (fn : BitVec 7) :
    fld (encCJ m ja a jb j fn) 11 4 = jb :=
  fld_of (by rw [CJ_toNat]; omega)
theorem CJ_7_4 (m : BitVec 6) (ja : BitVec 4) (a : BitVec 5) (jb j : BitVec 4) (fn : BitVec 7) :
    fld (encCJ m ja a jb j fn) 7 4 = j :=
  fld_of (by rw [CJ_toNat]; omega)
theorem CJ_0_7 (m : BitVec 6) (ja : BitVec 4) (a : BitVec 5) (jb j : BitVec 4) (fn : BitVec 7) :
    fld (encCJ m ja a jb j fn) 0 7 = fn :=
  fld_of (by rw [CJ_toNat]; omega)
theorem CJ_15_6 (m : BitVec 6) (ja : BitVec 4) (jb j : BitVec 4) (fn : BitVec 7) :
    fld (encCJ m ja 0#5 jb j fn) 15 6 = 0#6 :=
  fld_of (by rw [CJ_toNat]; simp only [BitVec.toNat_ofNat]; omega)
theorem CJ_11_10 (m : BitVec 6) (ja : BitVec 4) (j : BitVec 4) (fn : BitVec 7) :
    fld (encCJ m ja 0#5 0#4 j fn) 11 10 = 0#10 :=
  fld_of (by rw [CJ_toNat]; simp only [BitVec.toNat_ofNat]; omega)
theorem CJ_21_5 (m : BitVec 6) (a : BitVec 5) (jb j : BitVec 4) (fn : BitVec 7) :
    fld (encCJ m 0#4 a jb j fn) 21 5 = 0#5 :=
  fld_of (by rw [CJ_toNat]; simp only [BitVec.toNat_ofNat]; omega)
theorem CJ_11_5 (m : BitVec 6) (ja : BitVec 4) (a : BitVec 5) (j : BitVec 4) (fn : BitVec 7) :
    fld (encCJ m ja a 0#4 j fn) 11 5 = 0#5 :=
  fld_of (by rw [CJ_toNat]; simp only [BitVec.toNat_ofNat]; omega)

theorem CM_toNat (m : BitVec 6) (d base b : BitVec 5) (ord : BitVec 4) (ty : BitVec 3) (imm : BitVec 4) :
    (encCM m d base b ord ty imm).toNat =
      m.toNat * 2 ^ 26 + d.toNat * 2 ^ 21 + base.toNat * 2 ^ 16 + b.toNat * 2 ^ 11 + ord.toNat * 2 ^ 7 +
        ty.toNat * 2 ^ 4 + imm.toNat := by
  unfold encCM
  rw [app_toNat, app_toNat, app_toNat, app_toNat, app_toNat, app_toNat]
  omega

theorem CM_26_6 (m : BitVec 6) (d base b : BitVec 5) (ord : BitVec 4) (ty : BitVec 3) (imm : BitVec 4) :
    fld (encCM m d base b ord ty imm) 26 6 = m :=
  fld_of (by rw [CM_toNat]; omega)
theorem CM_21_5 (m : BitVec 6) (d base b : BitVec 5) (ord : BitVec 4) (ty : BitVec 3) (imm : BitVec 4) :
    fld (encCM m d base b ord ty imm) 21 5 = d :=
  fld_of (by rw [CM_toNat]; omega)
theorem CM_16_5 (m : BitVec 6) (d base b : BitVec 5) (ord : BitVec 4) (ty : BitVec 3) (imm : BitVec 4) :
    fld (encCM m d base b ord ty imm) 16 5 = base :=
  fld_of (by rw [CM_toNat]; omega)
theorem CM_11_5 (m : BitVec 6) (d base b : BitVec 5) (ord : BitVec 4) (ty : BitVec 3) (imm : BitVec 4) :
    fld (encCM m d base b ord ty imm) 11 5 = b :=
  fld_of (by rw [CM_toNat]; omega)
theorem CM_7_4 (m : BitVec 6) (d base b : BitVec 5) (ord : BitVec 4) (ty : BitVec 3) (imm : BitVec 4) :
    fld (encCM m d base b ord ty imm) 7 4 = ord :=
  fld_of (by rw [CM_toNat]; omega)
theorem CM_4_3 (m : BitVec 6) (d base b : BitVec 5) (ord : BitVec 4) (ty : BitVec 3) (imm : BitVec 4) :
    fld (encCM m d base b ord ty imm) 4 3 = ty :=
  fld_of (by rw [CM_toNat]; omega)
theorem CM_0_4 (m : BitVec 6) (d base b : BitVec 5) (ord : BitVec 4) (ty : BitVec 3) (imm : BitVec 4) :
    fld (encCM m d base b ord ty imm) 0 4 = imm :=
  fld_of (by rw [CM_toNat]; omega)

theorem CA_toNat (m : BitVec 6) (d base b : BitVec 5) (ord fn : BitVec 4) (sz : BitVec 1) :
    (encCA m d base b ord fn sz).toNat =
      m.toNat * 2 ^ 26 + d.toNat * 2 ^ 21 + base.toNat * 2 ^ 16 + b.toNat * 2 ^ 11 + ord.toNat * 2 ^ 7 +
        fn.toNat * 2 ^ 3 + sz.toNat * 2 ^ 2 := by
  unfold encCA
  rw [app_toNat, app_toNat, app_toNat, app_toNat, app_toNat, app_toNat, app_toNat]
  simp only [BitVec.toNat_ofNat]
  omega

theorem CA_26_6 (m : BitVec 6) (d base b : BitVec 5) (ord fn : BitVec 4) (sz : BitVec 1) :
    fld (encCA m d base b ord fn sz) 26 6 = m :=
  fld_of (by rw [CA_toNat]; omega)
theorem CA_21_5 (m : BitVec 6) (d base b : BitVec 5) (ord fn : BitVec 4) (sz : BitVec 1) :
    fld (encCA m d base b ord fn sz) 21 5 = d :=
  fld_of (by rw [CA_toNat]; omega)
theorem CA_16_5 (m : BitVec 6) (d base b : BitVec 5) (ord fn : BitVec 4) (sz : BitVec 1) :
    fld (encCA m d base b ord fn sz) 16 5 = base :=
  fld_of (by rw [CA_toNat]; omega)
theorem CA_11_5 (m : BitVec 6) (d base b : BitVec 5) (ord fn : BitVec 4) (sz : BitVec 1) :
    fld (encCA m d base b ord fn sz) 11 5 = b :=
  fld_of (by rw [CA_toNat]; omega)
theorem CA_7_4 (m : BitVec 6) (d base b : BitVec 5) (ord fn : BitVec 4) (sz : BitVec 1) :
    fld (encCA m d base b ord fn sz) 7 4 = ord :=
  fld_of (by rw [CA_toNat]; omega)
theorem CA_3_4 (m : BitVec 6) (d base b : BitVec 5) (ord fn : BitVec 4) (sz : BitVec 1) :
    fld (encCA m d base b ord fn sz) 3 4 = fn :=
  fld_of (by rw [CA_toNat]; omega)
theorem CA_2_1 (m : BitVec 6) (d base b : BitVec 5) (ord fn : BitVec 4) (sz : BitVec 1) :
    fld (encCA m d base b ord fn sz) 2 1 = sz :=
  fld_of (by rw [CA_toNat]; omega)
theorem CA_0_2 (m : BitVec 6) (d base b : BitVec 5) (ord fn : BitVec 4) (sz : BitVec 1) :
    fld (encCA m d base b ord fn sz) 0 2 = 0#2 :=
  fld_of (by rw [CA_toNat]; simp only [BitVec.toNat_ofNat]; omega)

theorem CE_toNat (base b : BitVec 5) (fn : BitVec 4) (p : BitVec 1) :
    (encCE base b fn p).toNat =
      56 * 2 ^ 26 + base.toNat * 2 ^ 16 + b.toNat * 2 ^ 11 + fn.toNat * 2 ^ 3 + p.toNat * 2 ^ 2 := by
  unfold encCE
  rw [app_toNat, app_toNat, app_toNat, app_toNat, app_toNat, app_toNat, app_toNat]
  simp only [BitVec.toNat_ofNat]
  omega

theorem CE_26_6 (base b : BitVec 5) (fn : BitVec 4) (p : BitVec 1) :
    fld (encCE base b fn p) 26 6 = 56#6 :=
  fld_of (by rw [CE_toNat]; simp only [BitVec.toNat_ofNat]; omega)
theorem CE_21_5 (base b : BitVec 5) (fn : BitVec 4) (p : BitVec 1) :
    fld (encCE base b fn p) 21 5 = 0#5 :=
  fld_of (by rw [CE_toNat]; simp only [BitVec.toNat_ofNat]; omega)
theorem CE_16_5 (base b : BitVec 5) (fn : BitVec 4) (p : BitVec 1) :
    fld (encCE base b fn p) 16 5 = base :=
  fld_of (by rw [CE_toNat]; omega)
theorem CE_11_5 (base b : BitVec 5) (fn : BitVec 4) (p : BitVec 1) :
    fld (encCE base b fn p) 11 5 = b :=
  fld_of (by rw [CE_toNat]; omega)
theorem CE_7_4 (base b : BitVec 5) (fn : BitVec 4) (p : BitVec 1) :
    fld (encCE base b fn p) 7 4 = 0#4 :=
  fld_of (by rw [CE_toNat]; simp only [BitVec.toNat_ofNat]; omega)
theorem CE_3_4 (base b : BitVec 5) (fn : BitVec 4) (p : BitVec 1) :
    fld (encCE base b fn p) 3 4 = fn :=
  fld_of (by rw [CE_toNat]; omega)
theorem CE_2_1 (base b : BitVec 5) (fn : BitVec 4) (p : BitVec 1) :
    fld (encCE base b fn p) 2 1 = p :=
  fld_of (by rw [CE_toNat]; omega)
theorem CE_0_2 (base b : BitVec 5) (fn : BitVec 4) (p : BitVec 1) :
    fld (encCE base b fn p) 0 2 = 0#2 :=
  fld_of (by rw [CE_toNat]; simp only [BitVec.toNat_ofNat]; omega)

theorem DP_toNat (m v : BitVec 6) (a : BitVec 4) (imm : BitVec 12) (k : Tok) :
    (encDP m v a imm k).toNat =
      m.toNat * 2 ^ 26 + v.toNat * 2 ^ 20 + a.toNat * 2 ^ 16 + imm.toNat * 2 ^ 4 + k.pop.toNat * 2 ^ 2 +
        k.push.toNat := by
  unfold encDP
  rw [app_toNat, app_toNat, app_toNat, app_toNat, app_toNat]
  omega

theorem DP_26_6 (m v : BitVec 6) (a : BitVec 4) (imm : BitVec 12) (k : Tok) :
    fld (encDP m v a imm k) 26 6 = m :=
  fld_of (by rw [DP_toNat]; omega)
theorem DP_20_6 (m v : BitVec 6) (a : BitVec 4) (imm : BitVec 12) (k : Tok) :
    fld (encDP m v a imm k) 20 6 = v :=
  fld_of (by rw [DP_toNat]; omega)
theorem DP_16_4 (m v : BitVec 6) (a : BitVec 4) (imm : BitVec 12) (k : Tok) :
    fld (encDP m v a imm k) 16 4 = a :=
  fld_of (by rw [DP_toNat]; omega)
theorem DP_4_12 (m v : BitVec 6) (a : BitVec 4) (imm : BitVec 12) (k : Tok) :
    fld (encDP m v a imm k) 4 12 = imm :=
  fld_of (by rw [DP_toNat]; omega)
theorem DP_2_2 (m v : BitVec 6) (a : BitVec 4) (imm : BitVec 12) (k : Tok) :
    fld (encDP m v a imm k) 2 2 = k.pop :=
  fld_of (by rw [DP_toNat]; omega)
theorem DP_0_2 (m v : BitVec 6) (a : BitVec 4) (imm : BitVec 12) (k : Tok) :
    fld (encDP m v a imm k) 0 2 = k.push :=
  fld_of (by rw [DP_toNat]; omega)

theorem DD_toNat (m v : BitVec 6) (a : BitVec 4) (dir : BitVec 1) (imm : BitVec 11) (k : Tok) :
    (encDD m v a dir imm k).toNat =
      m.toNat * 2 ^ 26 + v.toNat * 2 ^ 20 + a.toNat * 2 ^ 16 + dir.toNat * 2 ^ 15 + imm.toNat * 2 ^ 4 +
        k.pop.toNat * 2 ^ 2 + k.push.toNat := by
  unfold encDD
  rw [app_toNat, app_toNat, app_toNat, app_toNat, app_toNat, app_toNat]
  omega

theorem DD_26_6 (m v : BitVec 6) (a : BitVec 4) (dir : BitVec 1) (imm : BitVec 11) (k : Tok) :
    fld (encDD m v a dir imm k) 26 6 = m :=
  fld_of (by rw [DD_toNat]; omega)
theorem DD_20_6 (m v : BitVec 6) (a : BitVec 4) (dir : BitVec 1) (imm : BitVec 11) (k : Tok) :
    fld (encDD m v a dir imm k) 20 6 = v :=
  fld_of (by rw [DD_toNat]; omega)
theorem DD_16_4 (m v : BitVec 6) (a : BitVec 4) (dir : BitVec 1) (imm : BitVec 11) (k : Tok) :
    fld (encDD m v a dir imm k) 16 4 = a :=
  fld_of (by rw [DD_toNat]; omega)
theorem DD_15_1 (m v : BitVec 6) (a : BitVec 4) (dir : BitVec 1) (imm : BitVec 11) (k : Tok) :
    fld (encDD m v a dir imm k) 15 1 = dir :=
  fld_of (by rw [DD_toNat]; omega)
theorem DD_4_11 (m v : BitVec 6) (a : BitVec 4) (dir : BitVec 1) (imm : BitVec 11) (k : Tok) :
    fld (encDD m v a dir imm k) 4 11 = imm :=
  fld_of (by rw [DD_toNat]; omega)
theorem DD_2_2 (m v : BitVec 6) (a : BitVec 4) (dir : BitVec 1) (imm : BitVec 11) (k : Tok) :
    fld (encDD m v a dir imm k) 2 2 = k.pop :=
  fld_of (by rw [DD_toNat]; omega)
theorem DD_0_2 (m v : BitVec 6) (a : BitVec 4) (dir : BitVec 1) (imm : BitVec 11) (k : Tok) :
    fld (encDD m v a dir imm k) 0 2 = k.push :=
  fld_of (by rw [DD_toNat]; omega)

theorem DG_toNat (m v : BitVec 6) (a : BitVec 4) (vi : BitVec 6) (k : Tok) :
    (encDG m v a vi k).toNat =
      m.toNat * 2 ^ 26 + v.toNat * 2 ^ 20 + a.toNat * 2 ^ 16 + vi.toNat * 2 ^ 10 + k.pop.toNat * 2 ^ 2 +
        k.push.toNat := by
  unfold encDG
  rw [app_toNat, app_toNat, app_toNat, app_toNat, app_toNat, app_toNat]
  simp only [BitVec.toNat_ofNat]
  omega

theorem DG_26_6 (m v : BitVec 6) (a : BitVec 4) (vi : BitVec 6) (k : Tok) :
    fld (encDG m v a vi k) 26 6 = m :=
  fld_of (by rw [DG_toNat]; omega)
theorem DG_20_6 (m v : BitVec 6) (a : BitVec 4) (vi : BitVec 6) (k : Tok) :
    fld (encDG m v a vi k) 20 6 = v :=
  fld_of (by rw [DG_toNat]; omega)
theorem DG_16_4 (m v : BitVec 6) (a : BitVec 4) (vi : BitVec 6) (k : Tok) :
    fld (encDG m v a vi k) 16 4 = a :=
  fld_of (by rw [DG_toNat]; omega)
theorem DG_10_6 (m v : BitVec 6) (a : BitVec 4) (vi : BitVec 6) (k : Tok) :
    fld (encDG m v a vi k) 10 6 = vi :=
  fld_of (by rw [DG_toNat]; omega)
theorem DG_4_6 (m v : BitVec 6) (a : BitVec 4) (vi : BitVec 6) (k : Tok) :
    fld (encDG m v a vi k) 4 6 = 0#6 :=
  fld_of (by rw [DG_toNat]; simp only [BitVec.toNat_ofNat]; omega)
theorem DG_2_2 (m v : BitVec 6) (a : BitVec 4) (vi : BitVec 6) (k : Tok) :
    fld (encDG m v a vi k) 2 2 = k.pop :=
  fld_of (by rw [DG_toNat]; omega)
theorem DG_0_2 (m v : BitVec 6) (a : BitVec 4) (vi : BitVec 6) (k : Tok) :
    fld (encDG m v a vi k) 0 2 = k.push :=
  fld_of (by rw [DG_toNat]; omega)

theorem PX_toNat (j kind : BitVec 2) (k : Tok) :
    (encPX j kind k).toNat =
      60 * 2 ^ 26 + j.toNat * 2 ^ 24 + kind.toNat * 2 ^ 22 + k.pop.toNat * 2 ^ 2 + k.push.toNat := by
  unfold encPX
  rw [app_toNat, app_toNat, app_toNat, app_toNat, app_toNat]
  simp only [BitVec.toNat_ofNat]
  omega

theorem PX_26_6 (j kind : BitVec 2) (k : Tok) :
    fld (encPX j kind k) 26 6 = 60#6 :=
  fld_of (by rw [PX_toNat]; simp only [BitVec.toNat_ofNat]; omega)
theorem PX_24_2 (j kind : BitVec 2) (k : Tok) :
    fld (encPX j kind k) 24 2 = j :=
  fld_of (by rw [PX_toNat]; omega)
theorem PX_22_2 (j kind : BitVec 2) (k : Tok) :
    fld (encPX j kind k) 22 2 = kind :=
  fld_of (by rw [PX_toNat]; omega)
theorem PX_4_18 (j kind : BitVec 2) (k : Tok) :
    fld (encPX j kind k) 4 18 = 0#18 :=
  fld_of (by rw [PX_toNat]; simp only [BitVec.toNat_ofNat]; omega)
theorem PX_2_2 (j kind : BitVec 2) (k : Tok) :
    fld (encPX j kind k) 2 2 = k.pop :=
  fld_of (by rw [PX_toNat]; omega)
theorem PX_0_2 (j kind : BitVec 2) (k : Tok) :
    fld (encPX j kind k) 0 2 = k.push :=
  fld_of (by rw [PX_toNat]; omega)

theorem LE_toNat (lp : BitVec 2) (rot : BitVec 1) (k : Tok) :
    (encLE lp rot k).toNat =
      58 * 2 ^ 26 + lp.toNat * 2 ^ 24 + rot.toNat * 2 ^ 23 + k.pop.toNat * 2 ^ 2 + k.push.toNat := by
  unfold encLE
  rw [app_toNat, app_toNat, app_toNat, app_toNat, app_toNat]
  simp only [BitVec.toNat_ofNat]
  omega

theorem LE_26_6 (lp : BitVec 2) (rot : BitVec 1) (k : Tok) :
    fld (encLE lp rot k) 26 6 = 58#6 :=
  fld_of (by rw [LE_toNat]; simp only [BitVec.toNat_ofNat]; omega)
theorem LE_24_2 (lp : BitVec 2) (rot : BitVec 1) (k : Tok) :
    fld (encLE lp rot k) 24 2 = lp :=
  fld_of (by rw [LE_toNat]; omega)
theorem LE_23_1 (lp : BitVec 2) (rot : BitVec 1) (k : Tok) :
    fld (encLE lp rot k) 23 1 = rot :=
  fld_of (by rw [LE_toNat]; omega)
theorem LE_4_19 (lp : BitVec 2) (rot : BitVec 1) (k : Tok) :
    fld (encLE lp rot k) 4 19 = 0#19 :=
  fld_of (by rw [LE_toNat]; simp only [BitVec.toNat_ofNat]; omega)
theorem LE_2_2 (lp : BitVec 2) (rot : BitVec 1) (k : Tok) :
    fld (encLE lp rot k) 2 2 = k.pop :=
  fld_of (by rw [LE_toNat]; omega)
theorem LE_0_2 (lp : BitVec 2) (rot : BitVec 1) (k : Tok) :
    fld (encLE lp rot k) 0 2 = k.push :=
  fld_of (by rw [LE_toNat]; omega)

theorem V3_toNat (m : BitVec 6) (f : V3) :
    (encV3 m f).toNat =
      m.toNat * 2 ^ 26 + f.vd.toNat * 2 ^ 20 + f.va.toNat * 2 ^ 14 + f.vb.toNat * 2 ^ 8 + f.p.toNat * 2 ^ 5 +
        f.t.toNat * 2 ^ 4 + f.tok.pop.toNat * 2 ^ 2 + f.tok.push.toNat := by
  unfold encV3
  rw [app_toNat, app_toNat, app_toNat, app_toNat, app_toNat, app_toNat, app_toNat]
  omega

theorem V3_26_6 (m : BitVec 6) (f : V3) :
    fld (encV3 m f) 26 6 = m :=
  fld_of (by rw [V3_toNat]; omega)
theorem V3_20_6 (m : BitVec 6) (f : V3) :
    fld (encV3 m f) 20 6 = f.vd :=
  fld_of (by rw [V3_toNat]; omega)
theorem V3_14_6 (m : BitVec 6) (f : V3) :
    fld (encV3 m f) 14 6 = f.va :=
  fld_of (by rw [V3_toNat]; omega)
theorem V3_8_6 (m : BitVec 6) (f : V3) :
    fld (encV3 m f) 8 6 = f.vb :=
  fld_of (by rw [V3_toNat]; omega)
theorem V3_5_3 (m : BitVec 6) (f : V3) :
    fld (encV3 m f) 5 3 = f.p :=
  fld_of (by rw [V3_toNat]; omega)
theorem V3_4_1 (m : BitVec 6) (f : V3) :
    fld (encV3 m f) 4 1 = f.t :=
  fld_of (by rw [V3_toNat]; omega)
theorem V3_2_2 (m : BitVec 6) (f : V3) :
    fld (encV3 m f) 2 2 = f.tok.pop :=
  fld_of (by rw [V3_toNat]; omega)
theorem V3_0_2 (m : BitVec 6) (f : V3) :
    fld (encV3 m f) 0 2 = f.tok.push :=
  fld_of (by rw [V3_toNat]; omega)

theorem V2_toNat (fn : BitVec 6) (f : V2) :
    (encV2 fn f).toNat =
      31 * 2 ^ 26 + f.vd.toNat * 2 ^ 20 + f.va.toNat * 2 ^ 14 + fn.toNat * 2 ^ 8 + f.p.toNat * 2 ^ 5 +
        f.t.toNat * 2 ^ 4 + f.tok.pop.toNat * 2 ^ 2 + f.tok.push.toNat := by
  unfold encV2
  rw [app_toNat, app_toNat, app_toNat, app_toNat, app_toNat, app_toNat, app_toNat]
  simp only [BitVec.toNat_ofNat]
  omega

theorem V2_26_6 (fn : BitVec 6) (f : V2) :
    fld (encV2 fn f) 26 6 = 31#6 :=
  fld_of (by rw [V2_toNat]; simp only [BitVec.toNat_ofNat]; omega)
theorem V2_20_6 (fn : BitVec 6) (f : V2) :
    fld (encV2 fn f) 20 6 = f.vd :=
  fld_of (by rw [V2_toNat]; omega)
theorem V2_14_6 (fn : BitVec 6) (f : V2) :
    fld (encV2 fn f) 14 6 = f.va :=
  fld_of (by rw [V2_toNat]; omega)
theorem V2_8_6 (fn : BitVec 6) (f : V2) :
    fld (encV2 fn f) 8 6 = fn :=
  fld_of (by rw [V2_toNat]; omega)
theorem V2_5_3 (fn : BitVec 6) (f : V2) :
    fld (encV2 fn f) 5 3 = f.p :=
  fld_of (by rw [V2_toNat]; omega)
theorem V2_4_1 (fn : BitVec 6) (f : V2) :
    fld (encV2 fn f) 4 1 = f.t :=
  fld_of (by rw [V2_toNat]; omega)
theorem V2_2_2 (fn : BitVec 6) (f : V2) :
    fld (encV2 fn f) 2 2 = f.tok.pop :=
  fld_of (by rw [V2_toNat]; omega)
theorem V2_0_2 (fn : BitVec 6) (f : V2) :
    fld (encV2 fn f) 0 2 = f.tok.push :=
  fld_of (by rw [V2_toNat]; omega)

theorem VF_toNat (m : BitVec 6) (f : VF) :
    (encVF m f).toNat =
      m.toNat * 2 ^ 26 + f.vd.toNat * 2 ^ 20 + f.va.toNat * 2 ^ 14 + f.fmt.toNat * 2 ^ 9 + f.sat.toNat * 2 ^ 8 +
        f.p.toNat * 2 ^ 5 + f.t.toNat * 2 ^ 4 + f.tok.pop.toNat * 2 ^ 2 + f.tok.push.toNat := by
  unfold encVF
  rw [app_toNat, app_toNat, app_toNat, app_toNat, app_toNat, app_toNat, app_toNat, app_toNat]
  omega

theorem VF_26_6 (m : BitVec 6) (f : VF) :
    fld (encVF m f) 26 6 = m :=
  fld_of (by rw [VF_toNat]; omega)
theorem VF_20_6 (m : BitVec 6) (f : VF) :
    fld (encVF m f) 20 6 = f.vd :=
  fld_of (by rw [VF_toNat]; omega)
theorem VF_14_6 (m : BitVec 6) (f : VF) :
    fld (encVF m f) 14 6 = f.va :=
  fld_of (by rw [VF_toNat]; omega)
theorem VF_9_5 (m : BitVec 6) (f : VF) :
    fld (encVF m f) 9 5 = f.fmt :=
  fld_of (by rw [VF_toNat]; omega)
theorem VF_8_1 (m : BitVec 6) (f : VF) :
    fld (encVF m f) 8 1 = f.sat :=
  fld_of (by rw [VF_toNat]; omega)
theorem VF_5_3 (m : BitVec 6) (f : VF) :
    fld (encVF m f) 5 3 = f.p :=
  fld_of (by rw [VF_toNat]; omega)
theorem VF_4_1 (m : BitVec 6) (f : VF) :
    fld (encVF m f) 4 1 = f.t :=
  fld_of (by rw [VF_toNat]; omega)
theorem VF_2_2 (m : BitVec 6) (f : VF) :
    fld (encVF m f) 2 2 = f.tok.pop :=
  fld_of (by rw [VF_toNat]; omega)
theorem VF_0_2 (m : BitVec 6) (f : VF) :
    fld (encVF m f) 0 2 = f.tok.push :=
  fld_of (by rw [VF_toNat]; omega)

theorem VI_toNat (m : BitVec 6) (f : VI) :
    (encVI m f).toNat =
      m.toNat * 2 ^ 26 + f.vd.toNat * 2 ^ 20 + f.va.toNat * 2 ^ 14 + f.n.toNat * 2 ^ 8 + f.p.toNat * 2 ^ 5 +
        f.t.toNat * 2 ^ 4 + f.tok.pop.toNat * 2 ^ 2 + f.tok.push.toNat := by
  unfold encVI
  rw [app_toNat, app_toNat, app_toNat, app_toNat, app_toNat, app_toNat, app_toNat]
  omega

theorem VI_26_6 (m : BitVec 6) (f : VI) :
    fld (encVI m f) 26 6 = m :=
  fld_of (by rw [VI_toNat]; omega)
theorem VI_20_6 (m : BitVec 6) (f : VI) :
    fld (encVI m f) 20 6 = f.vd :=
  fld_of (by rw [VI_toNat]; omega)
theorem VI_14_6 (m : BitVec 6) (f : VI) :
    fld (encVI m f) 14 6 = f.va :=
  fld_of (by rw [VI_toNat]; omega)
theorem VI_8_6 (m : BitVec 6) (f : VI) :
    fld (encVI m f) 8 6 = f.n :=
  fld_of (by rw [VI_toNat]; omega)
theorem VI_5_3 (m : BitVec 6) (f : VI) :
    fld (encVI m f) 5 3 = f.p :=
  fld_of (by rw [VI_toNat]; omega)
theorem VI_4_1 (m : BitVec 6) (f : VI) :
    fld (encVI m f) 4 1 = f.t :=
  fld_of (by rw [VI_toNat]; omega)
theorem VI_2_2 (m : BitVec 6) (f : VI) :
    fld (encVI m f) 2 2 = f.tok.pop :=
  fld_of (by rw [VI_toNat]; omega)
theorem VI_0_2 (m : BitVec 6) (f : VI) :
    fld (encVI m f) 0 2 = f.tok.push :=
  fld_of (by rw [VI_toNat]; omega)

theorem VC_toNat (m : BitVec 6) (f : VC) :
    (encVC m f).toNat =
      m.toNat * 2 ^ 26 + f.pd.toNat * 2 ^ 23 + f.cc.toNat * 2 ^ 20 + f.va.toNat * 2 ^ 14 + f.vb.toNat * 2 ^ 8 +
        f.p.toNat * 2 ^ 5 + f.tok.pop.toNat * 2 ^ 2 + f.tok.push.toNat := by
  unfold encVC
  rw [app_toNat, app_toNat, app_toNat, app_toNat, app_toNat, app_toNat, app_toNat, app_toNat]
  simp only [BitVec.toNat_ofNat]
  omega

theorem VC_26_6 (m : BitVec 6) (f : VC) :
    fld (encVC m f) 26 6 = m :=
  fld_of (by rw [VC_toNat]; omega)
theorem VC_23_3 (m : BitVec 6) (f : VC) :
    fld (encVC m f) 23 3 = f.pd :=
  fld_of (by rw [VC_toNat]; omega)
theorem VC_20_3 (m : BitVec 6) (f : VC) :
    fld (encVC m f) 20 3 = f.cc :=
  fld_of (by rw [VC_toNat]; omega)
theorem VC_14_6 (m : BitVec 6) (f : VC) :
    fld (encVC m f) 14 6 = f.va :=
  fld_of (by rw [VC_toNat]; omega)
theorem VC_8_6 (m : BitVec 6) (f : VC) :
    fld (encVC m f) 8 6 = f.vb :=
  fld_of (by rw [VC_toNat]; omega)
theorem VC_5_3 (m : BitVec 6) (f : VC) :
    fld (encVC m f) 5 3 = f.p :=
  fld_of (by rw [VC_toNat]; omega)
theorem VC_4_1 (m : BitVec 6) (f : VC) :
    fld (encVC m f) 4 1 = 0#1 :=
  fld_of (by rw [VC_toNat]; simp only [BitVec.toNat_ofNat]; omega)
theorem VC_2_2 (m : BitVec 6) (f : VC) :
    fld (encVC m f) 2 2 = f.tok.pop :=
  fld_of (by rw [VC_toNat]; omega)
theorem VC_0_2 (m : BitVec 6) (f : VC) :
    fld (encVC m f) 0 2 = f.tok.push :=
  fld_of (by rw [VC_toNat]; omega)

theorem PR_toNat (pd pa pb fn : BitVec 3) (k : Tok) :
    (encPR pd pa pb fn k).toNat =
      45 * 2 ^ 26 + pd.toNat * 2 ^ 23 + pa.toNat * 2 ^ 17 + pb.toNat * 2 ^ 11 + fn.toNat * 2 ^ 5 +
        k.pop.toNat * 2 ^ 2 + k.push.toNat := by
  unfold encPR
  rw [app_toNat, app_toNat, app_toNat, app_toNat, app_toNat, app_toNat, app_toNat, app_toNat, app_toNat, app_toNat]
  simp only [BitVec.toNat_ofNat]
  omega

theorem PR_26_6 (pd pa pb fn : BitVec 3) (k : Tok) :
    fld (encPR pd pa pb fn k) 26 6 = 45#6 :=
  fld_of (by rw [PR_toNat]; simp only [BitVec.toNat_ofNat]; omega)
theorem PR_23_3 (pd pa pb fn : BitVec 3) (k : Tok) :
    fld (encPR pd pa pb fn k) 23 3 = pd :=
  fld_of (by rw [PR_toNat]; omega)
theorem PR_20_3 (pd pa pb fn : BitVec 3) (k : Tok) :
    fld (encPR pd pa pb fn k) 20 3 = 0#3 :=
  fld_of (by rw [PR_toNat]; simp only [BitVec.toNat_ofNat]; omega)
theorem PR_17_3 (pd pa pb fn : BitVec 3) (k : Tok) :
    fld (encPR pd pa pb fn k) 17 3 = pa :=
  fld_of (by rw [PR_toNat]; omega)
theorem PR_14_3 (pd pa pb fn : BitVec 3) (k : Tok) :
    fld (encPR pd pa pb fn k) 14 3 = 0#3 :=
  fld_of (by rw [PR_toNat]; simp only [BitVec.toNat_ofNat]; omega)
theorem PR_11_3 (pd pa pb fn : BitVec 3) (k : Tok) :
    fld (encPR pd pa pb fn k) 11 3 = pb :=
  fld_of (by rw [PR_toNat]; omega)
theorem PR_8_3 (pd pa pb fn : BitVec 3) (k : Tok) :
    fld (encPR pd pa pb fn k) 8 3 = 0#3 :=
  fld_of (by rw [PR_toNat]; simp only [BitVec.toNat_ofNat]; omega)
theorem PR_5_3 (pd pa pb fn : BitVec 3) (k : Tok) :
    fld (encPR pd pa pb fn k) 5 3 = fn :=
  fld_of (by rw [PR_toNat]; omega)
theorem PR_4_1 (pd pa pb fn : BitVec 3) (k : Tok) :
    fld (encPR pd pa pb fn k) 4 1 = 0#1 :=
  fld_of (by rw [PR_toNat]; simp only [BitVec.toNat_ofNat]; omega)
theorem PR_2_2 (pd pa pb fn : BitVec 3) (k : Tok) :
    fld (encPR pd pa pb fn k) 2 2 = k.pop :=
  fld_of (by rw [PR_toNat]; omega)
theorem PR_0_2 (pd pa pb fn : BitVec 3) (k : Tok) :
    fld (encPR pd pa pb fn k) 0 2 = k.push :=
  fld_of (by rw [PR_toNat]; omega)
theorem PR_8_6 (pd pa fn : BitVec 3) (k : Tok) :
    fld (encPR pd pa 0#3 fn k) 8 6 = 0#6 :=
  fld_of (by rw [PR_toNat]; simp only [BitVec.toNat_ofNat]; omega)

theorem VJ_toNat (j : BitVec 2) (all : BitVec 1) (pa : BitVec 3) (k : Tok) :
    (encVJ j all pa k).toNat =
      46 * 2 ^ 26 + j.toNat * 2 ^ 24 + all.toNat * 2 ^ 23 + pa.toNat * 2 ^ 17 + k.pop.toNat * 2 ^ 2 +
        k.push.toNat := by
  unfold encVJ
  rw [app_toNat, app_toNat, app_toNat, app_toNat, app_toNat, app_toNat, app_toNat]
  simp only [BitVec.toNat_ofNat]
  omega

theorem VJ_26_6 (j : BitVec 2) (all : BitVec 1) (pa : BitVec 3) (k : Tok) :
    fld (encVJ j all pa k) 26 6 = 46#6 :=
  fld_of (by rw [VJ_toNat]; simp only [BitVec.toNat_ofNat]; omega)
theorem VJ_24_2 (j : BitVec 2) (all : BitVec 1) (pa : BitVec 3) (k : Tok) :
    fld (encVJ j all pa k) 24 2 = j :=
  fld_of (by rw [VJ_toNat]; omega)
theorem VJ_23_1 (j : BitVec 2) (all : BitVec 1) (pa : BitVec 3) (k : Tok) :
    fld (encVJ j all pa k) 23 1 = all :=
  fld_of (by rw [VJ_toNat]; omega)
theorem VJ_20_3 (j : BitVec 2) (all : BitVec 1) (pa : BitVec 3) (k : Tok) :
    fld (encVJ j all pa k) 20 3 = 0#3 :=
  fld_of (by rw [VJ_toNat]; simp only [BitVec.toNat_ofNat]; omega)
theorem VJ_17_3 (j : BitVec 2) (all : BitVec 1) (pa : BitVec 3) (k : Tok) :
    fld (encVJ j all pa k) 17 3 = pa :=
  fld_of (by rw [VJ_toNat]; omega)
theorem VJ_4_13 (j : BitVec 2) (all : BitVec 1) (pa : BitVec 3) (k : Tok) :
    fld (encVJ j all pa k) 4 13 = 0#13 :=
  fld_of (by rw [VJ_toNat]; simp only [BitVec.toNat_ofNat]; omega)
theorem VJ_2_2 (j : BitVec 2) (all : BitVec 1) (pa : BitVec 3) (k : Tok) :
    fld (encVJ j all pa k) 2 2 = k.pop :=
  fld_of (by rw [VJ_toNat]; omega)
theorem VJ_0_2 (j : BitVec 2) (all : BitVec 1) (pa : BitVec 3) (k : Tok) :
    fld (encVJ j all pa k) 0 2 = k.push :=
  fld_of (by rw [VJ_toNat]; omega)

theorem MX_toNat (f1 f2 fn : BitVec 6) (k : Tok) :
    (encMX f1 f2 fn k).toNat =
      48 * 2 ^ 26 + f1.toNat * 2 ^ 20 + f2.toNat * 2 ^ 14 + fn.toNat * 2 ^ 8 + k.pop.toNat * 2 ^ 2 +
        k.push.toNat := by
  unfold encMX
  rw [app_toNat, app_toNat, app_toNat, app_toNat, app_toNat, app_toNat]
  simp only [BitVec.toNat_ofNat]
  omega

theorem MX_26_6 (f1 f2 fn : BitVec 6) (k : Tok) :
    fld (encMX f1 f2 fn k) 26 6 = 48#6 :=
  fld_of (by rw [MX_toNat]; simp only [BitVec.toNat_ofNat]; omega)
theorem MX_20_6 (f1 f2 fn : BitVec 6) (k : Tok) :
    fld (encMX f1 f2 fn k) 20 6 = f1 :=
  fld_of (by rw [MX_toNat]; omega)
theorem MX_14_6 (f1 f2 fn : BitVec 6) (k : Tok) :
    fld (encMX f1 f2 fn k) 14 6 = f2 :=
  fld_of (by rw [MX_toNat]; omega)
theorem MX_8_6 (f1 f2 fn : BitVec 6) (k : Tok) :
    fld (encMX f1 f2 fn k) 8 6 = fn :=
  fld_of (by rw [MX_toNat]; omega)
theorem MX_4_4 (f1 f2 fn : BitVec 6) (k : Tok) :
    fld (encMX f1 f2 fn k) 4 4 = 0#4 :=
  fld_of (by rw [MX_toNat]; simp only [BitVec.toNat_ofNat]; omega)
theorem MX_2_2 (f1 f2 fn : BitVec 6) (k : Tok) :
    fld (encMX f1 f2 fn k) 2 2 = k.pop :=
  fld_of (by rw [MX_toNat]; omega)
theorem MX_0_2 (f1 f2 fn : BitVec 6) (k : Tok) :
    fld (encMX f1 f2 fn k) 0 2 = k.push :=
  fld_of (by rw [MX_toNat]; omega)
theorem MX_21_5 (f2 fn : BitVec 6) (k : Tok) :
    fld (encMX 0#6 f2 fn k) 21 5 = 0#5 :=
  fld_of (by rw [MX_toNat]; simp only [BitVec.toNat_ofNat]; omega)
theorem MX_20_1 (f2 fn : BitVec 6) (k : Tok) :
    fld (encMX 0#6 f2 fn k) 20 1 = 0#1 :=
  fld_of (by rw [MX_toNat]; simp only [BitVec.toNat_ofNat]; omega)

end Sys2Proof.Laws
end

