-- ==== Sys2Proof/Laws/Mem.lean ====
section
/-! SUPPORT. Laws of memory: every operation keeps the canonical form, and what a read gives after a write. -/

namespace Sys2Proof.Laws
open Sys2Proof.Machine

/-! ### The canonical form is kept -/

theorem wfFrom_mono {lo hi : Nat} (h : lo ≤ hi) (m : List Host.Cell) (w : Memory.wfFrom hi m = true) :
    Memory.wfFrom lo m = true := by
  cases m with
  | nil => rfl
  | cons e t => simp only [Memory.wfFrom, Bool.and_eq_true, decide_eq_true_eq] at w ⊢; exact ⟨⟨by omega, w.1.2⟩, w.2⟩

theorem wfFrom_wrByte (k : Nat) (b : Byte) (m : List Host.Cell) (lo : Nat) (hk : lo ≤ k) (w : Memory.wfFrom lo m = true) :
    Memory.wfFrom lo (wrByte k b m) = true := by
  induction m generalizing lo with
  | nil => by_cases hb : b = blank <;> simp [wrByte, Memory.wfFrom, hb, hk]
  | cons e t ih =>
    obtain ⟨i, u⟩ := e
    simp only [Memory.wfFrom, Bool.and_eq_true, decide_eq_true_eq] at w
    obtain ⟨⟨hi, hu⟩, ht⟩ := w
    simp only [wrByte]
    by_cases h1 : k < i
    · by_cases h2 : b = blank
      · rw [if_pos h1, if_pos h2]; simp only [Memory.wfFrom, Bool.and_eq_true, decide_eq_true_eq]; exact ⟨⟨hi, hu⟩, ht⟩
      · rw [if_pos h1, if_neg h2]; simp only [Memory.wfFrom, Bool.and_eq_true, decide_eq_true_eq]
        exact ⟨⟨hk, by simpa using h2⟩, ⟨by omega, hu⟩, ht⟩
    · by_cases h3 : k = i
      · subst h3
        by_cases h4 : b = blank
        · simp only [Nat.lt_irrefl, if_false, if_true, h4]; exact wfFrom_mono (by omega) _ ht
        · simp [h4, Memory.wfFrom, hk, ht]
      · rw [if_neg h1, if_neg h3]
        simp only [Memory.wfFrom, Bool.and_eq_true, decide_eq_true_eq]; exact ⟨⟨hi, hu⟩, ih (i + 1) (by omega) ht⟩

/-- Writing a byte keeps the canonical form. -/
theorem wf_wrByte (k : Nat) (b : Byte) (m : List Host.Cell) (w : Memory.wf m = true) : Memory.wf (wrByte k b m) = true :=
  wfFrom_wrByte k b m 0 (Nat.zero_le _) w

/-- Writing bytes keeps the canonical form. -/
theorem wf_wrBytes (bs : List Byte) (m : List Host.Cell) (k : Nat) (w : Memory.wf m = true) :
    Memory.wf (wrBytes m k bs) = true := by
  induction bs generalizing m k with
  | nil => exact w
  | cons b t ih => exact ih _ _ (wf_wrByte k b m w)

theorem wfFrom_filter (p : Host.Cell → Bool) (m : List Host.Cell) (lo : Nat) (w : Memory.wfFrom lo m = true) :
    Memory.wfFrom lo (m.filter p) = true := by
  induction m generalizing lo with
  | nil => rfl
  | cons e t ih =>
    obtain ⟨i, u⟩ := e
    simp only [Memory.wfFrom, Bool.and_eq_true, decide_eq_true_eq] at w
    by_cases hp : p (i, u) = true
    · rw [List.filter_cons_of_pos hp]
      simp only [Memory.wfFrom, Bool.and_eq_true, decide_eq_true_eq]
      exact ⟨w.1, ih _ w.2⟩
    · rw [List.filter_cons_of_neg hp]
      exact wfFrom_mono (by omega) _ (ih _ w.2)

/-- Dropping entries keeps the canonical form. -/
theorem wf_filter (p : Host.Cell → Bool) (m : List Host.Cell) (w : Memory.wf m = true) : Memory.wf (m.filter p) = true :=
  wfFrom_filter p m 0 w

theorem wf_zeroRange (m : List Host.Cell) (lo hi : Nat) (w : Memory.wf m = true) : Memory.wf (zeroRange m lo hi) = true :=
  wf_filter _ m w

theorem wf_copyRange (m : List Host.Cell) (src dst n : Nat) (w : Memory.wf m = true) :
    Memory.wf (copyRange m src dst n) = true := by
  unfold copyRange
  generalize m.filter _ = l
  have h := wf_zeroRange m dst (dst + n) w
  revert h
  generalize zeroRange m dst (dst + n) = z
  induction l generalizing z with
  | nil => exact id
  | cons e t ih => intro h; exact ih _ (wf_wrByte _ _ _ h)

/-- A store keeps the canonical form. -/
theorem wf_write (s : State) (k : Nat) (bs : List Byte) (w : Memory.wf s.mem = true) :
    Memory.wf (s.write k bs).mem = true := wf_wrBytes bs s.mem k w

/-! ### Reads after writes -/

theorem look_none_of_wfFrom {a lo : Nat} (m : List Host.Cell) (w : Memory.wfFrom lo m = true) (h : a < lo) : look a m = none := by
  induction m generalizing lo with
  | nil => rfl
  | cons e t ih =>
    obtain ⟨i, u⟩ := e
    simp only [Memory.wfFrom, Bool.and_eq_true, decide_eq_true_eq] at w
    simp only [look]
    rw [if_neg (by omega)]
    exact ih w.2 (by omega)

theorem rdByte_below {a lo : Nat} (m : List Host.Cell) (w : Memory.wfFrom lo m = true) (h : a < lo) : rdByte m a = blank := by
  simp [rdByte, look_none_of_wfFrom m w h]

theorem rdByte_wrByte_from (k : Nat) (b : Byte) (m : List Host.Cell) (lo a : Nat) (w : Memory.wfFrom lo m = true) :
    rdByte (wrByte k b m) a = if a = k then b else rdByte m a := by
  induction m generalizing lo with
  | nil =>
    by_cases hb : b = blank <;> by_cases ha : a = k
    · simp [wrByte, hb, ha, rdByte, look]
    · simp [wrByte, hb, ha, rdByte, look]
    · simp [wrByte, hb, ha, rdByte, look]
    · have : ¬ k = a := fun h => ha h.symm
      simp [wrByte, hb, ha, rdByte, look, this]
  | cons e t ih =>
    obtain ⟨i, u⟩ := e
    simp only [Memory.wfFrom, Bool.and_eq_true, decide_eq_true_eq] at w
    obtain ⟨⟨hi, hu⟩, ht⟩ := w
    have low := fun h : a < i + 1 => look_none_of_wfFrom (a := a) t ht h
    have ne {x y : Nat} (h : ¬ x = y) : ¬ y = x := fun g => h g.symm
    simp only [wrByte]
    by_cases h1 : k < i
    · by_cases h2 : b = blank
      · rw [if_pos h1, if_pos h2]
        by_cases h : a = k
        · subst h; simp only [rdByte, look]; rw [if_neg (by omega), low (by omega), h2]; simp
        · rw [if_neg h]
      · rw [if_pos h1, if_neg h2]
        by_cases h : a = k
        · subst h; simp [rdByte, look]
        · rw [if_neg h]; simp only [rdByte]; rw [look, if_neg (ne h)]
    · by_cases h3 : k = i
      · subst h3
        rw [if_neg h1, if_pos rfl]
        by_cases h4 : b = blank
        · rw [if_pos h4]
          by_cases h : a = k
          · subst h; simp only [rdByte]; rw [low (by omega), h4]; simp
          · rw [if_neg h]; simp only [rdByte]; rw [look, if_neg (ne h)]
        · rw [if_neg h4]
          by_cases h : a = k
          · subst h; simp [rdByte, look]
          · rw [if_neg h]; simp only [rdByte]; rw [look, if_neg (ne h), look, if_neg (ne h)]
      · rw [if_neg h1, if_neg h3]
        have g := ih _ ht
        simp only [rdByte] at g ⊢
        rw [look, look]
        by_cases hia : i = a
        · rw [if_pos hia, if_pos hia, if_neg (by omega)]
        · rw [if_neg hia, if_neg hia, g]

/-- Reading a byte after a byte is written. -/
theorem rdByte_wrByte (k : Nat) (b : Byte) (m : List Host.Cell) (a : Nat) (w : Memory.wf m = true) :
    rdByte (wrByte k b m) a = if a = k then b else rdByte m a := rdByte_wrByte_from k b m 0 a w

/-- Reading a byte after bytes are written. -/
theorem rdByte_wrBytes (bs : List Byte) (m : List Host.Cell) (k a : Nat) (w : Memory.wf m = true) :
    rdByte (wrBytes m k bs) a = if k ≤ a ∧ a < k + bs.length then bs.getD (a - k) 0 else rdByte m a := by
  induction bs generalizing m k with
  | nil => rw [if_neg (by simp only [List.length_nil]; omega)]; rfl
  | cons b t ih =>
    simp only [wrBytes]
    rw [ih _ _ (wf_wrByte k b m w), rdByte_wrByte k b m a w]
    by_cases hak : a = k
    · subst hak
      rw [if_neg (by omega), if_pos rfl, if_pos (by simp only [List.length_cons]; omega)]
      simp
    · by_cases h : k + 1 ≤ a ∧ a < k + 1 + t.length
      · rw [if_pos h, if_pos (by simp only [List.length_cons]; omega)]
        obtain ⟨d, hd⟩ : ∃ d, a - k = d + 1 := ⟨a - k - 1, by omega⟩
        rw [hd, show a - (k + 1) = d by omega]; rfl
      · rw [if_neg h, if_neg hak, if_neg (by simp only [List.length_cons]; omega)]

theorem look_filter {α : Type} (p : Nat → Bool) (m : List (Nat × α)) (a : Nat) :
    look a (m.filter fun e => p e.1) = if p a then look a m else none := by
  induction m with
  | nil => simp [look]
  | cons e t ih =>
    obtain ⟨i, u⟩ := e
    by_cases hp : p i = true
    · rw [List.filter_cons_of_pos (by simpa using hp)]
      simp only [look, ih]
      by_cases h : i = a
      · subst h; simp [hp]
      · simp [h]
    · rw [List.filter_cons_of_neg (by simpa using hp), ih]
      by_cases h : i = a
      · subst h; simp [hp]
      · simp [look, h]

/-- Reading a byte of a memory with some addresses dropped. -/
theorem rdByte_filter (p : Nat → Bool) (m : List Host.Cell) (a : Nat) :
    rdByte (m.filter fun e => p e.1) a = if p a then rdByte m a else blank := by
  simp only [rdByte, look_filter]
  cases p a <;> simp

theorem rdByte_zeroRange (m : List Host.Cell) (lo hi a : Nat) :
    rdByte (zeroRange m lo hi) a = if lo ≤ a ∧ a < hi then 0 else rdByte m a := by
  have h := rdByte_filter (fun i => !(decide (lo ≤ i) && decide (i < hi))) m a
  rw [show zeroRange m lo hi = m.filter fun e => !(decide (lo ≤ e.1) && decide (e.1 < hi)) from rfl, h]
  by_cases g : lo ≤ a ∧ a < hi
  · simp [g]; rfl
  · rw [if_neg g, if_pos (by simp only [Bool.not_eq_true', Bool.and_eq_false_iff, decide_eq_false_iff_not]; omega)]

/-! ### Numbers and bytes -/

@[simp] theorem natBytes_length (v n : Nat) : (natBytes v n).length = n := by
  induction n generalizing v with
  | zero => rfl
  | succ n ih => simp [natBytes, ih]

@[simp] theorem rdBytes_length (m : List Host.Cell) (k n : Nat) : (rdBytes m k n).length = n := by
  induction n generalizing k with
  | zero => rfl
  | succ n ih => simp [rdBytes, ih]

/-- The number of the bytes of a number. -/
theorem bytesNat_natBytes (v n : Nat) : bytesNat (natBytes v n) = v % 256 ^ n := by
  induction n generalizing v with
  | zero => simp [natBytes, bytesNat, Nat.mod_one]
  | succ n ih => simp only [natBytes, bytesNat, ih, BitVec.toNat_ofNat]; rw [Nat.pow_succ (m := n), Nat.mul_comm (256 ^ n) 256, Nat.mod_mul]

/-- Numbers read are numbers of bytes read. -/
theorem rdNat_eq (m : List Host.Cell) (k n : Nat) : rdNat m k n = bytesNat (rdBytes m k n) := by
  induction n generalizing k with
  | zero => rfl
  | succ n ih => simp [rdNat, rdBytes, bytesNat, ih]

theorem rdBytes_getD (m : List Host.Cell) (k n i : Nat) (h : i < n) : (rdBytes m k n).getD i 0 = rdByte m (k + i) := by
  induction n generalizing k i with
  | zero => omega
  | succ n ih =>
    cases i with
    | zero => simp [rdBytes]
    | succ i =>
      simp only [rdBytes, List.getD_cons_succ]
      rw [ih (k + 1) i (by omega)]; congr 1; omega

/-- What is written is what is read back. -/
theorem rdBytes_wrBytes (bs : List Byte) (m : List Host.Cell) (k : Nat) (w : Memory.wf m = true) :
    rdBytes (wrBytes m k bs) k bs.length = bs := by
  apply List.ext_getElem?
  intro i
  by_cases h : i < bs.length
  · have g := rdBytes_getD (wrBytes m k bs) k bs.length i h
    rw [rdByte_wrBytes _ _ _ _ w, if_pos (by omega)] at g
    simp only [Nat.add_sub_cancel_left] at g
    rw [List.getElem?_eq_getElem (by simpa using h), List.getElem?_eq_getElem h]
    simpa [List.getD_eq_getElem?_getD, List.getElem?_eq_getElem, h] using g
  · rw [List.getElem?_eq_none (by simpa using h), List.getElem?_eq_none (by simpa using h)]

/-- Bytes outside a write are read as before. -/
theorem rdBytes_wrBytes_ne (bs : List Byte) (m : List Host.Cell) (k j n : Nat) (w : Memory.wf m = true)
    (h : j + n ≤ k ∨ k + bs.length ≤ j) : rdBytes (wrBytes m k bs) j n = rdBytes m j n := by
  induction n generalizing j with
  | zero => rfl
  | succ n ih =>
    simp only [rdBytes]
    rw [ih (j + 1) (by omega), rdByte_wrBytes _ _ _ _ w, if_neg (by omega)]

end Sys2Proof.Laws
end

