-- ==== Sys2Proof/Laws/PerInstr.lean ====
section
/-! SUPPORT. Decode and encode agree, one lemma per constructor of Instr: a well-formed instruction of a stream is what that
stream's decoder reads from its word. An event has no word and is no well-formed instruction. -/

namespace Sys2Proof.Laws.RoundTrip

/-- Every stream that holds the instruction decodes it from its word. -/
def Statement (i : Instr) : Prop := ∀ st, i.wf = true → i.inStream st = true → decode st (encode i) = some i

theorem add (d : BitVec 5) (a : BitVec 5) (b : BitVec 5) : Statement (.add d a b) := by
  intro st hw hs
  cases st
  · refine decode_of ?_ hw hs
    change layoutC (encCR 0x01#6 d a b 0#4 0x00#7) = _
    unfold layoutC majorOf
    rw [CR_26_6]
    change decodeInt _ = _
    unfold decodeInt fnCR
    rw [CR_0_7]
    change whenZ _ (Instr.add _ _ _) = _
    simp only [zeroAt, fD, fA, fB, CR_21_5, CR_16_5, CR_11_5, CR_7_4]
    rfl
  · exact absurd hs Bool.false_ne_true
  · exact absurd hs Bool.false_ne_true
  · exact absurd hs Bool.false_ne_true
theorem sub (d : BitVec 5) (a : BitVec 5) (b : BitVec 5) : Statement (.sub d a b) := by
  intro st hw hs
  cases st
  · refine decode_of ?_ hw hs
    change layoutC (encCR 0x01#6 d a b 0#4 0x01#7) = _
    unfold layoutC majorOf
    rw [CR_26_6]
    change decodeInt _ = _
    unfold decodeInt fnCR
    rw [CR_0_7]
    change whenZ _ (Instr.sub _ _ _) = _
    simp only [zeroAt, fD, fA, fB, CR_21_5, CR_16_5, CR_11_5, CR_7_4]
    rfl
  · exact absurd hs Bool.false_ne_true
  · exact absurd hs Bool.false_ne_true
  · exact absurd hs Bool.false_ne_true
theorem and (d : BitVec 5) (a : BitVec 5) (b : BitVec 5) : Statement (.and d a b) := by
  intro st hw hs
  cases st
  · refine decode_of ?_ hw hs
    change layoutC (encCR 0x01#6 d a b 0#4 0x02#7) = _
    unfold layoutC majorOf
    rw [CR_26_6]
    change decodeInt _ = _
    unfold decodeInt fnCR
    rw [CR_0_7]
    change whenZ _ (Instr.and _ _ _) = _
    simp only [zeroAt, fD, fA, fB, CR_21_5, CR_16_5, CR_11_5, CR_7_4]
    rfl
  · exact absurd hs Bool.false_ne_true
  · exact absurd hs Bool.false_ne_true
  · exact absurd hs Bool.false_ne_true
theorem or (d : BitVec 5) (a : BitVec 5) (b : BitVec 5) : Statement (.or d a b) := by
  intro st hw hs
  cases st
  · refine decode_of ?_ hw hs
    change layoutC (encCR 0x01#6 d a b 0#4 0x03#7) = _
    unfold layoutC majorOf
    rw [CR_26_6]
    change decodeInt _ = _
    unfold decodeInt fnCR
    rw [CR_0_7]
    change whenZ _ (Instr.or _ _ _) = _
    simp only [zeroAt, fD, fA, fB, CR_21_5, CR_16_5, CR_11_5, CR_7_4]
    rfl
  · exact absurd hs Bool.false_ne_true
  · exact absurd hs Bool.false_ne_true
  · exact absurd hs Bool.false_ne_true
theorem xor (d : BitVec 5) (a : BitVec 5) (b : BitVec 5) : Statement (.xor d a b) := by
  intro st hw hs
  cases st
  · refine decode_of ?_ hw hs
    change layoutC (encCR 0x01#6 d a b 0#4 0x04#7) = _
    unfold layoutC majorOf
    rw [CR_26_6]
    change decodeInt _ = _
    unfold decodeInt fnCR
    rw [CR_0_7]
    change whenZ _ (Instr.xor _ _ _) = _
    simp only [zeroAt, fD, fA, fB, CR_21_5, CR_16_5, CR_11_5, CR_7_4]
    rfl
  · exact absurd hs Bool.false_ne_true
  · exact absurd hs Bool.false_ne_true
  · exact absurd hs Bool.false_ne_true
theorem shl (d : BitVec 5) (a : BitVec 5) (b : BitVec 5) : Statement (.shl d a b) := by
  intro st hw hs
  cases st
  · refine decode_of ?_ hw hs
    change layoutC (encCR 0x01#6 d a b 0#4 0x05#7) = _
    unfold layoutC majorOf
    rw [CR_26_6]
    change decodeInt _ = _
    unfold decodeInt fnCR
    rw [CR_0_7]
    change whenZ _ (Instr.shl _ _ _) = _
    simp only [zeroAt, fD, fA, fB, CR_21_5, CR_16_5, CR_11_5, CR_7_4]
    rfl
  · exact absurd hs Bool.false_ne_true
  · exact absurd hs Bool.false_ne_true
  · exact absurd hs Bool.false_ne_true
theorem shr (d : BitVec 5) (a : BitVec 5) (b : BitVec 5) : Statement (.shr d a b) := by
  intro st hw hs
  cases st
  · refine decode_of ?_ hw hs
    change layoutC (encCR 0x01#6 d a b 0#4 0x06#7) = _
    unfold layoutC majorOf
    rw [CR_26_6]
    change decodeInt _ = _
    unfold decodeInt fnCR
    rw [CR_0_7]
    change whenZ _ (Instr.shr _ _ _) = _
    simp only [zeroAt, fD, fA, fB, CR_21_5, CR_16_5, CR_11_5, CR_7_4]
    rfl
  · exact absurd hs Bool.false_ne_true
  · exact absurd hs Bool.false_ne_true
  · exact absurd hs Bool.false_ne_true
theorem sar (d : BitVec 5) (a : BitVec 5) (b : BitVec 5) : Statement (.sar d a b) := by
  intro st hw hs
  cases st
  · refine decode_of ?_ hw hs
    change layoutC (encCR 0x01#6 d a b 0#4 0x07#7) = _
    unfold layoutC majorOf
    rw [CR_26_6]
    change decodeInt _ = _
    unfold decodeInt fnCR
    rw [CR_0_7]
    change whenZ _ (Instr.sar _ _ _) = _
    simp only [zeroAt, fD, fA, fB, CR_21_5, CR_16_5, CR_11_5, CR_7_4]
    rfl
  · exact absurd hs Bool.false_ne_true
  · exact absurd hs Bool.false_ne_true
  · exact absurd hs Bool.false_ne_true
theorem rotl (d : BitVec 5) (a : BitVec 5) (b : BitVec 5) : Statement (.rotl d a b) := by
  intro st hw hs
  cases st
  · refine decode_of ?_ hw hs
    change layoutC (encCR 0x01#6 d a b 0#4 0x08#7) = _
    unfold layoutC majorOf
    rw [CR_26_6]
    change decodeInt _ = _
    unfold decodeInt fnCR
    rw [CR_0_7]
    change whenZ _ (Instr.rotl _ _ _) = _
    simp only [zeroAt, fD, fA, fB, CR_21_5, CR_16_5, CR_11_5, CR_7_4]
    rfl
  · exact absurd hs Bool.false_ne_true
  · exact absurd hs Bool.false_ne_true
  · exact absurd hs Bool.false_ne_true
theorem min (d : BitVec 5) (a : BitVec 5) (b : BitVec 5) : Statement (.min d a b) := by
  intro st hw hs
  cases st
  · refine decode_of ?_ hw hs
    change layoutC (encCR 0x01#6 d a b 0#4 0x09#7) = _
    unfold layoutC majorOf
    rw [CR_26_6]
    change decodeInt _ = _
    unfold decodeInt fnCR
    rw [CR_0_7]
    change whenZ _ (Instr.min _ _ _) = _
    simp only [zeroAt, fD, fA, fB, CR_21_5, CR_16_5, CR_11_5, CR_7_4]
    rfl
  · exact absurd hs Bool.false_ne_true
  · exact absurd hs Bool.false_ne_true
  · exact absurd hs Bool.false_ne_true
theorem max (d : BitVec 5) (a : BitVec 5) (b : BitVec 5) : Statement (.max d a b) := by
  intro st hw hs
  cases st
  · refine decode_of ?_ hw hs
    change layoutC (encCR 0x01#6 d a b 0#4 0x0a#7) = _
    unfold layoutC majorOf
    rw [CR_26_6]
    change decodeInt _ = _
    unfold decodeInt fnCR
    rw [CR_0_7]
    change whenZ _ (Instr.max _ _ _) = _
    simp only [zeroAt, fD, fA, fB, CR_21_5, CR_16_5, CR_11_5, CR_7_4]
    rfl
  · exact absurd hs Bool.false_ne_true
  · exact absurd hs Bool.false_ne_true
  · exact absurd hs Bool.false_ne_true
theorem minn (d : BitVec 5) (a : BitVec 5) (b : BitVec 5) : Statement (.minn d a b) := by
  intro st hw hs
  cases st
  · refine decode_of ?_ hw hs
    change layoutC (encCR 0x01#6 d a b 0#4 0x0b#7) = _
    unfold layoutC majorOf
    rw [CR_26_6]
    change decodeInt _ = _
    unfold decodeInt fnCR
    rw [CR_0_7]
    change whenZ _ (Instr.minn _ _ _) = _
    simp only [zeroAt, fD, fA, fB, CR_21_5, CR_16_5, CR_11_5, CR_7_4]
    rfl
  · exact absurd hs Bool.false_ne_true
  · exact absurd hs Bool.false_ne_true
  · exact absurd hs Bool.false_ne_true
theorem maxn (d : BitVec 5) (a : BitVec 5) (b : BitVec 5) : Statement (.maxn d a b) := by
  intro st hw hs
  cases st
  · refine decode_of ?_ hw hs
    change layoutC (encCR 0x01#6 d a b 0#4 0x0c#7) = _
    unfold layoutC majorOf
    rw [CR_26_6]
    change decodeInt _ = _
    unfold decodeInt fnCR
    rw [CR_0_7]
    change whenZ _ (Instr.maxn _ _ _) = _
    simp only [zeroAt, fD, fA, fB, CR_21_5, CR_16_5, CR_11_5, CR_7_4]
    rfl
  · exact absurd hs Bool.false_ne_true
  · exact absurd hs Bool.false_ne_true
  · exact absurd hs Bool.false_ne_true
theorem clz (d : BitVec 5) (a : BitVec 5) : Statement (.clz d a) := by
  intro st hw hs
  cases st
  · refine decode_of ?_ hw hs
    change layoutC (encCR 0x01#6 d a 0#5 0#4 0x0d#7) = _
    unfold layoutC majorOf
    rw [CR_26_6]
    change decodeInt _ = _
    unfold decodeInt fnCR
    rw [CR_0_7]
    change whenZ _ (Instr.clz _ _) = _
    simp only [zeroAt, fD, fA, CR_21_5, CR_16_5, CR_11_5, CR_7_4]
    rfl
  · exact absurd hs Bool.false_ne_true
  · exact absurd hs Bool.false_ne_true
  · exact absurd hs Bool.false_ne_true
theorem ctz (d : BitVec 5) (a : BitVec 5) : Statement (.ctz d a) := by
  intro st hw hs
  cases st
  · refine decode_of ?_ hw hs
    change layoutC (encCR 0x01#6 d a 0#5 0#4 0x0e#7) = _
    unfold layoutC majorOf
    rw [CR_26_6]
    change decodeInt _ = _
    unfold decodeInt fnCR
    rw [CR_0_7]
    change whenZ _ (Instr.ctz _ _) = _
    simp only [zeroAt, fD, fA, CR_21_5, CR_16_5, CR_11_5, CR_7_4]
    rfl
  · exact absurd hs Bool.false_ne_true
  · exact absurd hs Bool.false_ne_true
  · exact absurd hs Bool.false_ne_true
theorem popc (d : BitVec 5) (a : BitVec 5) : Statement (.popc d a) := by
  intro st hw hs
  cases st
  · refine decode_of ?_ hw hs
    change layoutC (encCR 0x01#6 d a 0#5 0#4 0x0f#7) = _
    unfold layoutC majorOf
    rw [CR_26_6]
    change decodeInt _ = _
    unfold decodeInt fnCR
    rw [CR_0_7]
    change whenZ _ (Instr.popc _ _) = _
    simp only [zeroAt, fD, fA, CR_21_5, CR_16_5, CR_11_5, CR_7_4]
    rfl
  · exact absurd hs Bool.false_ne_true
  · exact absurd hs Bool.false_ne_true
  · exact absurd hs Bool.false_ne_true
theorem sext8 (d : BitVec 5) (a : BitVec 5) : Statement (.sext8 d a) := by
  intro st hw hs
  cases st
  · refine decode_of ?_ hw hs
    change layoutC (encCR 0x01#6 d a 0#5 0#4 0x10#7) = _
    unfold layoutC majorOf
    rw [CR_26_6]
    change decodeInt _ = _
    unfold decodeInt fnCR
    rw [CR_0_7]
    change whenZ _ (Instr.sext8 _ _) = _
    simp only [zeroAt, fD, fA, CR_21_5, CR_16_5, CR_11_5, CR_7_4]
    rfl
  · exact absurd hs Bool.false_ne_true
  · exact absurd hs Bool.false_ne_true
  · exact absurd hs Bool.false_ne_true
theorem sext16 (d : BitVec 5) (a : BitVec 5) : Statement (.sext16 d a) := by
  intro st hw hs
  cases st
  · refine decode_of ?_ hw hs
    change layoutC (encCR 0x01#6 d a 0#5 0#4 0x11#7) = _
    unfold layoutC majorOf
    rw [CR_26_6]
    change decodeInt _ = _
    unfold decodeInt fnCR
    rw [CR_0_7]
    change whenZ _ (Instr.sext16 _ _) = _
    simp only [zeroAt, fD, fA, CR_21_5, CR_16_5, CR_11_5, CR_7_4]
    rfl
  · exact absurd hs Bool.false_ne_true
  · exact absurd hs Bool.false_ne_true
  · exact absurd hs Bool.false_ne_true
theorem sext32 (d : BitVec 5) (a : BitVec 5) : Statement (.sext32 d a) := by
  intro st hw hs
  cases st
  · refine decode_of ?_ hw hs
    change layoutC (encCR 0x01#6 d a 0#5 0#4 0x12#7) = _
    unfold layoutC majorOf
    rw [CR_26_6]
    change decodeInt _ = _
    unfold decodeInt fnCR
    rw [CR_0_7]
    change whenZ _ (Instr.sext32 _ _) = _
    simp only [zeroAt, fD, fA, CR_21_5, CR_16_5, CR_11_5, CR_7_4]
    rfl
  · exact absurd hs Bool.false_ne_true
  · exact absurd hs Bool.false_ne_true
  · exact absurd hs Bool.false_ne_true
theorem zext8 (d : BitVec 5) (a : BitVec 5) : Statement (.zext8 d a) := by
  intro st hw hs
  cases st
  · refine decode_of ?_ hw hs
    change layoutC (encCR 0x01#6 d a 0#5 0#4 0x13#7) = _
    unfold layoutC majorOf
    rw [CR_26_6]
    change decodeInt _ = _
    unfold decodeInt fnCR
    rw [CR_0_7]
    change whenZ _ (Instr.zext8 _ _) = _
    simp only [zeroAt, fD, fA, CR_21_5, CR_16_5, CR_11_5, CR_7_4]
    rfl
  · exact absurd hs Bool.false_ne_true
  · exact absurd hs Bool.false_ne_true
  · exact absurd hs Bool.false_ne_true
theorem zext16 (d : BitVec 5) (a : BitVec 5) : Statement (.zext16 d a) := by
  intro st hw hs
  cases st
  · refine decode_of ?_ hw hs
    change layoutC (encCR 0x01#6 d a 0#5 0#4 0x14#7) = _
    unfold layoutC majorOf
    rw [CR_26_6]
    change decodeInt _ = _
    unfold decodeInt fnCR
    rw [CR_0_7]
    change whenZ _ (Instr.zext16 _ _) = _
    simp only [zeroAt, fD, fA, CR_21_5, CR_16_5, CR_11_5, CR_7_4]
    rfl
  · exact absurd hs Bool.false_ne_true
  · exact absurd hs Bool.false_ne_true
  · exact absurd hs Bool.false_ne_true
theorem zext32 (d : BitVec 5) (a : BitVec 5) : Statement (.zext32 d a) := by
  intro st hw hs
  cases st
  · refine decode_of ?_ hw hs
    change layoutC (encCR 0x01#6 d a 0#5 0#4 0x15#7) = _
    unfold layoutC majorOf
    rw [CR_26_6]
    change decodeInt _ = _
    unfold decodeInt fnCR
    rw [CR_0_7]
    change whenZ _ (Instr.zext32 _ _) = _
    simp only [zeroAt, fD, fA, CR_21_5, CR_16_5, CR_11_5, CR_7_4]
    rfl
  · exact absurd hs Bool.false_ne_true
  · exact absurd hs Bool.false_ne_true
  · exact absurd hs Bool.false_ne_true
theorem mul (d : BitVec 5) (a : BitVec 5) (b : BitVec 5) : Statement (.mul d a b) := by
  intro st hw hs
  cases st
  · refine decode_of ?_ hw hs
    change layoutC (encCR 0x02#6 d a b 0#4 0x00#7) = _
    unfold layoutC majorOf
    rw [CR_26_6]
    change decodeMul _ = _
    unfold decodeMul fnCR
    rw [CR_0_7]
    change whenZ _ (Instr.mul _ _ _) = _
    simp only [zeroAt, fD, fA, fB, CR_21_5, CR_16_5, CR_11_5, CR_7_4]
    rfl
  · exact absurd hs Bool.false_ne_true
  · exact absurd hs Bool.false_ne_true
  · exact absurd hs Bool.false_ne_true
theorem mulh (d : BitVec 5) (a : BitVec 5) (b : BitVec 5) : Statement (.mulh d a b) := by
  intro st hw hs
  cases st
  · refine decode_of ?_ hw hs
    change layoutC (encCR 0x02#6 d a b 0#4 0x01#7) = _
    unfold layoutC majorOf
    rw [CR_26_6]
    change decodeMul _ = _
    unfold decodeMul fnCR
    rw [CR_0_7]
    change whenZ _ (Instr.mulh _ _ _) = _
    simp only [zeroAt, fD, fA, fB, CR_21_5, CR_16_5, CR_11_5, CR_7_4]
    rfl
  · exact absurd hs Bool.false_ne_true
  · exact absurd hs Bool.false_ne_true
  · exact absurd hs Bool.false_ne_true
theorem mulhn (d : BitVec 5) (a : BitVec 5) (b : BitVec 5) : Statement (.mulhn d a b) := by
  intro st hw hs
  cases st
  · refine decode_of ?_ hw hs
    change layoutC (encCR 0x02#6 d a b 0#4 0x02#7) = _
    unfold layoutC majorOf
    rw [CR_26_6]
    change decodeMul _ = _
    unfold decodeMul fnCR
    rw [CR_0_7]
    change whenZ _ (Instr.mulhn _ _ _) = _
    simp only [zeroAt, fD, fA, fB, CR_21_5, CR_16_5, CR_11_5, CR_7_4]
    rfl
  · exact absurd hs Bool.false_ne_true
  · exact absurd hs Bool.false_ne_true
  · exact absurd hs Bool.false_ne_true
theorem div (d : BitVec 5) (a : BitVec 5) (b : BitVec 5) : Statement (.div d a b) := by
  intro st hw hs
  cases st
  · refine decode_of ?_ hw hs
    change layoutC (encCR 0x02#6 d a b 0#4 0x03#7) = _
    unfold layoutC majorOf
    rw [CR_26_6]
    change decodeMul _ = _
    unfold decodeMul fnCR
    rw [CR_0_7]
    change whenZ _ (Instr.div _ _ _) = _
    simp only [zeroAt, fD, fA, fB, CR_21_5, CR_16_5, CR_11_5, CR_7_4]
    rfl
  · exact absurd hs Bool.false_ne_true
  · exact absurd hs Bool.false_ne_true
  · exact absurd hs Bool.false_ne_true
theorem divn (d : BitVec 5) (a : BitVec 5) (b : BitVec 5) : Statement (.divn d a b) := by
  intro st hw hs
  cases st
  · refine decode_of ?_ hw hs
    change layoutC (encCR 0x02#6 d a b 0#4 0x04#7) = _
    unfold layoutC majorOf
    rw [CR_26_6]
    change decodeMul _ = _
    unfold decodeMul fnCR
    rw [CR_0_7]
    change whenZ _ (Instr.divn _ _ _) = _
    simp only [zeroAt, fD, fA, fB, CR_21_5, CR_16_5, CR_11_5, CR_7_4]
    rfl
  · exact absurd hs Bool.false_ne_true
  · exact absurd hs Bool.false_ne_true
  · exact absurd hs Bool.false_ne_true
theorem rem (d : BitVec 5) (a : BitVec 5) (b : BitVec 5) : Statement (.rem d a b) := by
  intro st hw hs
  cases st
  · refine decode_of ?_ hw hs
    change layoutC (encCR 0x02#6 d a b 0#4 0x05#7) = _
    unfold layoutC majorOf
    rw [CR_26_6]
    change decodeMul _ = _
    unfold decodeMul fnCR
    rw [CR_0_7]
    change whenZ _ (Instr.rem _ _ _) = _
    simp only [zeroAt, fD, fA, fB, CR_21_5, CR_16_5, CR_11_5, CR_7_4]
    rfl
  · exact absurd hs Bool.false_ne_true
  · exact absurd hs Bool.false_ne_true
  · exact absurd hs Bool.false_ne_true
theorem remn (d : BitVec 5) (a : BitVec 5) (b : BitVec 5) : Statement (.remn d a b) := by
  intro st hw hs
  cases st
  · refine decode_of ?_ hw hs
    change layoutC (encCR 0x02#6 d a b 0#4 0x06#7) = _
    unfold layoutC majorOf
    rw [CR_26_6]
    change decodeMul _ = _
    unfold decodeMul fnCR
    rw [CR_0_7]
    change whenZ _ (Instr.remn _ _ _) = _
    simp only [zeroAt, fD, fA, fB, CR_21_5, CR_16_5, CR_11_5, CR_7_4]
    rfl
  · exact absurd hs Bool.false_ne_true
  · exact absurd hs Bool.false_ne_true
  · exact absurd hs Bool.false_ne_true
theorem adda (d : BitVec 5) (a : BitVec 5) (b : BitVec 5) : Statement (.adda d a b) := by
  intro st hw hs
  cases st
  · refine decode_of ?_ hw hs
    change layoutC (encCR 0x03#6 d a b 0#4 0x00#7) = _
    unfold layoutC majorOf
    rw [CR_26_6]
    change decodeAddr _ = _
    unfold decodeAddr
    rw [if_pos (by unfold fnCR; rw [CR_0_7]; rfl)]
    simp only [zeroAt, fD, fA, fB, CR_21_5, CR_16_5, CR_11_5, CR_7_4]
    rfl
  · exact absurd hs Bool.false_ne_true
  · exact absurd hs Bool.false_ne_true
  · exact absurd hs Bool.false_ne_true
theorem mada (d : BitVec 5) (a : BitVec 5) (b : BitVec 5) (sh : BitVec 5) : Statement (.mada d a b sh) := by
  intro st hw hs
  have hv : (encode (.mada d a b sh)).toNat =
      3 * 2 ^ 26 + d.toNat * 2 ^ 21 + a.toNat * 2 ^ 16 + b.toNat * 2 ^ 11 +
        1 * 2 ^ 5 + sh.toNat := by
    change (encCR 0x03#6 d a b 0#4 (1#2 ++ sh)).toNat = _
    rw [CR_toNat, app_toNat]
    simp only [BitVec.toNat_ofNat]
    omega
  generalize encode (.mada d a b sh) = w at hv ⊢
  have f26_6 : fld w 26 6 = 3#6 := fld_of (by simp only [BitVec.toNat_ofNat]; omega)
  have f5_2 : fld w 5 2 = 1#2 := fld_of (by simp only [BitVec.toNat_ofNat]; omega)
  have f0_5 : fld w 0 5 = sh := fld_of (by omega)
  have f21_5 : fld w 21 5 = d := fld_of (by omega)
  have f16_5 : fld w 16 5 = a := fld_of (by omega)
  have f11_5 : fld w 11 5 = b := fld_of (by omega)
  have f7_4 : fld w 7 4 = 0#4 := fld_of (by simp only [BitVec.toNat_ofNat]; omega)
  cases st
  · refine decode_of ?_ hw hs
    change layoutC w = _
    unfold layoutC majorOf
    rw [f26_6]
    change decodeAddr _ = _
    unfold decodeAddr
    rw [if_neg (by unfold fnCR; rw [BitVec.extractLsb'_toNat]; omega), if_pos f5_2]
    simp only [zeroAt, fD, fA, fB, f0_5, f21_5, f16_5, f11_5, f7_4]
    rfl
  · exact absurd hs Bool.false_ne_true
  · exact absurd hs Bool.false_ne_true
  · exact absurd hs Bool.false_ne_true
theorem bfx (d : BitVec 5) (a : BitVec 5) (pos : BitVec 6) (width : BitVec 6) : Statement (.bfx d a pos width) := by
  intro st hw hs
  cases st
  · refine decode_of ?_ hw hs
    change layoutC (encCF 0x04#6 d a pos width 0#4) = _
    unfold layoutC majorOf
    rw [CF_26_6]
    change decodeField _ false = _
    unfold decodeField
    rw [CF_0_4]
    change some (Instr.bfx _ _ _ _) = _
    simp only [fD, fA, CF_21_5, CF_16_5, CF_10_6, CF_4_6]
  · exact absurd hs Bool.false_ne_true
  · exact absurd hs Bool.false_ne_true
  · exact absurd hs Bool.false_ne_true
theorem bfxs (d : BitVec 5) (a : BitVec 5) (pos : BitVec 6) (width : BitVec 6) : Statement (.bfxs d a pos width) := by
  intro st hw hs
  cases st
  · refine decode_of ?_ hw hs
    change layoutC (encCF 0x04#6 d a pos width 1#4) = _
    unfold layoutC majorOf
    rw [CF_26_6]
    change decodeField _ false = _
    unfold decodeField
    rw [CF_0_4]
    change some (Instr.bfxs _ _ _ _) = _
    simp only [fD, fA, CF_21_5, CF_16_5, CF_10_6, CF_4_6]
  · exact absurd hs Bool.false_ne_true
  · exact absurd hs Bool.false_ne_true
  · exact absurd hs Bool.false_ne_true
theorem bfi (d : BitVec 5) (a : BitVec 5) (pos : BitVec 6) (width : BitVec 6) : Statement (.bfi d a pos width) := by
  intro st hw hs
  cases st
  · refine decode_of ?_ hw hs
    change layoutC (encCF 0x04#6 d a pos width 2#4) = _
    unfold layoutC majorOf
    rw [CF_26_6]
    change decodeField _ false = _
    unfold decodeField
    rw [CF_0_4]
    change some (Instr.bfi _ _ _ _) = _
    simp only [fD, fA, CF_21_5, CF_16_5, CF_10_6, CF_4_6]
  · exact absurd hs Bool.false_ne_true
  · exact absurd hs Bool.false_ne_true
  · exact absurd hs Bool.false_ne_true
theorem shli (d : BitVec 5) (a : BitVec 5) (pos : BitVec 6) : Statement (.shli d a pos) := by
  intro st hw hs
  cases st
  · refine decode_of ?_ hw hs
    change layoutC (encCF 0x05#6 d a pos 0#6 0#4) = _
    unfold layoutC majorOf
    rw [CF_26_6]
    change decodeField _ true = _
    unfold decodeField
    rw [CF_0_4]
    change whenZ _ (Instr.shli _ _ _) = _
    simp only [zeroAt, fD, fA, CF_21_5, CF_16_5, CF_10_6, CF_4_6]
    rfl
  · exact absurd hs Bool.false_ne_true
  · exact absurd hs Bool.false_ne_true
  · exact absurd hs Bool.false_ne_true
theorem shri (d : BitVec 5) (a : BitVec 5) (pos : BitVec 6) : Statement (.shri d a pos) := by
  intro st hw hs
  cases st
  · refine decode_of ?_ hw hs
    change layoutC (encCF 0x05#6 d a pos 0#6 1#4) = _
    unfold layoutC majorOf
    rw [CF_26_6]
    change decodeField _ true = _
    unfold decodeField
    rw [CF_0_4]
    change whenZ _ (Instr.shri _ _ _) = _
    simp only [zeroAt, fD, fA, CF_21_5, CF_16_5, CF_10_6, CF_4_6]
    rfl
  · exact absurd hs Bool.false_ne_true
  · exact absurd hs Bool.false_ne_true
  · exact absurd hs Bool.false_ne_true
theorem sari (d : BitVec 5) (a : BitVec 5) (pos : BitVec 6) : Statement (.sari d a pos) := by
  intro st hw hs
  cases st
  · refine decode_of ?_ hw hs
    change layoutC (encCF 0x05#6 d a pos 0#6 2#4) = _
    unfold layoutC majorOf
    rw [CF_26_6]
    change decodeField _ true = _
    unfold decodeField
    rw [CF_0_4]
    change whenZ _ (Instr.sari _ _ _) = _
    simp only [zeroAt, fD, fA, CF_21_5, CF_16_5, CF_10_6, CF_4_6]
    rfl
  · exact absurd hs Bool.false_ne_true
  · exact absurd hs Bool.false_ne_true
  · exact absurd hs Bool.false_ne_true
theorem addi (d : BitVec 5) (a : BitVec 5) (imm : BitVec 16) : Statement (.addi d a imm) := by
  intro st hw hs
  cases st
  · refine decode_of ?_ hw hs
    change layoutC (encCI 0x06#6 d a imm) = _
    unfold layoutC majorOf
    rw [CI_26_6]
    change some (Instr.addi _ _ _) = _
    simp only [fD, fA, CI_21_5, CI_16_5, CI_0_16]
  · exact absurd hs Bool.false_ne_true
  · exact absurd hs Bool.false_ne_true
  · exact absurd hs Bool.false_ne_true
theorem andi (d : BitVec 5) (a : BitVec 5) (imm : BitVec 16) : Statement (.andi d a imm) := by
  intro st hw hs
  cases st
  · refine decode_of ?_ hw hs
    change layoutC (encCI 0x07#6 d a imm) = _
    unfold layoutC majorOf
    rw [CI_26_6]
    change some (Instr.andi _ _ _) = _
    simp only [fD, fA, CI_21_5, CI_16_5, CI_0_16]
  · exact absurd hs Bool.false_ne_true
  · exact absurd hs Bool.false_ne_true
  · exact absurd hs Bool.false_ne_true
theorem ori (d : BitVec 5) (a : BitVec 5) (imm : BitVec 16) : Statement (.ori d a imm) := by
  intro st hw hs
  cases st
  · refine decode_of ?_ hw hs
    change layoutC (encCI 0x08#6 d a imm) = _
    unfold layoutC majorOf
    rw [CI_26_6]
    change some (Instr.ori _ _ _) = _
    simp only [fD, fA, CI_21_5, CI_16_5, CI_0_16]
  · exact absurd hs Bool.false_ne_true
  · exact absurd hs Bool.false_ne_true
  · exact absurd hs Bool.false_ne_true
theorem xori (d : BitVec 5) (a : BitVec 5) (imm : BitVec 16) : Statement (.xori d a imm) := by
  intro st hw hs
  cases st
  · refine decode_of ?_ hw hs
    change layoutC (encCI 0x09#6 d a imm) = _
    unfold layoutC majorOf
    rw [CI_26_6]
    change some (Instr.xori _ _ _) = _
    simp only [fD, fA, CI_21_5, CI_16_5, CI_0_16]
  · exact absurd hs Bool.false_ne_true
  · exact absurd hs Bool.false_ne_true
  · exact absurd hs Bool.false_ne_true
theorem lim (d : BitVec 5) (imm : BitVec 21) : Statement (.lim d imm) := by
  intro st hw hs
  have hv : (encode (.lim d imm)).toNat =
      10 * 2 ^ 26 + d.toNat * 2 ^ 21 + imm.toNat := by
    change (0x0A#6 ++ d ++ imm).toNat = _
    rw [app_toNat, app_toNat]
    simp only [BitVec.toNat_ofNat]
    omega
  generalize encode (.lim d imm) = w at hv ⊢
  have f26_6 : fld w 26 6 = 10#6 := fld_of (by simp only [BitVec.toNat_ofNat]; omega)
  have f21_5 : fld w 21 5 = d := fld_of (by omega)
  have f0_21 : fld w 0 21 = imm := fld_of (by omega)
  cases st
  · refine decode_of ?_ hw hs
    change layoutC w = _
    unfold layoutC majorOf
    rw [f26_6]
    change some (Instr.lim _ _) = _
    simp only [fD, f21_5, f0_21]
  · exact absurd hs Bool.false_ne_true
  · exact absurd hs Bool.false_ne_true
  · exact absurd hs Bool.false_ne_true
theorem lih (d : BitVec 5) (q : BitVec 2) (imm : BitVec 16) : Statement (.lih d q imm) := by
  intro st hw hs
  have hv : (encode (.lih d q imm)).toNat =
      11 * 2 ^ 26 + d.toNat * 2 ^ 21 + q.toNat * 2 ^ 19 + imm.toNat := by
    change (0x0B#6 ++ d ++ q ++ 0#3 ++ imm).toNat = _
    rw [app_toNat, app_toNat, app_toNat, app_toNat]
    simp only [BitVec.toNat_ofNat]
    omega
  generalize encode (.lih d q imm) = w at hv ⊢
  have f26_6 : fld w 26 6 = 11#6 := fld_of (by simp only [BitVec.toNat_ofNat]; omega)
  have f16_3 : fld w 16 3 = 0#3 := fld_of (by simp only [BitVec.toNat_ofNat]; omega)
  have f21_5 : fld w 21 5 = d := fld_of (by omega)
  have f19_2 : fld w 19 2 = q := fld_of (by omega)
  have f0_16 : fld w 0 16 = imm := fld_of (by omega)
  cases st
  · refine decode_of ?_ hw hs
    change layoutC w = _
    unfold layoutC majorOf
    rw [f26_6]
    change whenZ _ (Instr.lih _ _ _) = _
    simp only [zeroAt, fD, f16_3, f21_5, f19_2, f0_16]
    rfl
  · exact absurd hs Bool.false_ne_true
  · exact absurd hs Bool.false_ne_true
  · exact absurd hs Bool.false_ne_true
theorem cmp (cc : BitVec 5) (a : BitVec 5) (b : BitVec 5) (j : BitVec 4) : Statement (.cmp cc a b j) := by
  intro st hw hs
  cases st
  · refine decode_of ?_ hw hs
    change layoutC (encCR 0x10#6 cc a b j 0#7) = _
    unfold layoutC majorOf
    rw [CR_26_6]
    change whenZ _ (Instr.cmp _ _ _ _) = _
    simp only [zeroAt, fD, fA, fB, fJ, CR_21_5, CR_16_5, CR_11_5, CR_7_4, CR_0_7]
    rfl
  · exact absurd hs Bool.false_ne_true
  · exact absurd hs Bool.false_ne_true
  · exact absurd hs Bool.false_ne_true
theorem cmpi (cc : BitVec 5) (a : BitVec 5) (imm : BitVec 12) (j : BitVec 4) : Statement (.cmpi cc a imm j) := by
  intro st hw hs
  cases st
  · refine decode_of ?_ hw hs
    change layoutC (encCR 0x11#6 cc a (fld imm 7 5) j (fld imm 0 7)) = _
    unfold layoutC majorOf
    rw [CR_26_6]
    change some (Instr.cmpi _ _ _ _) = _
    simp only [fD, fA, fJ, immCCI, CR_21_5, CR_16_5, CR_11_5, CR_7_4, CR_0_7, fld_split (n := 7) (m := 5)]
  · exact absurd hs Bool.false_ne_true
  · exact absurd hs Bool.false_ne_true
  · exact absurd hs Bool.false_ne_true
theorem jand (j : BitVec 4) (ja : BitVec 4) (jb : BitVec 4) : Statement (.jand j ja jb) := by
  intro st hw hs
  cases st
  · refine decode_of ?_ hw hs
    change layoutC (encCJ 0x12#6 ja 0#5 jb j 0x00#7) = _
    unfold layoutC majorOf
    rw [CJ_26_6]
    change decodeSteer _ = _
    unfold decodeSteer fnCR
    rw [CJ_0_7]
    change whenZ _ (Instr.jand _ _ _) = _
    simp only [zeroAt, fJ, fJa, fJb, CJ_25_1, CJ_21_4, CJ_11_4, CJ_7_4, CJ_15_6]
    rfl
  · exact absurd hs Bool.false_ne_true
  · exact absurd hs Bool.false_ne_true
  · exact absurd hs Bool.false_ne_true
theorem jor (j : BitVec 4) (ja : BitVec 4) (jb : BitVec 4) : Statement (.jor j ja jb) := by
  intro st hw hs
  cases st
  · refine decode_of ?_ hw hs
    change layoutC (encCJ 0x12#6 ja 0#5 jb j 0x01#7) = _
    unfold layoutC majorOf
    rw [CJ_26_6]
    change decodeSteer _ = _
    unfold decodeSteer fnCR
    rw [CJ_0_7]
    change whenZ _ (Instr.jor _ _ _) = _
    simp only [zeroAt, fJ, fJa, fJb, CJ_25_1, CJ_21_4, CJ_11_4, CJ_7_4, CJ_15_6]
    rfl
  · exact absurd hs Bool.false_ne_true
  · exact absurd hs Bool.false_ne_true
  · exact absurd hs Bool.false_ne_true
theorem jmov (j : BitVec 4) (ja : BitVec 4) : Statement (.jmov j ja) := by
  intro st hw hs
  cases st
  · refine decode_of ?_ hw hs
    change layoutC (encCJ 0x12#6 ja 0#5 0#4 j 0x02#7) = _
    unfold layoutC majorOf
    rw [CJ_26_6]
    change decodeSteer _ = _
    unfold decodeSteer fnCR
    rw [CJ_0_7]
    change whenZ _ (Instr.jmov _ _) = _
    simp only [zeroAt, fJ, fJa, CJ_25_1, CJ_21_4, CJ_11_4, CJ_7_4, CJ_15_6]
    rfl
  · exact absurd hs Bool.false_ne_true
  · exact absurd hs Bool.false_ne_true
  · exact absurd hs Bool.false_ne_true
theorem jclr (j : BitVec 4) : Statement (.jclr j) := by
  intro st hw hs
  cases st
  · refine decode_of ?_ hw hs
    change layoutC (encCJ 0x12#6 0#4 0#5 0#4 j 0x03#7) = _
    unfold layoutC majorOf
    rw [CJ_26_6]
    change decodeSteer _ = _
    unfold decodeSteer fnCR
    rw [CJ_0_7]
    change whenZ _ (Instr.jclr _) = _
    simp only [zeroAt, fJ, CJ_25_1, CJ_21_4, CJ_11_4, CJ_7_4, CJ_15_6]
    rfl
  · exact absurd hs Bool.false_ne_true
  · exact absurd hs Bool.false_ne_true
  · exact absurd hs Bool.false_ne_true
theorem prep (j : BitVec 4) (off : BitVec 22) : Statement (.prep j off) := by
  intro st hw hs
  have hv : (encode (.prep j off)).toNat =
      19 * 2 ^ 26 + (fld off 7 15).toNat * 2 ^ 11 + j.toNat * 2 ^ 7 + (fld off 0 7).toNat := by
    change (0x13#6 ++ fld off 7 15 ++ j ++ fld off 0 7).toNat = _
    rw [app_toNat, app_toNat, app_toNat]
    simp only [BitVec.toNat_ofNat]
    omega
  generalize encode (.prep j off) = w at hv ⊢
  have f26_6 : fld w 26 6 = 19#6 := fld_of (by simp only [BitVec.toNat_ofNat]; omega)
  have f7_4 : fld w 7 4 = j := fld_of (by omega)
  have f11_15 : fld w 11 15 = fld off 7 15 := fld_of (by omega)
  have f0_7 : fld w 0 7 = fld off 0 7 := fld_of (by omega)
  cases st
  · refine decode_of ?_ hw hs
    change layoutC w = _
    unfold layoutC majorOf
    rw [f26_6]
    change some (Instr.prep _ _) = _
    simp only [fJ, off22, f7_4, f11_15, f0_7, fld_split (n := 7) (m := 15)]
  · exact absurd hs Bool.false_ne_true
  · exact absurd hs Bool.false_ne_true
  · exact absurd hs Bool.false_ne_true
theorem prepx (j : BitVec 4) (a : BitVec 5) : Statement (.prepx j a) := by
  intro st hw hs
  cases st
  · refine decode_of ?_ hw hs
    change layoutC (encCJ 0x14#6 0#4 a 0#4 j 0x00#7) = _
    unfold layoutC majorOf
    rw [CJ_26_6]
    change whenZ _ (Instr.prepx _ _) = _
    simp only [zeroAt, fA, fJ, CJ_16_5, CJ_7_4, CJ_0_7, CJ_21_5, CJ_11_5]
    rfl
  · exact absurd hs Bool.false_ne_true
  · exact absurd hs Bool.false_ne_true
  · exact absurd hs Bool.false_ne_true
theorem xferA (j : BitVec 4) : Statement (.xferA j) := by
  intro st hw hs
  cases st
  · refine decode_of ?_ hw hs
    change layoutC (encCJ 0x15#6 0#4 0#5 0#4 j 0x00#7) = _
    unfold layoutC majorOf
    rw [CJ_26_6]
    change decodeXfer _ = _
    unfold decodeXfer fnCR
    rw [CJ_0_7]
    change whenZ _ (Instr.xferA _) = _
    simp only [zeroAt, fJ, CJ_25_1, CJ_21_4, CJ_7_4, CJ_11_10]
    rfl
  · exact absurd hs Bool.false_ne_true
  · exact absurd hs Bool.false_ne_true
  · exact absurd hs Bool.false_ne_true
theorem xferT (j : BitVec 4) : Statement (.xferT j) := by
  intro st hw hs
  cases st
  · refine decode_of ?_ hw hs
    change layoutC (encCJ 0x15#6 0#4 0#5 0#4 j 0x01#7) = _
    unfold layoutC majorOf
    rw [CJ_26_6]
    change decodeXfer _ = _
    unfold decodeXfer fnCR
    rw [CJ_0_7]
    change whenZ _ (Instr.xferT _) = _
    simp only [zeroAt, fJ, CJ_25_1, CJ_21_4, CJ_7_4, CJ_11_10]
    rfl
  · exact absurd hs Bool.false_ne_true
  · exact absurd hs Bool.false_ne_true
  · exact absurd hs Bool.false_ne_true
theorem xferF (j : BitVec 4) : Statement (.xferF j) := by
  intro st hw hs
  cases st
  · refine decode_of ?_ hw hs
    change layoutC (encCJ 0x15#6 0#4 0#5 0#4 j 0x02#7) = _
    unfold layoutC majorOf
    rw [CJ_26_6]
    change decodeXfer _ = _
    unfold decodeXfer fnCR
    rw [CJ_0_7]
    change whenZ _ (Instr.xferF _) = _
    simp only [zeroAt, fJ, CJ_25_1, CJ_21_4, CJ_7_4, CJ_11_10]
    rfl
  · exact absurd hs Bool.false_ne_true
  · exact absurd hs Bool.false_ne_true
  · exact absurd hs Bool.false_ne_true
theorem xferl (j : BitVec 4) (ja : BitVec 4) : Statement (.xferl j ja) := by
  intro st hw hs
  cases st
  · refine decode_of ?_ hw hs
    change layoutC (encCJ 0x15#6 ja 0#5 0#4 j 0x03#7) = _
    unfold layoutC majorOf
    rw [CJ_26_6]
    change decodeXfer _ = _
    unfold decodeXfer fnCR
    rw [CJ_0_7]
    change whenZ _ (Instr.xferl _ _) = _
    simp only [zeroAt, fJ, fJa, CJ_25_1, CJ_21_4, CJ_7_4, CJ_11_10]
    rfl
  · exact absurd hs Bool.false_ne_true
  · exact absurd hs Bool.false_ne_true
  · exact absurd hs Bool.false_ne_true
theorem jrd (d : BitVec 5) (j : BitVec 4) : Statement (.jrd d j) := by
  intro st hw hs
  cases st
  · refine decode_of ?_ hw hs
    change layoutC (encCR 0x16#6 d 0#5 0#5 j 0#7) = _
    unfold layoutC majorOf
    rw [CR_26_6]
    change whenZ _ (Instr.jrd _ _) = _
    simp only [zeroAt, fD, fJ, CR_21_5, CR_7_4, CR_0_7, CR_11_10]
    rfl
  · exact absurd hs Bool.false_ne_true
  · exact absurd hs Bool.false_ne_true
  · exact absurd hs Bool.false_ne_true
theorem loop (lp : BitVec 2) (a : BitVec 5) (skip : BitVec 16) : Statement (.loop lp a skip) := by
  intro st hw hs
  have hv : (encode (.loop lp a skip)).toNat =
      24 * 2 ^ 26 + lp.toNat * 2 ^ 24 + a.toNat * 2 ^ 16 + skip.toNat := by
    change (0x18#6 ++ lp ++ 0#3 ++ a ++ skip).toNat = _
    rw [app_toNat, app_toNat, app_toNat, app_toNat]
    simp only [BitVec.toNat_ofNat]
    omega
  generalize encode (.loop lp a skip) = w at hv ⊢
  have f26_6 : fld w 26 6 = 24#6 := fld_of (by simp only [BitVec.toNat_ofNat]; omega)
  have f21_3 : fld w 21 3 = 0#3 := fld_of (by simp only [BitVec.toNat_ofNat]; omega)
  have f24_2 : fld w 24 2 = lp := fld_of (by omega)
  have f16_5 : fld w 16 5 = a := fld_of (by omega)
  have f0_16 : fld w 0 16 = skip := fld_of (by omega)
  cases st
  · refine decode_of ?_ hw hs
    change layoutC w = _
    unfold layoutC majorOf
    rw [f26_6]
    change whenZ _ (Instr.loop _ _ _) = _
    simp only [zeroAt, fA, f21_3, f24_2, f16_5, f0_16]
    rfl
  · exact absurd hs Bool.false_ne_true
  · exact absurd hs Bool.false_ne_true
  · exact absurd hs Bool.false_ne_true
theorem loopc (lp : BitVec 2) (j : BitVec 4) (mx : BitVec 20) : Statement (.loopc lp j mx) := by
  intro st hw hs
  have hv : (encode (.loopc lp j mx)).toNat =
      25 * 2 ^ 26 + lp.toNat * 2 ^ 24 + (fld mx 7 13).toNat * 2 ^ 11 + j.toNat * 2 ^ 7 +
        (fld mx 0 7).toNat := by
    change (0x19#6 ++ lp ++ fld mx 7 13 ++ j ++ fld mx 0 7).toNat = _
    rw [app_toNat, app_toNat, app_toNat, app_toNat]
    simp only [BitVec.toNat_ofNat]
    omega
  generalize encode (.loopc lp j mx) = w at hv ⊢
  have f26_6 : fld w 26 6 = 25#6 := fld_of (by simp only [BitVec.toNat_ofNat]; omega)
  have f24_2 : fld w 24 2 = lp := fld_of (by omega)
  have f7_4 : fld w 7 4 = j := fld_of (by omega)
  have f11_13 : fld w 11 13 = fld mx 7 13 := fld_of (by omega)
  have f0_7 : fld w 0 7 = fld mx 0 7 := fld_of (by omega)
  cases st
  · refine decode_of ?_ hw hs
    change layoutC w = _
    unfold layoutC majorOf
    rw [f26_6]
    change some (Instr.loopc _ _ _) = _
    simp only [fJ, maxCLP, f24_2, f7_4, f11_13, f0_7, fld_split (n := 7) (m := 13)]
  · exact absurd hs Bool.false_ne_true
  · exact absurd hs Bool.false_ne_true
  · exact absurd hs Bool.false_ne_true
theorem lend (lp : BitVec 2) : Statement (.lend lp) := by
  intro st hw hs
  have hv : (encode (.lend lp)).toNat =
      26 * 2 ^ 26 + lp.toNat * 2 ^ 24 := by
    change (0x1A#6 ++ lp ++ 0#24).toNat = _
    rw [app_toNat, app_toNat]
    simp only [BitVec.toNat_ofNat]
    omega
  generalize encode (.lend lp) = w at hv ⊢
  have f26_6 : fld w 26 6 = 26#6 := fld_of (by simp only [BitVec.toNat_ofNat]; omega)
  have f0_24 : fld w 0 24 = 0#24 := fld_of (by simp only [BitVec.toNat_ofNat]; omega)
  have f24_2 : fld w 24 2 = lp := fld_of (by omega)
  cases st
  · refine decode_of ?_ hw hs
    change layoutC w = _
    unfold layoutC majorOf
    rw [f26_6]
    change whenZ _ (Instr.lend _) = _
    simp only [zeroAt, f0_24, f24_2]
    rfl
  · exact absurd hs Bool.false_ne_true
  · exact absurd hs Bool.false_ne_true
  · exact absurd hs Bool.false_ne_true
theorem tksend (a : BitVec 5) (t : BitVec 2) : Statement (.tksend a t) := by
  intro st hw hs
  have hv : (encode (.tksend a t)).toNat =
      28 * 2 ^ 26 + a.toNat * 2 ^ 16 + t.toNat * 2 ^ 5 := by
    change (0x1C#6 ++ 0#5 ++ a ++ 0#9 ++ t ++ 0#5).toNat = _
    rw [app_toNat, app_toNat, app_toNat, app_toNat, app_toNat]
    simp only [BitVec.toNat_ofNat]
    omega
  generalize encode (.tksend a t) = w at hv ⊢
  have f26_6 : fld w 26 6 = 28#6 := fld_of (by simp only [BitVec.toNat_ofNat]; omega)
  have f21_5 : fld w 21 5 = 0#5 := fld_of (by simp only [BitVec.toNat_ofNat]; omega)
  have f7_9 : fld w 7 9 = 0#9 := fld_of (by simp only [BitVec.toNat_ofNat]; omega)
  have f0_5 : fld w 0 5 = 0#5 := fld_of (by simp only [BitVec.toNat_ofNat]; omega)
  have f16_5 : fld w 16 5 = a := fld_of (by omega)
  have f5_2 : fld w 5 2 = t := fld_of (by omega)
  cases st
  · refine decode_of ?_ hw hs
    change layoutC w = _
    unfold layoutC majorOf
    rw [f26_6]
    change whenZ _ (Instr.tksend _ _) = _
    simp only [zeroAt, fA, f21_5, f7_9, f0_5, f16_5, f5_2]
    rfl
  · exact absurd hs Bool.false_ne_true
  · exact absurd hs Bool.false_ne_true
  · exact absurd hs Bool.false_ne_true
theorem tkrecv (d : BitVec 5) (t : BitVec 2) : Statement (.tkrecv d t) := by
  intro st hw hs
  have hv : (encode (.tkrecv d t)).toNat =
      29 * 2 ^ 26 + d.toNat * 2 ^ 21 + t.toNat * 2 ^ 5 := by
    change (0x1D#6 ++ d ++ 0#14 ++ t ++ 0#5).toNat = _
    rw [app_toNat, app_toNat, app_toNat, app_toNat]
    simp only [BitVec.toNat_ofNat]
    omega
  generalize encode (.tkrecv d t) = w at hv ⊢
  have f26_6 : fld w 26 6 = 29#6 := fld_of (by simp only [BitVec.toNat_ofNat]; omega)
  have f7_14 : fld w 7 14 = 0#14 := fld_of (by simp only [BitVec.toNat_ofNat]; omega)
  have f0_5 : fld w 0 5 = 0#5 := fld_of (by simp only [BitVec.toNat_ofNat]; omega)
  have f21_5 : fld w 21 5 = d := fld_of (by omega)
  have f5_2 : fld w 5 2 = t := fld_of (by omega)
  cases st
  · refine decode_of ?_ hw hs
    change layoutC w = _
    unfold layoutC majorOf
    rw [f26_6]
    change whenZ _ (Instr.tkrecv _ _) = _
    simp only [zeroAt, fD, f7_14, f0_5, f21_5, f5_2]
    rfl
  · exact absurd hs Bool.false_ne_true
  · exact absurd hs Bool.false_ne_true
  · exact absurd hs Bool.false_ne_true
theorem ldxPlace (d : BitVec 5) (a : BitVec 5) (ord : BitVec 4) (ty : BitVec 3) (imm : BitVec 4) : Statement (.ldxPlace d a ord ty imm) := by
  intro st hw hs
  cases st
  · refine decode_of ?_ hw hs
    change layoutC (encCM 0x20#6 d a 0#5 ord ty imm) = _
    unfold layoutC majorOf
    rw [CM_26_6]
    change decodeMem _ 32 = _
    unfold decodeMem
    change whenZ _ (Instr.ldxPlace _ _ _ _ _) = _
    simp only [zeroAt, fD, fA, CM_21_5, CM_16_5, CM_11_5, CM_7_4, CM_4_3, CM_0_4]
    rfl
  · exact absurd hs Bool.false_ne_true
  · exact absurd hs Bool.false_ne_true
  · exact absurd hs Bool.false_ne_true
theorem ldxHandle (d : BitVec 5) (h : BitVec 5) (b : BitVec 5) (ord : BitVec 4) (ty : BitVec 3) (imm : BitVec 4) : Statement (.ldxHandle d h b ord ty imm) := by
  intro st hw hs
  cases st
  · refine decode_of ?_ hw hs
    change layoutC (encCM 0x21#6 d h b ord ty imm) = _
    unfold layoutC majorOf
    rw [CM_26_6]
    change decodeMem _ 33 = _
    unfold decodeMem
    change some (Instr.ldxHandle _ _ _ _ _ _) = _
    simp only [fD, fA, fB, CM_21_5, CM_16_5, CM_11_5, CM_7_4, CM_4_3, CM_0_4]
  · exact absurd hs Bool.false_ne_true
  · exact absurd hs Bool.false_ne_true
  · exact absurd hs Bool.false_ne_true
theorem stxPlace (d : BitVec 5) (a : BitVec 5) (ord : BitVec 4) (ty : BitVec 3) (imm : BitVec 4) : Statement (.stxPlace d a ord ty imm) := by
  intro st hw hs
  cases st
  · refine decode_of ?_ hw hs
    change layoutC (encCM 0x22#6 d a 0#5 ord ty imm) = _
    unfold layoutC majorOf
    rw [CM_26_6]
    change decodeMem _ 34 = _
    unfold decodeMem
    change whenZ _ (Instr.stxPlace _ _ _ _ _) = _
    simp only [zeroAt, fD, fA, CM_21_5, CM_16_5, CM_11_5, CM_7_4, CM_4_3, CM_0_4]
    rfl
  · exact absurd hs Bool.false_ne_true
  · exact absurd hs Bool.false_ne_true
  · exact absurd hs Bool.false_ne_true
theorem stxHandle (d : BitVec 5) (h : BitVec 5) (b : BitVec 5) (ord : BitVec 4) (ty : BitVec 3) (imm : BitVec 4) : Statement (.stxHandle d h b ord ty imm) := by
  intro st hw hs
  cases st
  · refine decode_of ?_ hw hs
    change layoutC (encCM 0x23#6 d h b ord ty imm) = _
    unfold layoutC majorOf
    rw [CM_26_6]
    change decodeMem _ 35 = _
    unfold decodeMem
    change some (Instr.stxHandle _ _ _ _ _ _) = _
    simp only [fD, fA, fB, CM_21_5, CM_16_5, CM_11_5, CM_7_4, CM_4_3, CM_0_4]
  · exact absurd hs Bool.false_ne_true
  · exact absurd hs Bool.false_ne_true
  · exact absurd hs Bool.false_ne_true
theorem ldxpPlace (d : BitVec 5) (a : BitVec 5) (ord : BitVec 4) (imm : BitVec 4) : Statement (.ldxpPlace d a ord imm) := by
  intro st hw hs
  cases st
  · refine decode_of ?_ hw hs
    change layoutC (encCM 0x24#6 d a 0#5 ord 6#3 imm) = _
    unfold layoutC majorOf
    rw [CM_26_6]
    change decodeMem _ 36 = _
    unfold decodeMem
    change whenZ _ (Instr.ldxpPlace _ _ _ _) = _
    simp only [zeroAt, fD, fA, CM_21_5, CM_16_5, CM_11_5, CM_7_4, CM_4_3, CM_0_4]
    rfl
  · exact absurd hs Bool.false_ne_true
  · exact absurd hs Bool.false_ne_true
  · exact absurd hs Bool.false_ne_true
theorem ldxpHandle (d : BitVec 5) (h : BitVec 5) (b : BitVec 5) (ord : BitVec 4) (imm : BitVec 4) : Statement (.ldxpHandle d h b ord imm) := by
  intro st hw hs
  cases st
  · refine decode_of ?_ hw hs
    change layoutC (encCM 0x25#6 d h b ord 6#3 imm) = _
    unfold layoutC majorOf
    rw [CM_26_6]
    change decodeMem _ 37 = _
    unfold decodeMem
    change whenZ _ (Instr.ldxpHandle _ _ _ _ _) = _
    simp only [fD, fA, fB, CM_21_5, CM_16_5, CM_11_5, CM_7_4, CM_4_3, CM_0_4]
    rfl
  · exact absurd hs Bool.false_ne_true
  · exact absurd hs Bool.false_ne_true
  · exact absurd hs Bool.false_ne_true
theorem stxpPlace (d : BitVec 5) (a : BitVec 5) (ord : BitVec 4) (imm : BitVec 4) : Statement (.stxpPlace d a ord imm) := by
  intro st hw hs
  cases st
  · refine decode_of ?_ hw hs
    change layoutC (encCM 0x26#6 d a 0#5 ord 6#3 imm) = _
    unfold layoutC majorOf
    rw [CM_26_6]
    change decodeMem _ 38 = _
    unfold decodeMem
    change whenZ _ (Instr.stxpPlace _ _ _ _) = _
    simp only [zeroAt, fD, fA, CM_21_5, CM_16_5, CM_11_5, CM_7_4, CM_4_3, CM_0_4]
    rfl
  · exact absurd hs Bool.false_ne_true
  · exact absurd hs Bool.false_ne_true
  · exact absurd hs Bool.false_ne_true
theorem stxpHandle (d : BitVec 5) (h : BitVec 5) (b : BitVec 5) (ord : BitVec 4) (imm : BitVec 4) : Statement (.stxpHandle d h b ord imm) := by
  intro st hw hs
  cases st
  · refine decode_of ?_ hw hs
    change layoutC (encCM 0x27#6 d h b ord 6#3 imm) = _
    unfold layoutC majorOf
    rw [CM_26_6]
    change decodeMem _ 39 = _
    unfold decodeMem
    change whenZ _ (Instr.stxpHandle _ _ _ _ _) = _
    simp only [fD, fA, fB, CM_21_5, CM_16_5, CM_11_5, CM_7_4, CM_4_3, CM_0_4]
    rfl
  · exact absurd hs Bool.false_ne_true
  · exact absurd hs Bool.false_ne_true
  · exact absurd hs Bool.false_ne_true
theorem ataddPlace (d : BitVec 5) (a : BitVec 5) (b : BitVec 5) (ord : BitVec 4) (sz : BitVec 1) : Statement (.ataddPlace d a b ord sz) := by
  intro st hw hs
  cases st
  · refine decode_of ?_ hw hs
    change layoutC (encCA 0x28#6 d a b ord 0#4 sz) = _
    unfold layoutC majorOf
    rw [CA_26_6]
    change decodeAtomP _ = _
    unfold decodeAtomP
    rw [CA_3_4]
    change whenZ _ (Instr.ataddPlace _ _ _ _ _) = _
    simp only [zeroAt, fD, fA, fB, CA_21_5, CA_16_5, CA_11_5, CA_7_4, CA_2_1, CA_0_2]
    rfl
  · exact absurd hs Bool.false_ne_true
  · exact absurd hs Bool.false_ne_true
  · exact absurd hs Bool.false_ne_true
theorem ataddHandle (d : BitVec 5) (h : BitVec 5) (b : BitVec 5) (ord : BitVec 4) (sz : BitVec 1) : Statement (.ataddHandle d h b ord sz) := by
  intro st hw hs
  cases st
  · refine decode_of ?_ hw hs
    change layoutC (encCA 0x29#6 d h b ord 0#4 sz) = _
    unfold layoutC majorOf
    rw [CA_26_6]
    change decodeAtomH _ = _
    unfold decodeAtomH
    rw [CA_3_4]
    change whenZ _ (Instr.ataddHandle _ _ _ _ _) = _
    simp only [zeroAt, fD, fA, fB, CA_21_5, CA_16_5, CA_11_5, CA_7_4, CA_2_1, CA_0_2]
    rfl
  · exact absurd hs Bool.false_ne_true
  · exact absurd hs Bool.false_ne_true
  · exact absurd hs Bool.false_ne_true
theorem atswpPlace (d : BitVec 5) (a : BitVec 5) (b : BitVec 5) (ord : BitVec 4) (sz : BitVec 1) : Statement (.atswpPlace d a b ord sz) := by
  intro st hw hs
  cases st
  · refine decode_of ?_ hw hs
    change layoutC (encCA 0x28#6 d a b ord 1#4 sz) = _
    unfold layoutC majorOf
    rw [CA_26_6]
    change decodeAtomP _ = _
    unfold decodeAtomP
    rw [CA_3_4]
    change whenZ _ (Instr.atswpPlace _ _ _ _ _) = _
    simp only [zeroAt, fD, fA, fB, CA_21_5, CA_16_5, CA_11_5, CA_7_4, CA_2_1, CA_0_2]
    rfl
  · exact absurd hs Bool.false_ne_true
  · exact absurd hs Bool.false_ne_true
  · exact absurd hs Bool.false_ne_true
theorem atswpHandle (d : BitVec 5) (h : BitVec 5) (b : BitVec 5) (ord : BitVec 4) (sz : BitVec 1) : Statement (.atswpHandle d h b ord sz) := by
  intro st hw hs
  cases st
  · refine decode_of ?_ hw hs
    change layoutC (encCA 0x29#6 d h b ord 1#4 sz) = _
    unfold layoutC majorOf
    rw [CA_26_6]
    change decodeAtomH _ = _
    unfold decodeAtomH
    rw [CA_3_4]
    change whenZ _ (Instr.atswpHandle _ _ _ _ _) = _
    simp only [zeroAt, fD, fA, fB, CA_21_5, CA_16_5, CA_11_5, CA_7_4, CA_2_1, CA_0_2]
    rfl
  · exact absurd hs Bool.false_ne_true
  · exact absurd hs Bool.false_ne_true
  · exact absurd hs Bool.false_ne_true
theorem atcasPlace (d : BitVec 5) (a : BitVec 5) (b : BitVec 5) (ord : BitVec 4) (sz : BitVec 1) : Statement (.atcasPlace d a b ord sz) := by
  intro st hw hs
  cases st
  · refine decode_of ?_ hw hs
    change layoutC (encCA 0x28#6 d a b ord 2#4 sz) = _
    unfold layoutC majorOf
    rw [CA_26_6]
    change decodeAtomP _ = _
    unfold decodeAtomP
    rw [CA_3_4]
    change whenZ _ (Instr.atcasPlace _ _ _ _ _) = _
    simp only [zeroAt, fD, fA, fB, CA_21_5, CA_16_5, CA_11_5, CA_7_4, CA_2_1, CA_0_2]
    rfl
  · exact absurd hs Bool.false_ne_true
  · exact absurd hs Bool.false_ne_true
  · exact absurd hs Bool.false_ne_true
theorem atcasHandle (d : BitVec 5) (h : BitVec 5) (b : BitVec 5) (ord : BitVec 4) (sz : BitVec 1) : Statement (.atcasHandle d h b ord sz) := by
  intro st hw hs
  cases st
  · refine decode_of ?_ hw hs
    change layoutC (encCA 0x29#6 d h b ord 2#4 sz) = _
    unfold layoutC majorOf
    rw [CA_26_6]
    change decodeAtomH _ = _
    unfold decodeAtomH
    rw [CA_3_4]
    change whenZ _ (Instr.atcasHandle _ _ _ _ _) = _
    simp only [zeroAt, fD, fA, fB, CA_21_5, CA_16_5, CA_11_5, CA_7_4, CA_2_1, CA_0_2]
    rfl
  · exact absurd hs Bool.false_ne_true
  · exact absurd hs Bool.false_ne_true
  · exact absurd hs Bool.false_ne_true
theorem atminPlace (d : BitVec 5) (a : BitVec 5) (b : BitVec 5) (ord : BitVec 4) (sz : BitVec 1) : Statement (.atminPlace d a b ord sz) := by
  intro st hw hs
  cases st
  · refine decode_of ?_ hw hs
    change layoutC (encCA 0x28#6 d a b ord 3#4 sz) = _
    unfold layoutC majorOf
    rw [CA_26_6]
    change decodeAtomP _ = _
    unfold decodeAtomP
    rw [CA_3_4]
    change whenZ _ (Instr.atminPlace _ _ _ _ _) = _
    simp only [zeroAt, fD, fA, fB, CA_21_5, CA_16_5, CA_11_5, CA_7_4, CA_2_1, CA_0_2]
    rfl
  · exact absurd hs Bool.false_ne_true
  · exact absurd hs Bool.false_ne_true
  · exact absurd hs Bool.false_ne_true
theorem atminHandle (d : BitVec 5) (h : BitVec 5) (b : BitVec 5) (ord : BitVec 4) (sz : BitVec 1) : Statement (.atminHandle d h b ord sz) := by
  intro st hw hs
  cases st
  · refine decode_of ?_ hw hs
    change layoutC (encCA 0x29#6 d h b ord 3#4 sz) = _
    unfold layoutC majorOf
    rw [CA_26_6]
    change decodeAtomH _ = _
    unfold decodeAtomH
    rw [CA_3_4]
    change whenZ _ (Instr.atminHandle _ _ _ _ _) = _
    simp only [zeroAt, fD, fA, fB, CA_21_5, CA_16_5, CA_11_5, CA_7_4, CA_2_1, CA_0_2]
    rfl
  · exact absurd hs Bool.false_ne_true
  · exact absurd hs Bool.false_ne_true
  · exact absurd hs Bool.false_ne_true
theorem atmaxPlace (d : BitVec 5) (a : BitVec 5) (b : BitVec 5) (ord : BitVec 4) (sz : BitVec 1) : Statement (.atmaxPlace d a b ord sz) := by
  intro st hw hs
  cases st
  · refine decode_of ?_ hw hs
    change layoutC (encCA 0x28#6 d a b ord 4#4 sz) = _
    unfold layoutC majorOf
    rw [CA_26_6]
    change decodeAtomP _ = _
    unfold decodeAtomP
    rw [CA_3_4]
    change whenZ _ (Instr.atmaxPlace _ _ _ _ _) = _
    simp only [zeroAt, fD, fA, fB, CA_21_5, CA_16_5, CA_11_5, CA_7_4, CA_2_1, CA_0_2]
    rfl
  · exact absurd hs Bool.false_ne_true
  · exact absurd hs Bool.false_ne_true
  · exact absurd hs Bool.false_ne_true
theorem atmaxHandle (d : BitVec 5) (h : BitVec 5) (b : BitVec 5) (ord : BitVec 4) (sz : BitVec 1) : Statement (.atmaxHandle d h b ord sz) := by
  intro st hw hs
  cases st
  · refine decode_of ?_ hw hs
    change layoutC (encCA 0x29#6 d h b ord 4#4 sz) = _
    unfold layoutC majorOf
    rw [CA_26_6]
    change decodeAtomH _ = _
    unfold decodeAtomH
    rw [CA_3_4]
    change whenZ _ (Instr.atmaxHandle _ _ _ _ _) = _
    simp only [zeroAt, fD, fA, fB, CA_21_5, CA_16_5, CA_11_5, CA_7_4, CA_2_1, CA_0_2]
    rfl
  · exact absurd hs Bool.false_ne_true
  · exact absurd hs Bool.false_ne_true
  · exact absurd hs Bool.false_ne_true
theorem atandPlace (d : BitVec 5) (a : BitVec 5) (b : BitVec 5) (ord : BitVec 4) (sz : BitVec 1) : Statement (.atandPlace d a b ord sz) := by
  intro st hw hs
  cases st
  · refine decode_of ?_ hw hs
    change layoutC (encCA 0x28#6 d a b ord 5#4 sz) = _
    unfold layoutC majorOf
    rw [CA_26_6]
    change decodeAtomP _ = _
    unfold decodeAtomP
    rw [CA_3_4]
    change whenZ _ (Instr.atandPlace _ _ _ _ _) = _
    simp only [zeroAt, fD, fA, fB, CA_21_5, CA_16_5, CA_11_5, CA_7_4, CA_2_1, CA_0_2]
    rfl
  · exact absurd hs Bool.false_ne_true
  · exact absurd hs Bool.false_ne_true
  · exact absurd hs Bool.false_ne_true
theorem atandHandle (d : BitVec 5) (h : BitVec 5) (b : BitVec 5) (ord : BitVec 4) (sz : BitVec 1) : Statement (.atandHandle d h b ord sz) := by
  intro st hw hs
  cases st
  · refine decode_of ?_ hw hs
    change layoutC (encCA 0x29#6 d h b ord 5#4 sz) = _
    unfold layoutC majorOf
    rw [CA_26_6]
    change decodeAtomH _ = _
    unfold decodeAtomH
    rw [CA_3_4]
    change whenZ _ (Instr.atandHandle _ _ _ _ _) = _
    simp only [zeroAt, fD, fA, fB, CA_21_5, CA_16_5, CA_11_5, CA_7_4, CA_2_1, CA_0_2]
    rfl
  · exact absurd hs Bool.false_ne_true
  · exact absurd hs Bool.false_ne_true
  · exact absurd hs Bool.false_ne_true
theorem atorPlace (d : BitVec 5) (a : BitVec 5) (b : BitVec 5) (ord : BitVec 4) (sz : BitVec 1) : Statement (.atorPlace d a b ord sz) := by
  intro st hw hs
  cases st
  · refine decode_of ?_ hw hs
    change layoutC (encCA 0x28#6 d a b ord 6#4 sz) = _
    unfold layoutC majorOf
    rw [CA_26_6]
    change decodeAtomP _ = _
    unfold decodeAtomP
    rw [CA_3_4]
    change whenZ _ (Instr.atorPlace _ _ _ _ _) = _
    simp only [zeroAt, fD, fA, fB, CA_21_5, CA_16_5, CA_11_5, CA_7_4, CA_2_1, CA_0_2]
    rfl
  · exact absurd hs Bool.false_ne_true
  · exact absurd hs Bool.false_ne_true
  · exact absurd hs Bool.false_ne_true
theorem atorHandle (d : BitVec 5) (h : BitVec 5) (b : BitVec 5) (ord : BitVec 4) (sz : BitVec 1) : Statement (.atorHandle d h b ord sz) := by
  intro st hw hs
  cases st
  · refine decode_of ?_ hw hs
    change layoutC (encCA 0x29#6 d h b ord 6#4 sz) = _
    unfold layoutC majorOf
    rw [CA_26_6]
    change decodeAtomH _ = _
    unfold decodeAtomH
    rw [CA_3_4]
    change whenZ _ (Instr.atorHandle _ _ _ _ _) = _
    simp only [zeroAt, fD, fA, fB, CA_21_5, CA_16_5, CA_11_5, CA_7_4, CA_2_1, CA_0_2]
    rfl
  · exact absurd hs Bool.false_ne_true
  · exact absurd hs Bool.false_ne_true
  · exact absurd hs Bool.false_ne_true
theorem atxorPlace (d : BitVec 5) (a : BitVec 5) (b : BitVec 5) (ord : BitVec 4) (sz : BitVec 1) : Statement (.atxorPlace d a b ord sz) := by
  intro st hw hs
  cases st
  · refine decode_of ?_ hw hs
    change layoutC (encCA 0x28#6 d a b ord 7#4 sz) = _
    unfold layoutC majorOf
    rw [CA_26_6]
    change decodeAtomP _ = _
    unfold decodeAtomP
    rw [CA_3_4]
    change whenZ _ (Instr.atxorPlace _ _ _ _ _) = _
    simp only [zeroAt, fD, fA, fB, CA_21_5, CA_16_5, CA_11_5, CA_7_4, CA_2_1, CA_0_2]
    rfl
  · exact absurd hs Bool.false_ne_true
  · exact absurd hs Bool.false_ne_true
  · exact absurd hs Bool.false_ne_true
theorem atxorHandle (d : BitVec 5) (h : BitVec 5) (b : BitVec 5) (ord : BitVec 4) (sz : BitVec 1) : Statement (.atxorHandle d h b ord sz) := by
  intro st hw hs
  cases st
  · refine decode_of ?_ hw hs
    change layoutC (encCA 0x29#6 d h b ord 7#4 sz) = _
    unfold layoutC majorOf
    rw [CA_26_6]
    change decodeAtomH _ = _
    unfold decodeAtomH
    rw [CA_3_4]
    change whenZ _ (Instr.atxorHandle _ _ _ _ _) = _
    simp only [zeroAt, fD, fA, fB, CA_21_5, CA_16_5, CA_11_5, CA_7_4, CA_2_1, CA_0_2]
    rfl
  · exact absurd hs Bool.false_ne_true
  · exact absurd hs Bool.false_ne_true
  · exact absurd hs Bool.false_ne_true
theorem atfaddPlace (d : BitVec 5) (a : BitVec 5) (b : BitVec 5) (ord : BitVec 4) : Statement (.atfaddPlace d a b ord) := by
  intro st hw hs
  cases st
  · refine decode_of ?_ hw hs
    change layoutC (encCA 0x28#6 d a b ord 8#4 0#1) = _
    unfold layoutC majorOf
    rw [CA_26_6]
    change decodeAtomP _ = _
    unfold decodeAtomP
    rw [CA_3_4]
    change whenZ _ (Instr.atfaddPlace _ _ _ _) = _
    simp only [zeroAt, fD, fA, fB, CA_21_5, CA_16_5, CA_11_5, CA_7_4, CA_2_1, CA_0_2]
    rfl
  · exact absurd hs Bool.false_ne_true
  · exact absurd hs Bool.false_ne_true
  · exact absurd hs Bool.false_ne_true
theorem atfaddHandle (d : BitVec 5) (h : BitVec 5) (b : BitVec 5) (ord : BitVec 4) : Statement (.atfaddHandle d h b ord) := by
  intro st hw hs
  cases st
  · refine decode_of ?_ hw hs
    change layoutC (encCA 0x29#6 d h b ord 8#4 0#1) = _
    unfold layoutC majorOf
    rw [CA_26_6]
    change decodeAtomH _ = _
    unfold decodeAtomH
    rw [CA_3_4]
    change whenZ _ (Instr.atfaddHandle _ _ _ _) = _
    simp only [zeroAt, fD, fA, fB, CA_21_5, CA_16_5, CA_11_5, CA_7_4, CA_2_1, CA_0_2]
    rfl
  · exact absurd hs Bool.false_ne_true
  · exact absurd hs Bool.false_ne_true
  · exact absurd hs Bool.false_ne_true
theorem kinv (a : BitVec 5) : Statement (.kinv a) := by
  intro st hw hs
  cases st
  · refine decode_of ?_ hw hs
    change layoutC (encCR 0x30#6 0#5 a 0#5 0#4 0#7) = _
    unfold layoutC majorOf
    rw [CR_26_6]
    change decodeObj _ 48 = _
    unfold decodeObj fnCR
    rw [CR_0_7]
    change (if zeroAt _ 7 4 = true then whenZ _ (Instr.kinv _) else none) = _
    simp only [zeroAt, fA, CR_21_5, CR_16_5, CR_11_5, CR_7_4]
    rfl
  · exact absurd hs Bool.false_ne_true
  · exact absurd hs Bool.false_ne_true
  · exact absurd hs Bool.false_ne_true
theorem spawn (d : BitVec 5) (a : BitVec 5) : Statement (.spawn d a) := by
  intro st hw hs
  cases st
  · refine decode_of ?_ hw hs
    change layoutC (encCR 0x30#6 d a 0#5 0#4 1#7) = _
    unfold layoutC majorOf
    rw [CR_26_6]
    change decodeObj _ 48 = _
    unfold decodeObj fnCR
    rw [CR_0_7]
    change (if zeroAt _ 7 4 = true then whenZ _ (Instr.spawn _ _) else none) = _
    simp only [zeroAt, fD, fA, CR_21_5, CR_16_5, CR_11_5, CR_7_4]
    rfl
  · exact absurd hs Bool.false_ne_true
  · exact absurd hs Bool.false_ne_true
  · exact absurd hs Bool.false_ne_true
theorem kick (a : BitVec 5) (b : BitVec 5) : Statement (.kick a b) := by
  intro st hw hs
  cases st
  · refine decode_of ?_ hw hs
    change layoutC (encCR 0x30#6 0#5 a b 0#4 2#7) = _
    unfold layoutC majorOf
    rw [CR_26_6]
    change decodeObj _ 48 = _
    unfold decodeObj fnCR
    rw [CR_0_7]
    change (if zeroAt _ 7 4 = true then whenZ _ (Instr.kick _ _) else none) = _
    simp only [zeroAt, fA, fB, CR_21_5, CR_16_5, CR_11_5, CR_7_4]
    rfl
  · exact absurd hs Bool.false_ne_true
  · exact absurd hs Bool.false_ne_true
  · exact absurd hs Bool.false_ne_true
theorem texit : Statement .texit := by
  intro st hw hs
  cases st
  · refine decode_of ?_ hw hs
    change layoutC (encCR 0x30#6 0#5 0#5 0#5 0#4 3#7) = _
    unfold layoutC majorOf
    rw [CR_26_6]
    change decodeObj _ 48 = _
    unfold decodeObj fnCR
    rw [CR_0_7]
    change (if zeroAt _ 7 4 = true then whenZ _ (Instr.texit) else none) = _
    simp only [zeroAt, CR_21_5, CR_16_5, CR_11_5, CR_7_4]
    rfl
  · exact absurd hs Bool.false_ne_true
  · exact absurd hs Bool.false_ne_true
  · exact absurd hs Bool.false_ne_true
theorem gsync : Statement .gsync := by
  intro st hw hs
  cases st
  · refine decode_of ?_ hw hs
    change layoutC (encCR 0x31#6 0#5 0#5 0#5 0#4 0#7) = _
    unfold layoutC majorOf
    rw [CR_26_6]
    change decodeObj _ 49 = _
    unfold decodeObj fnCR
    rw [CR_0_7]
    change (if zeroAt _ 7 4 = true then whenZ _ (Instr.gsync) else none) = _
    simp only [zeroAt, CR_21_5, CR_16_5, CR_11_5, CR_7_4]
    rfl
  · exact absurd hs Bool.false_ne_true
  · exact absurd hs Bool.false_ne_true
  · exact absurd hs Bool.false_ne_true
theorem yield : Statement .yield := by
  intro st hw hs
  cases st
  · refine decode_of ?_ hw hs
    change layoutC (encCR 0x31#6 0#5 0#5 0#5 0#4 1#7) = _
    unfold layoutC majorOf
    rw [CR_26_6]
    change decodeObj _ 49 = _
    unfold decodeObj fnCR
    rw [CR_0_7]
    change (if zeroAt _ 7 4 = true then whenZ _ (Instr.yield) else none) = _
    simp only [zeroAt, CR_21_5, CR_16_5, CR_11_5, CR_7_4]
    rfl
  · exact absurd hs Bool.false_ne_true
  · exact absurd hs Bool.false_ne_true
  · exact absurd hs Bool.false_ne_true
theorem bari (a : BitVec 5) (b : BitVec 5) : Statement (.bari a b) := by
  intro st hw hs
  cases st
  · refine decode_of ?_ hw hs
    change layoutC (encCR 0x32#6 0#5 a b 0#4 0#7) = _
    unfold layoutC majorOf
    rw [CR_26_6]
    change decodeObj _ 50 = _
    unfold decodeObj fnCR
    rw [CR_0_7]
    change (if zeroAt _ 7 4 = true then whenZ _ (Instr.bari _ _) else none) = _
    simp only [zeroAt, fA, fB, CR_21_5, CR_16_5, CR_11_5, CR_7_4]
    rfl
  · exact absurd hs Bool.false_ne_true
  · exact absurd hs Bool.false_ne_true
  · exact absurd hs Bool.false_ne_true
theorem barm (a : BitVec 5) (b : BitVec 5) : Statement (.barm a b) := by
  intro st hw hs
  cases st
  · refine decode_of ?_ hw hs
    change layoutC (encCR 0x32#6 0#5 a b 0#4 1#7) = _
    unfold layoutC majorOf
    rw [CR_26_6]
    change decodeObj _ 50 = _
    unfold decodeObj fnCR
    rw [CR_0_7]
    change (if zeroAt _ 7 4 = true then whenZ _ (Instr.barm _ _) else none) = _
    simp only [zeroAt, fA, fB, CR_21_5, CR_16_5, CR_11_5, CR_7_4]
    rfl
  · exact absurd hs Bool.false_ne_true
  · exact absurd hs Bool.false_ne_true
  · exact absurd hs Bool.false_ne_true
theorem bara (a : BitVec 5) (b : BitVec 5) : Statement (.bara a b) := by
  intro st hw hs
  cases st
  · refine decode_of ?_ hw hs
    change layoutC (encCR 0x32#6 0#5 a b 0#4 2#7) = _
    unfold layoutC majorOf
    rw [CR_26_6]
    change decodeObj _ 50 = _
    unfold decodeObj fnCR
    rw [CR_0_7]
    change (if zeroAt _ 7 4 = true then whenZ _ (Instr.bara _ _) else none) = _
    simp only [zeroAt, fA, fB, CR_21_5, CR_16_5, CR_11_5, CR_7_4]
    rfl
  · exact absurd hs Bool.false_ne_true
  · exact absurd hs Bool.false_ne_true
  · exact absurd hs Bool.false_ne_true
theorem bwait (a : BitVec 5) (b : BitVec 5) : Statement (.bwait a b) := by
  intro st hw hs
  cases st
  · refine decode_of ?_ hw hs
    change layoutC (encCR 0x32#6 0#5 a b 0#4 3#7) = _
    unfold layoutC majorOf
    rw [CR_26_6]
    change decodeObj _ 50 = _
    unfold decodeObj fnCR
    rw [CR_0_7]
    change (if zeroAt _ 7 4 = true then whenZ _ (Instr.bwait _ _) else none) = _
    simp only [zeroAt, fA, fB, CR_21_5, CR_16_5, CR_11_5, CR_7_4]
    rfl
  · exact absurd hs Bool.false_ne_true
  · exact absurd hs Bool.false_ne_true
  · exact absurd hs Bool.false_ne_true
theorem btest (d : BitVec 5) (a : BitVec 5) : Statement (.btest d a) := by
  intro st hw hs
  cases st
  · refine decode_of ?_ hw hs
    change layoutC (encCR 0x32#6 d a 0#5 0#4 4#7) = _
    unfold layoutC majorOf
    rw [CR_26_6]
    change decodeObj _ 50 = _
    unfold decodeObj fnCR
    rw [CR_0_7]
    change (if zeroAt _ 7 4 = true then whenZ _ (Instr.btest _ _) else none) = _
    simp only [zeroAt, fD, fA, CR_21_5, CR_16_5, CR_11_5, CR_7_4]
    rfl
  · exact absurd hs Bool.false_ne_true
  · exact absurd hs Bool.false_ne_true
  · exact absurd hs Bool.false_ne_true
theorem sqadd (a : BitVec 5) (b : BitVec 5) : Statement (.sqadd a b) := by
  intro st hw hs
  cases st
  · refine decode_of ?_ hw hs
    change layoutC (encCR 0x32#6 0#5 a b 0#4 5#7) = _
    unfold layoutC majorOf
    rw [CR_26_6]
    change decodeObj _ 50 = _
    unfold decodeObj fnCR
    rw [CR_0_7]
    change (if zeroAt _ 7 4 = true then whenZ _ (Instr.sqadd _ _) else none) = _
    simp only [zeroAt, fA, fB, CR_21_5, CR_16_5, CR_11_5, CR_7_4]
    rfl
  · exact absurd hs Bool.false_ne_true
  · exact absurd hs Bool.false_ne_true
  · exact absurd hs Bool.false_ne_true
theorem sqwait (a : BitVec 5) (b : BitVec 5) (c : BitVec 5) : Statement (.sqwait a b c) := by
  intro st hw hs
  cases st
  · refine decode_of ?_ hw hs
    change layoutC (encCR 0x32#6 c a b 0#4 6#7) = _
    unfold layoutC majorOf
    rw [CR_26_6]
    change decodeObj _ 50 = _
    unfold decodeObj fnCR
    rw [CR_0_7]
    change (if zeroAt _ 7 4 = true then some (Instr.sqwait _ _ _) else none) = _
    simp only [zeroAt, fD, fA, fB, CR_21_5, CR_16_5, CR_11_5, CR_7_4]
    rfl
  · exact absurd hs Bool.false_ne_true
  · exact absurd hs Bool.false_ne_true
  · exact absurd hs Bool.false_ne_true
theorem sqrd (d : BitVec 5) (a : BitVec 5) : Statement (.sqrd d a) := by
  intro st hw hs
  cases st
  · refine decode_of ?_ hw hs
    change layoutC (encCR 0x32#6 d a 0#5 0#4 7#7) = _
    unfold layoutC majorOf
    rw [CR_26_6]
    change decodeObj _ 50 = _
    unfold decodeObj fnCR
    rw [CR_0_7]
    change (if zeroAt _ 7 4 = true then whenZ _ (Instr.sqrd _ _) else none) = _
    simp only [zeroAt, fD, fA, CR_21_5, CR_16_5, CR_11_5, CR_7_4]
    rfl
  · exact absurd hs Bool.false_ne_true
  · exact absurd hs Bool.false_ne_true
  · exact absurd hs Bool.false_ne_true
theorem trans (h : BitVec 5) (a : BitVec 5) : Statement (.trans h a) := by
  intro st hw hs
  cases st
  · refine decode_of ?_ hw hs
    change layoutC (encCR 0x33#6 h a 0#5 0#4 0#7) = _
    unfold layoutC majorOf
    rw [CR_26_6]
    change decodeObj _ 51 = _
    unfold decodeObj fnCR
    rw [CR_0_7]
    change (if zeroAt _ 7 4 = true then whenZ _ (Instr.trans _ _) else none) = _
    simp only [zeroAt, fD, fA, CR_21_5, CR_16_5, CR_11_5, CR_7_4]
    rfl
  · exact absurd hs Bool.false_ne_true
  · exact absurd hs Bool.false_ne_true
  · exact absurd hs Bool.false_ne_true
theorem hinv (h : BitVec 5) : Statement (.hinv h) := by
  intro st hw hs
  cases st
  · refine decode_of ?_ hw hs
    change layoutC (encCR 0x33#6 0#5 h 0#5 0#4 1#7) = _
    unfold layoutC majorOf
    rw [CR_26_6]
    change decodeObj _ 51 = _
    unfold decodeObj fnCR
    rw [CR_0_7]
    change (if zeroAt _ 7 4 = true then whenZ _ (Instr.hinv _) else none) = _
    simp only [zeroAt, fA, CR_21_5, CR_16_5, CR_11_5, CR_7_4]
    rfl
  · exact absurd hs Bool.false_ne_true
  · exact absurd hs Bool.false_ne_true
  · exact absurd hs Bool.false_ne_true
theorem hrd (d : BitVec 5) (h : BitVec 5) : Statement (.hrd d h) := by
  intro st hw hs
  cases st
  · refine decode_of ?_ hw hs
    change layoutC (encCR 0x33#6 d h 0#5 0#4 2#7) = _
    unfold layoutC majorOf
    rw [CR_26_6]
    change decodeObj _ 51 = _
    unfold decodeObj fnCR
    rw [CR_0_7]
    change (if zeroAt _ 7 4 = true then whenZ _ (Instr.hrd _ _) else none) = _
    simp only [zeroAt, fD, fA, CR_21_5, CR_16_5, CR_11_5, CR_7_4]
    rfl
  · exact absurd hs Bool.false_ne_true
  · exact absurd hs Bool.false_ne_true
  · exact absurd hs Bool.false_ne_true
theorem splnt (a : BitVec 5) : Statement (.splnt a) := by
  intro st hw hs
  cases st
  · refine decode_of ?_ hw hs
    change layoutC (encCR 0x33#6 0#5 a 0#5 0#4 3#7) = _
    unfold layoutC majorOf
    rw [CR_26_6]
    change decodeObj _ 51 = _
    unfold decodeObj fnCR
    rw [CR_0_7]
    change (if zeroAt _ 7 4 = true then whenZ _ (Instr.splnt _) else none) = _
    simp only [zeroAt, fA, CR_21_5, CR_16_5, CR_11_5, CR_7_4]
    rfl
  · exact absurd hs Bool.false_ne_true
  · exact absurd hs Bool.false_ne_true
  · exact absurd hs Bool.false_ne_true
theorem hshoot (a : BitVec 5) (b : BitVec 5) : Statement (.hshoot a b) := by
  intro st hw hs
  cases st
  · refine decode_of ?_ hw hs
    change layoutC (encCR 0x33#6 0#5 a b 0#4 4#7) = _
    unfold layoutC majorOf
    rw [CR_26_6]
    change decodeObj _ 51 = _
    unfold decodeObj fnCR
    rw [CR_0_7]
    change (if zeroAt _ 7 4 = true then whenZ _ (Instr.hshoot _ _) else none) = _
    simp only [zeroAt, fA, fB, CR_21_5, CR_16_5, CR_11_5, CR_7_4]
    rfl
  · exact absurd hs Bool.false_ne_true
  · exact absurd hs Bool.false_ne_true
  · exact absurd hs Bool.false_ne_true
theorem poolup (a : BitVec 5) (b : BitVec 5) : Statement (.poolup a b) := by
  intro st hw hs
  cases st
  · refine decode_of ?_ hw hs
    change layoutC (encCR 0x33#6 0#5 a b 0#4 5#7) = _
    unfold layoutC majorOf
    rw [CR_26_6]
    change decodeObj _ 51 = _
    unfold decodeObj fnCR
    rw [CR_0_7]
    change (if zeroAt _ 7 4 = true then whenZ _ (Instr.poolup _ _) else none) = _
    simp only [zeroAt, fA, fB, CR_21_5, CR_16_5, CR_11_5, CR_7_4]
    rfl
  · exact absurd hs Bool.false_ne_true
  · exact absurd hs Bool.false_ne_true
  · exact absurd hs Bool.false_ne_true
theorem poolev (a : BitVec 5) : Statement (.poolev a) := by
  intro st hw hs
  cases st
  · refine decode_of ?_ hw hs
    change layoutC (encCR 0x33#6 0#5 a 0#5 0#4 6#7) = _
    unfold layoutC majorOf
    rw [CR_26_6]
    change decodeObj _ 51 = _
    unfold decodeObj fnCR
    rw [CR_0_7]
    change (if zeroAt _ 7 4 = true then whenZ _ (Instr.poolev _) else none) = _
    simp only [zeroAt, fA, CR_21_5, CR_16_5, CR_11_5, CR_7_4]
    rfl
  · exact absurd hs Bool.false_ne_true
  · exact absurd hs Bool.false_ne_true
  · exact absurd hs Bool.false_ne_true
theorem poolscan (d : BitVec 5) (a : BitVec 5) : Statement (.poolscan d a) := by
  intro st hw hs
  cases st
  · refine decode_of ?_ hw hs
    change layoutC (encCR 0x33#6 d a 0#5 0#4 7#7) = _
    unfold layoutC majorOf
    rw [CR_26_6]
    change decodeObj _ 51 = _
    unfold decodeObj fnCR
    rw [CR_0_7]
    change (if zeroAt _ 7 4 = true then whenZ _ (Instr.poolscan _ _) else none) = _
    simp only [zeroAt, fD, fA, CR_21_5, CR_16_5, CR_11_5, CR_7_4]
    rfl
  · exact absurd hs Bool.false_ne_true
  · exact absurd hs Bool.false_ne_true
  · exact absurd hs Bool.false_ne_true
theorem ckpt (d : BitVec 5) : Statement (.ckpt d) := by
  intro st hw hs
  cases st
  · refine decode_of ?_ hw hs
    change layoutC (encCR 0x34#6 d 0#5 0#5 0#4 0#7) = _
    unfold layoutC majorOf
    rw [CR_26_6]
    change decodeObj _ 52 = _
    unfold decodeObj fnCR
    rw [CR_0_7]
    change (if zeroAt _ 7 4 = true then whenZ _ (Instr.ckpt _) else none) = _
    simp only [zeroAt, fD, CR_21_5, CR_16_5, CR_11_5, CR_7_4]
    rfl
  · exact absurd hs Bool.false_ne_true
  · exact absurd hs Bool.false_ne_true
  · exact absurd hs Bool.false_ne_true
theorem ckwait (a : BitVec 5) : Statement (.ckwait a) := by
  intro st hw hs
  cases st
  · refine decode_of ?_ hw hs
    change layoutC (encCR 0x34#6 0#5 a 0#5 0#4 1#7) = _
    unfold layoutC majorOf
    rw [CR_26_6]
    change decodeObj _ 52 = _
    unfold decodeObj fnCR
    rw [CR_0_7]
    change (if zeroAt _ 7 4 = true then whenZ _ (Instr.ckwait _) else none) = _
    simp only [zeroAt, fA, CR_21_5, CR_16_5, CR_11_5, CR_7_4]
    rfl
  · exact absurd hs Bool.false_ne_true
  · exact absurd hs Bool.false_ne_true
  · exact absurd hs Bool.false_ne_true
theorem ctxsave (a : BitVec 5) : Statement (.ctxsave a) := by
  intro st hw hs
  cases st
  · refine decode_of ?_ hw hs
    change layoutC (encCR 0x34#6 0#5 a 0#5 0#4 2#7) = _
    unfold layoutC majorOf
    rw [CR_26_6]
    change decodeObj _ 52 = _
    unfold decodeObj fnCR
    rw [CR_0_7]
    change (if zeroAt _ 7 4 = true then whenZ _ (Instr.ctxsave _) else none) = _
    simp only [zeroAt, fA, CR_21_5, CR_16_5, CR_11_5, CR_7_4]
    rfl
  · exact absurd hs Bool.false_ne_true
  · exact absurd hs Bool.false_ne_true
  · exact absurd hs Bool.false_ne_true
theorem ctxrest (a : BitVec 5) : Statement (.ctxrest a) := by
  intro st hw hs
  cases st
  · refine decode_of ?_ hw hs
    change layoutC (encCR 0x34#6 0#5 a 0#5 0#4 3#7) = _
    unfold layoutC majorOf
    rw [CR_26_6]
    change decodeObj _ 52 = _
    unfold decodeObj fnCR
    rw [CR_0_7]
    change (if zeroAt _ 7 4 = true then whenZ _ (Instr.ctxrest _) else none) = _
    simp only [zeroAt, fA, CR_21_5, CR_16_5, CR_11_5, CR_7_4]
    rfl
  · exact absurd hs Bool.false_ne_true
  · exact absurd hs Bool.false_ne_true
  · exact absurd hs Bool.false_ne_true
theorem lsopen (d : BitVec 5) (a : BitVec 5) : Statement (.lsopen d a) := by
  intro st hw hs
  cases st
  · refine decode_of ?_ hw hs
    change layoutC (encCR 0x35#6 d a 0#5 0#4 0#7) = _
    unfold layoutC majorOf
    rw [CR_26_6]
    change decodeObj _ 53 = _
    unfold decodeObj fnCR
    rw [CR_0_7]
    change (if zeroAt _ 7 4 = true then whenZ _ (Instr.lsopen _ _) else none) = _
    simp only [zeroAt, fD, fA, CR_21_5, CR_16_5, CR_11_5, CR_7_4]
    rfl
  · exact absurd hs Bool.false_ne_true
  · exact absurd hs Bool.false_ne_true
  · exact absurd hs Bool.false_ne_true
theorem lsclose (a : BitVec 5) : Statement (.lsclose a) := by
  intro st hw hs
  cases st
  · refine decode_of ?_ hw hs
    change layoutC (encCR 0x35#6 0#5 a 0#5 0#4 1#7) = _
    unfold layoutC majorOf
    rw [CR_26_6]
    change decodeObj _ 53 = _
    unfold decodeObj fnCR
    rw [CR_0_7]
    change (if zeroAt _ 7 4 = true then whenZ _ (Instr.lsclose _) else none) = _
    simp only [zeroAt, fA, CR_21_5, CR_16_5, CR_11_5, CR_7_4]
    rfl
  · exact absurd hs Bool.false_ne_true
  · exact absurd hs Bool.false_ne_true
  · exact absurd hs Bool.false_ne_true
theorem lsync (a : BitVec 5) : Statement (.lsync a) := by
  intro st hw hs
  cases st
  · refine decode_of ?_ hw hs
    change layoutC (encCR 0x35#6 0#5 a 0#5 0#4 2#7) = _
    unfold layoutC majorOf
    rw [CR_26_6]
    change decodeObj _ 53 = _
    unfold decodeObj fnCR
    rw [CR_0_7]
    change (if zeroAt _ 7 4 = true then whenZ _ (Instr.lsync _) else none) = _
    simp only [zeroAt, fA, CR_21_5, CR_16_5, CR_11_5, CR_7_4]
    rfl
  · exact absurd hs Bool.false_ne_true
  · exact absurd hs Bool.false_ne_true
  · exact absurd hs Bool.false_ne_true
theorem lretire (a : BitVec 5) : Statement (.lretire a) := by
  intro st hw hs
  cases st
  · refine decode_of ?_ hw hs
    change layoutC (encCR 0x35#6 0#5 a 0#5 0#4 3#7) = _
    unfold layoutC majorOf
    rw [CR_26_6]
    change decodeObj _ 53 = _
    unfold decodeObj fnCR
    rw [CR_0_7]
    change (if zeroAt _ 7 4 = true then whenZ _ (Instr.lretire _) else none) = _
    simp only [zeroAt, fA, CR_21_5, CR_16_5, CR_11_5, CR_7_4]
    rfl
  · exact absurd hs Bool.false_ne_true
  · exact absurd hs Bool.false_ne_true
  · exact absurd hs Bool.false_ne_true
theorem gang (a : BitVec 5) (b : BitVec 5) : Statement (.gang a b) := by
  intro st hw hs
  cases st
  · refine decode_of ?_ hw hs
    change layoutC (encCR 0x35#6 0#5 a b 0#4 4#7) = _
    unfold layoutC majorOf
    rw [CR_26_6]
    change decodeObj _ 53 = _
    unfold decodeObj fnCR
    rw [CR_0_7]
    change (if zeroAt _ 7 4 = true then whenZ _ (Instr.gang _ _) else none) = _
    simp only [zeroAt, fA, fB, CR_21_5, CR_16_5, CR_11_5, CR_7_4]
    rfl
  · exact absurd hs Bool.false_ne_true
  · exact absurd hs Bool.false_ne_true
  · exact absurd hs Bool.false_ne_true
theorem cpyPlace (a : BitVec 5) : Statement (.cpyPlace a) := by
  intro st hw hs
  cases st
  · refine decode_of ?_ hw hs
    change layoutC (encCE a 0#5 0#4 1#1) = _
    unfold layoutC majorOf
    rw [CE_26_6]
    change decodeEngine _ = _
    unfold decodeEngine
    rw [CE_2_1]
    rw [CE_3_4]
    change whenZ _ (Instr.cpyPlace _) = _
    simp only [zeroAt, fA, CE_21_5, CE_16_5, CE_11_5, CE_7_4, CE_0_2]
    rfl
  · exact absurd hs Bool.false_ne_true
  · exact absurd hs Bool.false_ne_true
  · exact absurd hs Bool.false_ne_true
theorem cpyHandle (h : BitVec 5) (b : BitVec 5) : Statement (.cpyHandle h b) := by
  intro st hw hs
  cases st
  · refine decode_of ?_ hw hs
    change layoutC (encCE h b 0#4 0#1) = _
    unfold layoutC majorOf
    rw [CE_26_6]
    change decodeEngine _ = _
    unfold decodeEngine
    rw [CE_2_1]
    rw [CE_3_4]
    change whenZ _ (Instr.cpyHandle _ _) = _
    simp only [zeroAt, fA, fB, CE_21_5, CE_16_5, CE_11_5, CE_7_4, CE_0_2]
    rfl
  · exact absurd hs Bool.false_ne_true
  · exact absurd hs Bool.false_ne_true
  · exact absurd hs Bool.false_ne_true
theorem cpyxPlace (a : BitVec 5) : Statement (.cpyxPlace a) := by
  intro st hw hs
  cases st
  · refine decode_of ?_ hw hs
    change layoutC (encCE a 0#5 1#4 1#1) = _
    unfold layoutC majorOf
    rw [CE_26_6]
    change decodeEngine _ = _
    unfold decodeEngine
    rw [CE_2_1]
    rw [CE_3_4]
    change whenZ _ (Instr.cpyxPlace _) = _
    simp only [zeroAt, fA, CE_21_5, CE_16_5, CE_11_5, CE_7_4, CE_0_2]
    rfl
  · exact absurd hs Bool.false_ne_true
  · exact absurd hs Bool.false_ne_true
  · exact absurd hs Bool.false_ne_true
theorem cpyxHandle (h : BitVec 5) (b : BitVec 5) : Statement (.cpyxHandle h b) := by
  intro st hw hs
  cases st
  · refine decode_of ?_ hw hs
    change layoutC (encCE h b 1#4 0#1) = _
    unfold layoutC majorOf
    rw [CE_26_6]
    change decodeEngine _ = _
    unfold decodeEngine
    rw [CE_2_1]
    rw [CE_3_4]
    change whenZ _ (Instr.cpyxHandle _ _) = _
    simp only [zeroAt, fA, fB, CE_21_5, CE_16_5, CE_11_5, CE_7_4, CE_0_2]
    rfl
  · exact absurd hs Bool.false_ne_true
  · exact absurd hs Bool.false_ne_true
  · exact absurd hs Bool.false_ne_true
theorem cpymPlace (a : BitVec 5) : Statement (.cpymPlace a) := by
  intro st hw hs
  cases st
  · refine decode_of ?_ hw hs
    change layoutC (encCE a 0#5 2#4 1#1) = _
    unfold layoutC majorOf
    rw [CE_26_6]
    change decodeEngine _ = _
    unfold decodeEngine
    rw [CE_2_1]
    rw [CE_3_4]
    change whenZ _ (Instr.cpymPlace _) = _
    simp only [zeroAt, fA, CE_21_5, CE_16_5, CE_11_5, CE_7_4, CE_0_2]
    rfl
  · exact absurd hs Bool.false_ne_true
  · exact absurd hs Bool.false_ne_true
  · exact absurd hs Bool.false_ne_true
theorem cpymHandle (h : BitVec 5) (b : BitVec 5) : Statement (.cpymHandle h b) := by
  intro st hw hs
  cases st
  · refine decode_of ?_ hw hs
    change layoutC (encCE h b 2#4 0#1) = _
    unfold layoutC majorOf
    rw [CE_26_6]
    change decodeEngine _ = _
    unfold decodeEngine
    rw [CE_2_1]
    rw [CE_3_4]
    change whenZ _ (Instr.cpymHandle _ _) = _
    simp only [zeroAt, fA, fB, CE_21_5, CE_16_5, CE_11_5, CE_7_4, CE_0_2]
    rfl
  · exact absurd hs Bool.false_ne_true
  · exact absurd hs Bool.false_ne_true
  · exact absurd hs Bool.false_ne_true
theorem strmPlace (a : BitVec 5) : Statement (.strmPlace a) := by
  intro st hw hs
  cases st
  · refine decode_of ?_ hw hs
    change layoutC (encCE a 0#5 3#4 1#1) = _
    unfold layoutC majorOf
    rw [CE_26_6]
    change decodeEngine _ = _
    unfold decodeEngine
    rw [CE_2_1]
    rw [CE_3_4]
    change whenZ _ (Instr.strmPlace _) = _
    simp only [zeroAt, fA, CE_21_5, CE_16_5, CE_11_5, CE_7_4, CE_0_2]
    rfl
  · exact absurd hs Bool.false_ne_true
  · exact absurd hs Bool.false_ne_true
  · exact absurd hs Bool.false_ne_true
theorem strmHandle (h : BitVec 5) (b : BitVec 5) : Statement (.strmHandle h b) := by
  intro st hw hs
  cases st
  · refine decode_of ?_ hw hs
    change layoutC (encCE h b 3#4 0#1) = _
    unfold layoutC majorOf
    rw [CE_26_6]
    change decodeEngine _ = _
    unfold decodeEngine
    rw [CE_2_1]
    rw [CE_3_4]
    change whenZ _ (Instr.strmHandle _ _) = _
    simp only [zeroAt, fA, fB, CE_21_5, CE_16_5, CE_11_5, CE_7_4, CE_0_2]
    rfl
  · exact absurd hs Bool.false_ne_true
  · exact absurd hs Bool.false_ne_true
  · exact absurd hs Bool.false_ne_true
theorem fexPlace (a : BitVec 5) : Statement (.fexPlace a) := by
  intro st hw hs
  cases st
  · refine decode_of ?_ hw hs
    change layoutC (encCE a 0#5 4#4 1#1) = _
    unfold layoutC majorOf
    rw [CE_26_6]
    change decodeEngine _ = _
    unfold decodeEngine
    rw [CE_2_1]
    rw [CE_3_4]
    change whenZ _ (Instr.fexPlace _) = _
    simp only [zeroAt, fA, CE_21_5, CE_16_5, CE_11_5, CE_7_4, CE_0_2]
    rfl
  · exact absurd hs Bool.false_ne_true
  · exact absurd hs Bool.false_ne_true
  · exact absurd hs Bool.false_ne_true
theorem fexHandle (h : BitVec 5) (b : BitVec 5) : Statement (.fexHandle h b) := by
  intro st hw hs
  cases st
  · refine decode_of ?_ hw hs
    change layoutC (encCE h b 4#4 0#1) = _
    unfold layoutC majorOf
    rw [CE_26_6]
    change decodeEngine _ = _
    unfold decodeEngine
    rw [CE_2_1]
    rw [CE_3_4]
    change whenZ _ (Instr.fexHandle _ _) = _
    simp only [zeroAt, fA, fB, CE_21_5, CE_16_5, CE_11_5, CE_7_4, CE_0_2]
    rfl
  · exact absurd hs Bool.false_ne_true
  · exact absurd hs Bool.false_ne_true
  · exact absurd hs Bool.false_ne_true
theorem scrbPlace (a : BitVec 5) : Statement (.scrbPlace a) := by
  intro st hw hs
  cases st
  · refine decode_of ?_ hw hs
    change layoutC (encCE a 0#5 5#4 1#1) = _
    unfold layoutC majorOf
    rw [CE_26_6]
    change decodeEngine _ = _
    unfold decodeEngine
    rw [CE_2_1]
    rw [CE_3_4]
    change whenZ _ (Instr.scrbPlace _) = _
    simp only [zeroAt, fA, CE_21_5, CE_16_5, CE_11_5, CE_7_4, CE_0_2]
    rfl
  · exact absurd hs Bool.false_ne_true
  · exact absurd hs Bool.false_ne_true
  · exact absurd hs Bool.false_ne_true
theorem scrbHandle (h : BitVec 5) (b : BitVec 5) : Statement (.scrbHandle h b) := by
  intro st hw hs
  cases st
  · refine decode_of ?_ hw hs
    change layoutC (encCE h b 5#4 0#1) = _
    unfold layoutC majorOf
    rw [CE_26_6]
    change decodeEngine _ = _
    unfold decodeEngine
    rw [CE_2_1]
    rw [CE_3_4]
    change whenZ _ (Instr.scrbHandle _ _) = _
    simp only [zeroAt, fA, fB, CE_21_5, CE_16_5, CE_11_5, CE_7_4, CE_0_2]
    rfl
  · exact absurd hs Bool.false_ne_true
  · exact absurd hs Bool.false_ne_true
  · exact absurd hs Bool.false_ne_true
theorem nvrdPlace (a : BitVec 5) : Statement (.nvrdPlace a) := by
  intro st hw hs
  cases st
  · refine decode_of ?_ hw hs
    change layoutC (encCE a 0#5 6#4 1#1) = _
    unfold layoutC majorOf
    rw [CE_26_6]
    change decodeEngine _ = _
    unfold decodeEngine
    rw [CE_2_1]
    rw [CE_3_4]
    change whenZ _ (Instr.nvrdPlace _) = _
    simp only [zeroAt, fA, CE_21_5, CE_16_5, CE_11_5, CE_7_4, CE_0_2]
    rfl
  · exact absurd hs Bool.false_ne_true
  · exact absurd hs Bool.false_ne_true
  · exact absurd hs Bool.false_ne_true
theorem nvrdHandle (h : BitVec 5) (b : BitVec 5) : Statement (.nvrdHandle h b) := by
  intro st hw hs
  cases st
  · refine decode_of ?_ hw hs
    change layoutC (encCE h b 6#4 0#1) = _
    unfold layoutC majorOf
    rw [CE_26_6]
    change decodeEngine _ = _
    unfold decodeEngine
    rw [CE_2_1]
    rw [CE_3_4]
    change whenZ _ (Instr.nvrdHandle _ _) = _
    simp only [zeroAt, fA, fB, CE_21_5, CE_16_5, CE_11_5, CE_7_4, CE_0_2]
    rfl
  · exact absurd hs Bool.false_ne_true
  · exact absurd hs Bool.false_ne_true
  · exact absurd hs Bool.false_ne_true
theorem nvwrPlace (a : BitVec 5) : Statement (.nvwrPlace a) := by
  intro st hw hs
  cases st
  · refine decode_of ?_ hw hs
    change layoutC (encCE a 0#5 7#4 1#1) = _
    unfold layoutC majorOf
    rw [CE_26_6]
    change decodeEngine _ = _
    unfold decodeEngine
    rw [CE_2_1]
    rw [CE_3_4]
    change whenZ _ (Instr.nvwrPlace _) = _
    simp only [zeroAt, fA, CE_21_5, CE_16_5, CE_11_5, CE_7_4, CE_0_2]
    rfl
  · exact absurd hs Bool.false_ne_true
  · exact absurd hs Bool.false_ne_true
  · exact absurd hs Bool.false_ne_true
theorem nvwrHandle (h : BitVec 5) (b : BitVec 5) : Statement (.nvwrHandle h b) := by
  intro st hw hs
  cases st
  · refine decode_of ?_ hw hs
    change layoutC (encCE h b 7#4 0#1) = _
    unfold layoutC majorOf
    rw [CE_26_6]
    change decodeEngine _ = _
    unfold decodeEngine
    rw [CE_2_1]
    rw [CE_3_4]
    change whenZ _ (Instr.nvwrHandle _ _) = _
    simp only [zeroAt, fA, fB, CE_21_5, CE_16_5, CE_11_5, CE_7_4, CE_0_2]
    rfl
  · exact absurd hs Bool.false_ne_true
  · exact absurd hs Bool.false_ne_true
  · exact absurd hs Bool.false_ne_true
theorem credPlace (a : BitVec 5) : Statement (.credPlace a) := by
  intro st hw hs
  cases st
  · refine decode_of ?_ hw hs
    change layoutC (encCE a 0#5 8#4 1#1) = _
    unfold layoutC majorOf
    rw [CE_26_6]
    change decodeEngine _ = _
    unfold decodeEngine
    rw [CE_2_1]
    rw [CE_3_4]
    change whenZ _ (Instr.credPlace _) = _
    simp only [zeroAt, fA, CE_21_5, CE_16_5, CE_11_5, CE_7_4, CE_0_2]
    rfl
  · exact absurd hs Bool.false_ne_true
  · exact absurd hs Bool.false_ne_true
  · exact absurd hs Bool.false_ne_true
theorem credHandle (h : BitVec 5) (b : BitVec 5) : Statement (.credHandle h b) := by
  intro st hw hs
  cases st
  · refine decode_of ?_ hw hs
    change layoutC (encCE h b 8#4 0#1) = _
    unfold layoutC majorOf
    rw [CE_26_6]
    change decodeEngine _ = _
    unfold decodeEngine
    rw [CE_2_1]
    rw [CE_3_4]
    change whenZ _ (Instr.credHandle _ _) = _
    simp only [zeroAt, fA, fB, CE_21_5, CE_16_5, CE_11_5, CE_7_4, CE_0_2]
    rfl
  · exact absurd hs Bool.false_ne_true
  · exact absurd hs Bool.false_ne_true
  · exact absurd hs Bool.false_ne_true
theorem fenceAcq (s : BitVec 3) : Statement (.fenceAcq s) := by
  intro st hw hs
  have hv : (encode (.fenceAcq s)).toNat =
      60 * 2 ^ 26 + s.toNat * 2 ^ 7 := by
    change (0x3C#6 ++ 0#16 ++ s ++ 0#5 ++ 0#2).toNat = _
    rw [app_toNat, app_toNat, app_toNat, app_toNat]
    simp only [BitVec.toNat_ofNat]
    omega
  generalize encode (.fenceAcq s) = w at hv ⊢
  have f26_6 : fld w 26 6 = 60#6 := fld_of (by simp only [BitVec.toNat_ofNat]; omega)
  have f10_16 : fld w 10 16 = 0#16 := fld_of (by simp only [BitVec.toNat_ofNat]; omega)
  have f2_5 : fld w 2 5 = 0#5 := fld_of (by simp only [BitVec.toNat_ofNat]; omega)
  have f7_3 : fld w 7 3 = s := fld_of (by omega)
  have f0_2 : fld w 0 2 = 0#2 := fld_of (by simp only [BitVec.toNat_ofNat]; omega)
  cases st
  · refine decode_of ?_ hw hs
    change layoutC w = _
    unfold layoutC majorOf
    rw [f26_6]
    change decodeFence _ = _
    unfold decodeFence
    rw [f0_2]
    change whenZ _ (Instr.fenceAcq _) = _
    simp only [zeroAt, f10_16, f2_5, f7_3]
    rfl
  · exact absurd hs Bool.false_ne_true
  · exact absurd hs Bool.false_ne_true
  · exact absurd hs Bool.false_ne_true
theorem fenceRel (s : BitVec 3) : Statement (.fenceRel s) := by
  intro st hw hs
  have hv : (encode (.fenceRel s)).toNat =
      60 * 2 ^ 26 + s.toNat * 2 ^ 7 + 1 := by
    change (0x3C#6 ++ 0#16 ++ s ++ 0#5 ++ 1#2).toNat = _
    rw [app_toNat, app_toNat, app_toNat, app_toNat]
    simp only [BitVec.toNat_ofNat]
    omega
  generalize encode (.fenceRel s) = w at hv ⊢
  have f26_6 : fld w 26 6 = 60#6 := fld_of (by simp only [BitVec.toNat_ofNat]; omega)
  have f10_16 : fld w 10 16 = 0#16 := fld_of (by simp only [BitVec.toNat_ofNat]; omega)
  have f2_5 : fld w 2 5 = 0#5 := fld_of (by simp only [BitVec.toNat_ofNat]; omega)
  have f7_3 : fld w 7 3 = s := fld_of (by omega)
  have f0_2 : fld w 0 2 = 1#2 := fld_of (by simp only [BitVec.toNat_ofNat]; omega)
  cases st
  · refine decode_of ?_ hw hs
    change layoutC w = _
    unfold layoutC majorOf
    rw [f26_6]
    change decodeFence _ = _
    unfold decodeFence
    rw [f0_2]
    change whenZ _ (Instr.fenceRel _) = _
    simp only [zeroAt, f10_16, f2_5, f7_3]
    rfl
  · exact absurd hs Bool.false_ne_true
  · exact absurd hs Bool.false_ne_true
  · exact absurd hs Bool.false_ne_true
theorem fenceSc (s : BitVec 3) : Statement (.fenceSc s) := by
  intro st hw hs
  have hv : (encode (.fenceSc s)).toNat =
      60 * 2 ^ 26 + s.toNat * 2 ^ 7 + 2 := by
    change (0x3C#6 ++ 0#16 ++ s ++ 0#5 ++ 2#2).toNat = _
    rw [app_toNat, app_toNat, app_toNat, app_toNat]
    simp only [BitVec.toNat_ofNat]
    omega
  generalize encode (.fenceSc s) = w at hv ⊢
  have f26_6 : fld w 26 6 = 60#6 := fld_of (by simp only [BitVec.toNat_ofNat]; omega)
  have f10_16 : fld w 10 16 = 0#16 := fld_of (by simp only [BitVec.toNat_ofNat]; omega)
  have f2_5 : fld w 2 5 = 0#5 := fld_of (by simp only [BitVec.toNat_ofNat]; omega)
  have f7_3 : fld w 7 3 = s := fld_of (by omega)
  have f0_2 : fld w 0 2 = 2#2 := fld_of (by simp only [BitVec.toNat_ofNat]; omega)
  cases st
  · refine decode_of ?_ hw hs
    change layoutC w = _
    unfold layoutC majorOf
    rw [f26_6]
    change decodeFence _ = _
    unfold decodeFence
    rw [f0_2]
    change whenZ _ (Instr.fenceSc _) = _
    simp only [zeroAt, f10_16, f2_5, f7_3]
    rfl
  · exact absurd hs Bool.false_ne_true
  · exact absurd hs Bool.false_ne_true
  · exact absurd hs Bool.false_ne_true
theorem csrr (d : BitVec 5) (c : BitVec 12) : Statement (.csrr d c) := by
  intro st hw hs
  have hv : (encode (.csrr d c)).toNat =
      61 * 2 ^ 26 + d.toNat * 2 ^ 21 + c.toNat * 2 ^ 4 := by
    change (0x3D#6 ++ d ++ 0#5 ++ c ++ 0#4).toNat = _
    rw [app_toNat, app_toNat, app_toNat, app_toNat]
    simp only [BitVec.toNat_ofNat]
    omega
  generalize encode (.csrr d c) = w at hv ⊢
  have f26_6 : fld w 26 6 = 61#6 := fld_of (by simp only [BitVec.toNat_ofNat]; omega)
  have f0_4 : fld w 0 4 = 0#4 := fld_of (by simp only [BitVec.toNat_ofNat]; omega)
  have f16_5 : fld w 16 5 = 0#5 := fld_of (by simp only [BitVec.toNat_ofNat]; omega)
  have f21_5 : fld w 21 5 = d := fld_of (by omega)
  have f4_12 : fld w 4 12 = c := fld_of (by omega)
  cases st
  · refine decode_of ?_ hw hs
    change layoutC w = _
    unfold layoutC majorOf
    rw [f26_6]
    change decodeCsr _ = _
    unfold decodeCsr
    rw [f0_4]
    change whenZ _ (Instr.csrr _ _) = _
    simp only [zeroAt, fD, f16_5, f21_5, f4_12]
    rfl
  · exact absurd hs Bool.false_ne_true
  · exact absurd hs Bool.false_ne_true
  · exact absurd hs Bool.false_ne_true
theorem csrw (a : BitVec 5) (c : BitVec 12) : Statement (.csrw a c) := by
  intro st hw hs
  have hv : (encode (.csrw a c)).toNat =
      61 * 2 ^ 26 + a.toNat * 2 ^ 16 + c.toNat * 2 ^ 4 + 1 := by
    change (0x3D#6 ++ 0#5 ++ a ++ c ++ 1#4).toNat = _
    rw [app_toNat, app_toNat, app_toNat, app_toNat]
    simp only [BitVec.toNat_ofNat]
    omega
  generalize encode (.csrw a c) = w at hv ⊢
  have f26_6 : fld w 26 6 = 61#6 := fld_of (by simp only [BitVec.toNat_ofNat]; omega)
  have f0_4 : fld w 0 4 = 1#4 := fld_of (by simp only [BitVec.toNat_ofNat]; omega)
  have f16_5 : fld w 16 5 = a := fld_of (by omega)
  have f21_5 : fld w 21 5 = 0#5 := fld_of (by simp only [BitVec.toNat_ofNat]; omega)
  have f4_12 : fld w 4 12 = c := fld_of (by omega)
  cases st
  · refine decode_of ?_ hw hs
    change layoutC w = _
    unfold layoutC majorOf
    rw [f26_6]
    change decodeCsr _ = _
    unfold decodeCsr
    rw [f0_4]
    change whenZ _ (Instr.csrw _ _) = _
    simp only [zeroAt, fA, f16_5, f21_5, f4_12]
    rfl
  · exact absurd hs Bool.false_ne_true
  · exact absurd hs Bool.false_ne_true
  · exact absurd hs Bool.false_ne_true
theorem trap (n : BitVec 8) : Statement (.trap n) := by
  intro st hw hs
  have hv : (encode (.trap n)).toNat =
      62 * 2 ^ 26 + n.toNat * 2 ^ 7 + 1 := by
    change (0x3E#6 ++ 0#11 ++ n ++ 1#7).toNat = _
    rw [app_toNat, app_toNat, app_toNat]
    simp only [BitVec.toNat_ofNat]
    omega
  generalize encode (.trap n) = w at hv ⊢
  have f26_6 : fld w 26 6 = 62#6 := fld_of (by simp only [BitVec.toNat_ofNat]; omega)
  have f0_7 : fld w 0 7 = 1#7 := fld_of (by simp only [BitVec.toNat_ofNat]; omega)
  have f15_11 : fld w 15 11 = 0#11 := fld_of (by simp only [BitVec.toNat_ofNat]; omega)
  have f7_8 : fld w 7 8 = n := fld_of (by omega)
  cases st
  · refine decode_of ?_ hw hs
    change layoutC w = _
    unfold layoutC majorOf
    rw [f26_6]
    change decodeSys _ = _
    unfold decodeSys fnCR
    rw [f0_7]
    change whenZ _ (Instr.trap _) = _
    simp only [zeroAt, f15_11, f7_8]
    rfl
  · exact absurd hs Bool.false_ne_true
  · exact absurd hs Bool.false_ne_true
  · exact absurd hs Bool.false_ne_true
theorem eret : Statement .eret := by
  intro st hw hs
  have hv : (encode .eret).toNat =
      62 * 2 ^ 26 + 2 := by
    decide
  generalize encode .eret = w at hv ⊢
  have f26_6 : fld w 26 6 = 62#6 := fld_of (by simp only [BitVec.toNat_ofNat]; omega)
  have f0_7 : fld w 0 7 = 2#7 := fld_of (by simp only [BitVec.toNat_ofNat]; omega)
  have f7_19 : fld w 7 19 = 0#19 := fld_of (by simp only [BitVec.toNat_ofNat]; omega)
  cases st
  · refine decode_of ?_ hw hs
    change layoutC w = _
    unfold layoutC majorOf
    rw [f26_6]
    change decodeSys _ = _
    unfold decodeSys fnCR
    rw [f0_7]
    change whenZ _ (Instr.eret) = _
    simp only [zeroAt, f7_19]
    rfl
  · exact absurd hs Bool.false_ne_true
  · exact absurd hs Bool.false_ne_true
  · exact absurd hs Bool.false_ne_true
theorem iinv (a : BitVec 5) (b : BitVec 5) : Statement (.iinv a b) := by
  intro st hw hs
  cases st
  · refine decode_of ?_ hw hs
    change layoutC (encCR 0x3E#6 0#5 a b 0#4 3#7) = _
    unfold layoutC majorOf
    rw [CR_26_6]
    change decodeSys _ = _
    unfold decodeSys fnCR
    rw [CR_0_7]
    change whenZ _ (Instr.iinv _ _) = _
    simp only [zeroAt, fA, fB, CR_21_5, CR_16_5, CR_11_5, CR_7_4]
    rfl
  · exact absurd hs Bool.false_ne_true
  · exact absurd hs Bool.false_ne_true
  · exact absurd hs Bool.false_ne_true
theorem halt : Statement .halt := by
  intro st hw hs
  have hv : (encode .halt).toNat =
      62 * 2 ^ 26 + 4 := by
    decide
  generalize encode .halt = w at hv ⊢
  have f26_6 : fld w 26 6 = 62#6 := fld_of (by simp only [BitVec.toNat_ofNat]; omega)
  have f0_7 : fld w 0 7 = 4#7 := fld_of (by simp only [BitVec.toNat_ofNat]; omega)
  have f7_19 : fld w 7 19 = 0#19 := fld_of (by simp only [BitVec.toNat_ofNat]; omega)
  cases st
  · refine decode_of ?_ hw hs
    change layoutC w = _
    unfold layoutC majorOf
    rw [f26_6]
    change decodeSys _ = _
    unfold decodeSys fnCR
    rw [f0_7]
    change whenZ _ (Instr.halt) = _
    simp only [zeroAt, f7_19]
    rfl
  · exact absurd hs Bool.false_ne_true
  · exact absurd hs Bool.false_ne_true
  · exact absurd hs Bool.false_ne_true
theorem dbgbrk : Statement .dbgbrk := by
  intro st hw hs
  have hv : (encode .dbgbrk).toNat =
      62 * 2 ^ 26 + 5 := by
    decide
  generalize encode .dbgbrk = w at hv ⊢
  have f26_6 : fld w 26 6 = 62#6 := fld_of (by simp only [BitVec.toNat_ofNat]; omega)
  have f0_7 : fld w 0 7 = 5#7 := fld_of (by simp only [BitVec.toNat_ofNat]; omega)
  have f7_19 : fld w 7 19 = 0#19 := fld_of (by simp only [BitVec.toNat_ofNat]; omega)
  cases st
  · refine decode_of ?_ hw hs
    change layoutC w = _
    unfold layoutC majorOf
    rw [f26_6]
    change decodeSys _ = _
    unfold decodeSys fnCR
    rw [f0_7]
    change whenZ _ (Instr.dbgbrk) = _
    simp only [zeroAt, f7_19]
    rfl
  · exact absurd hs Bool.false_ne_true
  · exact absurd hs Bool.false_ne_true
  · exact absurd hs Bool.false_ne_true
theorem nop : Statement .nop := by
  intro st hw hs
  have hv : (encode .nop).toNat =
      63 * 2 ^ 26 := by
    change (0xFC000000#32).toNat = _
    rfl
  generalize encode .nop = w at hv ⊢
  have f26_6 : fld w 26 6 = 63#6 := fld_of (by simp only [BitVec.toNat_ofNat]; omega)
  have f0_26 : fld w 0 26 = 0#26 := fld_of (by simp only [BitVec.toNat_ofNat]; omega)
  cases st
  · refine decode_of ?_ hw hs
    change layoutC w = _
    unfold layoutC majorOf
    rw [f26_6]
    change whenZ _ (Instr.nop) = _
    simp only [zeroAt, f0_26]
    rfl
  · exact absurd hs Bool.false_ne_true
  · exact absurd hs Bool.false_ne_true
  · exact absurd hs Bool.false_ne_true
theorem ldv (v : BitVec 6) (a : BitVec 4) (imm : BitVec 12) (k : Tok) : Statement (.ldv v a imm k) := by
  intro st hw hs
  cases st
  · exact absurd hs Bool.false_ne_true
  · refine decode_of ?_ hw hs
    change layoutD (encDP 0x01#6 v a imm k) = _
    unfold layoutD majorOf
    rw [DP_26_6]
    change some (Instr.ldv _ _ _ _) = _
    simp only [tokOf, DP_20_6, DP_16_4, DP_4_12, DP_2_2, DP_0_2]
  · exact absurd hs Bool.false_ne_true
  · exact absurd hs Bool.false_ne_true
theorem ldvd (v : BitVec 6) (a : BitVec 4) (dir : BitVec 1) (imm : BitVec 11) (k : Tok) : Statement (.ldvd v a dir imm k) := by
  intro st hw hs
  cases st
  · exact absurd hs Bool.false_ne_true
  · refine decode_of ?_ hw hs
    change layoutD (encDD 0x02#6 v a dir imm k) = _
    unfold layoutD majorOf
    rw [DD_26_6]
    change some (Instr.ldvd _ _ _ _ _) = _
    simp only [tokOf, DD_20_6, DD_16_4, DD_15_1, DD_4_11, DD_2_2, DD_0_2]
  · exact absurd hs Bool.false_ne_true
  · exact absurd hs Bool.false_ne_true
theorem ldvg (v : BitVec 6) (a : BitVec 4) (vi : BitVec 6) (k : Tok) : Statement (.ldvg v a vi k) := by
  intro st hw hs
  cases st
  · exact absurd hs Bool.false_ne_true
  · refine decode_of ?_ hw hs
    change layoutD (encDG 0x03#6 v a vi k) = _
    unfold layoutD majorOf
    rw [DG_26_6]
    change whenZ _ (Instr.ldvg _ _ _ _) = _
    simp only [zeroAt, tokOf, DG_20_6, DG_16_4, DG_10_6, DG_4_6, DG_2_2, DG_0_2]
    rfl
  · exact absurd hs Bool.false_ne_true
  · exact absurd hs Bool.false_ne_true
theorem ldsc (a : BitVec 4) (imm : BitVec 12) (k : Tok) : Statement (.ldsc a imm k) := by
  intro st hw hs
  cases st
  · exact absurd hs Bool.false_ne_true
  · refine decode_of ?_ hw hs
    change layoutD (encDP 0x04#6 0#6 a imm k) = _
    unfold layoutD majorOf
    rw [DP_26_6]
    change whenZ _ (Instr.ldsc _ _ _) = _
    simp only [zeroAt, tokOf, DP_20_6, DP_16_4, DP_4_12, DP_2_2, DP_0_2]
    rfl
  · exact absurd hs Bool.false_ne_true
  · exact absurd hs Bool.false_ne_true
theorem mark (m : BitVec 4) (k : Tok) : Statement (.mark m k) := by
  intro st hw hs
  have hv : (encode (.mark m k)).toNat =
      8 * 2 ^ 26 + m.toNat * 2 ^ 4 + k.pop.toNat * 2 ^ 2 + k.push.toNat := by
    change (0x08#6 ++ 0#18 ++ m ++ k.pop ++ k.push).toNat = _
    rw [app_toNat, app_toNat, app_toNat, app_toNat]
    simp only [BitVec.toNat_ofNat]
    omega
  generalize encode (.mark m k) = w at hv ⊢
  have f26_6 : fld w 26 6 = 8#6 := fld_of (by simp only [BitVec.toNat_ofNat]; omega)
  have f8_18 : fld w 8 18 = 0#18 := fld_of (by simp only [BitVec.toNat_ofNat]; omega)
  have f4_4 : fld w 4 4 = m := fld_of (by omega)
  have f2_2 : fld w 2 2 = k.pop := fld_of (by omega)
  have f0_2 : fld w 0 2 = k.push := fld_of (by omega)
  cases st
  · exact absurd hs Bool.false_ne_true
  · refine decode_of ?_ hw hs
    change layoutD w = _
    unfold layoutD majorOf
    rw [f26_6]
    change whenZ _ (Instr.mark _ _) = _
    simp only [zeroAt, tokOf, f8_18, f4_4, f2_2, f0_2]
    rfl
  · exact absurd hs Bool.false_ne_true
  · refine decode_of ?_ hw hs
    change layoutD w = _
    unfold layoutD majorOf
    rw [f26_6]
    change whenZ _ (Instr.mark _ _) = _
    simp only [zeroAt, tokOf, f8_18, f4_4, f2_2, f0_2]
    rfl
theorem fenceD (s : BitVec 3) (k : Tok) : Statement (.fenceD s k) := by
  intro st hw hs
  have hv : (encode (.fenceD s k)).toNat =
      9 * 2 ^ 26 + s.toNat * 2 ^ 4 + k.pop.toNat * 2 ^ 2 + k.push.toNat := by
    change (0x09#6 ++ 0#19 ++ s ++ k.pop ++ k.push).toNat = _
    rw [app_toNat, app_toNat, app_toNat, app_toNat]
    simp only [BitVec.toNat_ofNat]
    omega
  generalize encode (.fenceD s k) = w at hv ⊢
  have f26_6 : fld w 26 6 = 9#6 := fld_of (by simp only [BitVec.toNat_ofNat]; omega)
  have f7_19 : fld w 7 19 = 0#19 := fld_of (by simp only [BitVec.toNat_ofNat]; omega)
  have f4_3 : fld w 4 3 = s := fld_of (by omega)
  have f2_2 : fld w 2 2 = k.pop := fld_of (by omega)
  have f0_2 : fld w 0 2 = k.push := fld_of (by omega)
  cases st
  · exact absurd hs Bool.false_ne_true
  · refine decode_of ?_ hw hs
    change layoutD w = _
    unfold layoutD majorOf
    rw [f26_6]
    change whenZ _ (Instr.fenceD _ _) = _
    simp only [zeroAt, tokOf, f7_19, f4_3, f2_2, f0_2]
    rfl
  · exact absurd hs Bool.false_ne_true
  · refine decode_of ?_ hw hs
    change layoutD w = _
    unfold layoutD majorOf
    rw [f26_6]
    change whenZ _ (Instr.fenceD _ _) = _
    simp only [zeroAt, tokOf, f7_19, f4_3, f2_2, f0_2]
    rfl
theorem waita (a : BitVec 4) (limit : BitVec 12) (k : Tok) : Statement (.waita a limit k) := by
  intro st hw hs
  cases st
  · exact absurd hs Bool.false_ne_true
  · refine decode_of ?_ hw hs
    change layoutD (encDP 0x0A#6 0#6 a limit k) = _
    unfold layoutD majorOf
    rw [DP_26_6]
    change whenZ _ (Instr.waita _ _ _) = _
    simp only [zeroAt, tokOf, DP_20_6, DP_16_4, DP_4_12, DP_2_2, DP_0_2]
    rfl
  · exact absurd hs Bool.false_ne_true
  · refine decode_of ?_ hw hs
    change layoutD (encDP 0x0A#6 0#6 a limit k) = _
    unfold layoutD majorOf
    rw [DP_26_6]
    change whenZ _ (Instr.waita _ _ _) = _
    simp only [zeroAt, tokOf, DP_20_6, DP_16_4, DP_4_12, DP_2_2, DP_0_2]
    rfl
theorem ainc (a : BitVec 4) (imm : BitVec 12) (k : Tok) : Statement (.ainc a imm k) := by
  intro st hw hs
  cases st
  · exact absurd hs Bool.false_ne_true
  · refine decode_of ?_ hw hs
    change layoutD (encDP 0x0B#6 0#6 a imm k) = _
    unfold layoutD majorOf
    rw [DP_26_6]
    change whenZ _ (Instr.ainc _ _ _) = _
    simp only [zeroAt, tokOf, DP_20_6, DP_16_4, DP_4_12, DP_2_2, DP_0_2]
    rfl
  · exact absurd hs Bool.false_ne_true
  · refine decode_of ?_ hw hs
    change layoutD (encDP 0x0B#6 0#6 a imm k) = _
    unfold layoutD majorOf
    rw [DP_26_6]
    change whenZ _ (Instr.ainc _ _ _) = _
    simp only [zeroAt, tokOf, DP_20_6, DP_16_4, DP_4_12, DP_2_2, DP_0_2]
    rfl
theorem stv (v : BitVec 6) (a : BitVec 4) (imm : BitVec 12) (k : Tok) : Statement (.stv v a imm k) := by
  intro st hw hs
  cases st
  · exact absurd hs Bool.false_ne_true
  · exact absurd hs Bool.false_ne_true
  · exact absurd hs Bool.false_ne_true
  · refine decode_of ?_ hw hs
    change layoutD (encDP 0x10#6 v a imm k) = _
    unfold layoutD majorOf
    rw [DP_26_6]
    change some (Instr.stv _ _ _ _) = _
    simp only [tokOf, DP_20_6, DP_16_4, DP_4_12, DP_2_2, DP_0_2]
theorem stvd (v : BitVec 6) (a : BitVec 4) (dir : BitVec 1) (imm : BitVec 11) (k : Tok) : Statement (.stvd v a dir imm k) := by
  intro st hw hs
  cases st
  · exact absurd hs Bool.false_ne_true
  · exact absurd hs Bool.false_ne_true
  · exact absurd hs Bool.false_ne_true
  · refine decode_of ?_ hw hs
    change layoutD (encDD 0x11#6 v a dir imm k) = _
    unfold layoutD majorOf
    rw [DD_26_6]
    change some (Instr.stvd _ _ _ _ _) = _
    simp only [tokOf, DD_20_6, DD_16_4, DD_15_1, DD_4_11, DD_2_2, DD_0_2]
theorem stvx (v : BitVec 6) (a : BitVec 4) (vi : BitVec 6) (k : Tok) : Statement (.stvx v a vi k) := by
  intro st hw hs
  cases st
  · exact absurd hs Bool.false_ne_true
  · exact absurd hs Bool.false_ne_true
  · exact absurd hs Bool.false_ne_true
  · refine decode_of ?_ hw hs
    change layoutD (encDG 0x12#6 v a vi k) = _
    unfold layoutD majorOf
    rw [DG_26_6]
    change whenZ _ (Instr.stvx _ _ _ _) = _
    simp only [zeroAt, tokOf, DG_20_6, DG_16_4, DG_10_6, DG_4_6, DG_2_2, DG_0_2]
    rfl
theorem note (a : BitVec 4) (imm : BitVec 12) (k : Tok) : Statement (.note a imm k) := by
  intro st hw hs
  cases st
  · exact absurd hs Bool.false_ne_true
  · exact absurd hs Bool.false_ne_true
  · exact absurd hs Bool.false_ne_true
  · refine decode_of ?_ hw hs
    change layoutD (encDP 0x13#6 0#6 a imm k) = _
    unfold layoutD majorOf
    rw [DP_26_6]
    change whenZ _ (Instr.note _ _ _) = _
    simp only [zeroAt, tokOf, DP_20_6, DP_16_4, DP_4_12, DP_2_2, DP_0_2]
    rfl
theorem lfence (k : Tok) : Statement (.lfence k) := by
  intro st hw hs
  have hv : (encode (.lfence k)).toNat =
      20 * 2 ^ 26 + k.pop.toNat * 2 ^ 2 + k.push.toNat := by
    change (0x14#6 ++ 0#22 ++ k.pop ++ k.push).toNat = _
    rw [app_toNat, app_toNat, app_toNat]
    simp only [BitVec.toNat_ofNat]
    omega
  generalize encode (.lfence k) = w at hv ⊢
  have f26_6 : fld w 26 6 = 20#6 := fld_of (by simp only [BitVec.toNat_ofNat]; omega)
  have f4_22 : fld w 4 22 = 0#22 := fld_of (by simp only [BitVec.toNat_ofNat]; omega)
  have f2_2 : fld w 2 2 = k.pop := fld_of (by omega)
  have f0_2 : fld w 0 2 = k.push := fld_of (by omega)
  cases st
  · exact absurd hs Bool.false_ne_true
  · exact absurd hs Bool.false_ne_true
  · exact absurd hs Bool.false_ne_true
  · refine decode_of ?_ hw hs
    change layoutD w = _
    unfold layoutD majorOf
    rw [f26_6]
    change whenZ _ (Instr.lfence _) = _
    simp only [zeroAt, tokOf, f4_22, f2_2, f0_2]
    rfl
theorem loopDA (lp : BitVec 2) (skip : BitVec 8) (count : BitVec 12) (k : Tok) : Statement (.loopDA lp skip count k) := by
  intro st hw hs
  have hv : (encode (.loopDA lp skip count k)).toNat =
      56 * 2 ^ 26 + lp.toNat * 2 ^ 24 + skip.toNat * 2 ^ 16 + count.toNat * 2 ^ 4 +
        k.pop.toNat * 2 ^ 2 + k.push.toNat := by
    change (0x38#6 ++ lp ++ skip ++ count ++ k.pop ++ k.push).toNat = _
    rw [app_toNat, app_toNat, app_toNat, app_toNat, app_toNat]
    simp only [BitVec.toNat_ofNat]
    omega
  generalize encode (.loopDA lp skip count k) = w at hv ⊢
  have f26_6 : fld w 26 6 = 56#6 := fld_of (by simp only [BitVec.toNat_ofNat]; omega)
  have f24_2 : fld w 24 2 = lp := fld_of (by omega)
  have f16_8 : fld w 16 8 = skip := fld_of (by omega)
  have f4_12 : fld w 4 12 = count := fld_of (by omega)
  have f2_2 : fld w 2 2 = k.pop := fld_of (by omega)
  have f0_2 : fld w 0 2 = k.push := fld_of (by omega)
  cases st
  · exact absurd hs Bool.false_ne_true
  · refine decode_of ?_ hw hs
    change layoutD w = _
    unfold layoutD majorOf
    rw [f26_6]
    change layoutShared _ = _
    unfold layoutShared majorOf
    rw [f26_6]
    change some (Instr.loopDA _ _ _ _) = _
    simp only [tokOf, f24_2, f16_8, f4_12, f2_2, f0_2]
  · refine decode_of ?_ hw hs
    change layoutA w = _
    unfold layoutA majorOf
    rw [f26_6]
    change layoutShared _ = _
    unfold layoutShared majorOf
    rw [f26_6]
    change some (Instr.loopDA _ _ _ _) = _
    simp only [tokOf, f24_2, f16_8, f4_12, f2_2, f0_2]
  · refine decode_of ?_ hw hs
    change layoutD w = _
    unfold layoutD majorOf
    rw [f26_6]
    change layoutShared _ = _
    unfold layoutShared majorOf
    rw [f26_6]
    change some (Instr.loopDA _ _ _ _) = _
    simp only [tokOf, f24_2, f16_8, f4_12, f2_2, f0_2]
theorem loopcDA (lp : BitVec 2) (j : BitVec 2) (mx : BitVec 18) (k : Tok) : Statement (.loopcDA lp j mx k) := by
  intro st hw hs
  have hv : (encode (.loopcDA lp j mx k)).toNat =
      57 * 2 ^ 26 + lp.toNat * 2 ^ 24 + j.toNat * 2 ^ 22 + mx.toNat * 2 ^ 4 +
        k.pop.toNat * 2 ^ 2 + k.push.toNat := by
    change (0x39#6 ++ lp ++ j ++ mx ++ k.pop ++ k.push).toNat = _
    rw [app_toNat, app_toNat, app_toNat, app_toNat, app_toNat]
    simp only [BitVec.toNat_ofNat]
    omega
  generalize encode (.loopcDA lp j mx k) = w at hv ⊢
  have f26_6 : fld w 26 6 = 57#6 := fld_of (by simp only [BitVec.toNat_ofNat]; omega)
  have f24_2 : fld w 24 2 = lp := fld_of (by omega)
  have f22_2 : fld w 22 2 = j := fld_of (by omega)
  have f4_18 : fld w 4 18 = mx := fld_of (by omega)
  have f2_2 : fld w 2 2 = k.pop := fld_of (by omega)
  have f0_2 : fld w 0 2 = k.push := fld_of (by omega)
  cases st
  · exact absurd hs Bool.false_ne_true
  · refine decode_of ?_ hw hs
    change layoutD w = _
    unfold layoutD majorOf
    rw [f26_6]
    change layoutShared _ = _
    unfold layoutShared majorOf
    rw [f26_6]
    change some (Instr.loopcDA _ _ _ _) = _
    simp only [tokOf, f24_2, f22_2, f4_18, f2_2, f0_2]
  · refine decode_of ?_ hw hs
    change layoutA w = _
    unfold layoutA majorOf
    rw [f26_6]
    change layoutShared _ = _
    unfold layoutShared majorOf
    rw [f26_6]
    change some (Instr.loopcDA _ _ _ _) = _
    simp only [tokOf, f24_2, f22_2, f4_18, f2_2, f0_2]
  · refine decode_of ?_ hw hs
    change layoutD w = _
    unfold layoutD majorOf
    rw [f26_6]
    change layoutShared _ = _
    unfold layoutShared majorOf
    rw [f26_6]
    change some (Instr.loopcDA _ _ _ _) = _
    simp only [tokOf, f24_2, f22_2, f4_18, f2_2, f0_2]
theorem lendDA (lp : BitVec 2) (k : Tok) : Statement (.lendDA lp k) := by
  intro st hw hs
  cases st
  · exact absurd hs Bool.false_ne_true
  · refine decode_of ?_ hw hs
    change layoutD (encLE lp 0#1 k) = _
    unfold layoutD majorOf
    rw [LE_26_6]
    change layoutShared _ = _
    unfold layoutShared majorOf
    rw [LE_26_6]
    simp only [zeroAt, tokOf, LE_24_2, LE_23_1, LE_4_19, LE_2_2, LE_0_2]
    rfl
  · refine decode_of ?_ hw hs
    change layoutA (encLE lp 0#1 k) = _
    unfold layoutA majorOf
    rw [LE_26_6]
    change layoutShared _ = _
    unfold layoutShared majorOf
    rw [LE_26_6]
    simp only [zeroAt, tokOf, LE_24_2, LE_23_1, LE_4_19, LE_2_2, LE_0_2]
    rfl
  · refine decode_of ?_ hw hs
    change layoutD (encLE lp 0#1 k) = _
    unfold layoutD majorOf
    rw [LE_26_6]
    change layoutShared _ = _
    unfold layoutShared majorOf
    rw [LE_26_6]
    simp only [zeroAt, tokOf, LE_24_2, LE_23_1, LE_4_19, LE_2_2, LE_0_2]
    rfl
theorem lendR (lp : BitVec 2) (k : Tok) : Statement (.lendR lp k) := by
  intro st hw hs
  cases st
  · exact absurd hs Bool.false_ne_true
  · exact absurd hs Bool.false_ne_true
  · refine decode_of ?_ hw hs
    change layoutA (encLE lp 1#1 k) = _
    unfold layoutA majorOf
    rw [LE_26_6]
    change layoutShared _ = _
    unfold layoutShared majorOf
    rw [LE_26_6]
    simp only [zeroAt, tokOf, LE_24_2, LE_23_1, LE_4_19, LE_2_2, LE_0_2]
    rfl
  · exact absurd hs Bool.false_ne_true
theorem prepDA (j : BitVec 2) (off : BitVec 20) (k : Tok) : Statement (.prepDA j off k) := by
  intro st hw hs
  have hv : (encode (.prepDA j off k)).toNat =
      59 * 2 ^ 26 + j.toNat * 2 ^ 24 + off.toNat * 2 ^ 4 + k.pop.toNat * 2 ^ 2 +
        k.push.toNat := by
    change (0x3B#6 ++ j ++ off ++ k.pop ++ k.push).toNat = _
    rw [app_toNat, app_toNat, app_toNat, app_toNat]
    simp only [BitVec.toNat_ofNat]
    omega
  generalize encode (.prepDA j off k) = w at hv ⊢
  have f26_6 : fld w 26 6 = 59#6 := fld_of (by simp only [BitVec.toNat_ofNat]; omega)
  have f24_2 : fld w 24 2 = j := fld_of (by omega)
  have f4_20 : fld w 4 20 = off := fld_of (by omega)
  have f2_2 : fld w 2 2 = k.pop := fld_of (by omega)
  have f0_2 : fld w 0 2 = k.push := fld_of (by omega)
  cases st
  · exact absurd hs Bool.false_ne_true
  · refine decode_of ?_ hw hs
    change layoutD w = _
    unfold layoutD majorOf
    rw [f26_6]
    change layoutShared _ = _
    unfold layoutShared majorOf
    rw [f26_6]
    change some (Instr.prepDA _ _ _) = _
    simp only [tokOf, f24_2, f4_20, f2_2, f0_2]
  · refine decode_of ?_ hw hs
    change layoutA w = _
    unfold layoutA majorOf
    rw [f26_6]
    change layoutShared _ = _
    unfold layoutShared majorOf
    rw [f26_6]
    change some (Instr.prepDA _ _ _) = _
    simp only [tokOf, f24_2, f4_20, f2_2, f0_2]
  · refine decode_of ?_ hw hs
    change layoutD w = _
    unfold layoutD majorOf
    rw [f26_6]
    change layoutShared _ = _
    unfold layoutShared majorOf
    rw [f26_6]
    change some (Instr.prepDA _ _ _) = _
    simp only [tokOf, f24_2, f4_20, f2_2, f0_2]
theorem xferADA (j : BitVec 2) (k : Tok) : Statement (.xferADA j k) := by
  intro st hw hs
  cases st
  · exact absurd hs Bool.false_ne_true
  · refine decode_of ?_ hw hs
    change layoutD (encPX j 0#2 k) = _
    unfold layoutD majorOf
    rw [PX_26_6]
    change layoutShared _ = _
    unfold layoutShared majorOf
    rw [PX_26_6]
    change (match (fld _ 22 2).toNat with | 0 => whenZ _ (.xferADA _ _) | 1 => whenZ _ (.xferTDA _ _) | 2 => whenZ _ (.xferFDA _ _) | _ => none) = _
    rw [PX_22_2]
    change whenZ _ (Instr.xferADA _ _) = _
    simp only [zeroAt, tokOf, PX_24_2, PX_4_18, PX_2_2, PX_0_2]
    rfl
  · refine decode_of ?_ hw hs
    change layoutA (encPX j 0#2 k) = _
    unfold layoutA majorOf
    rw [PX_26_6]
    change layoutShared _ = _
    unfold layoutShared majorOf
    rw [PX_26_6]
    change (match (fld _ 22 2).toNat with | 0 => whenZ _ (.xferADA _ _) | 1 => whenZ _ (.xferTDA _ _) | 2 => whenZ _ (.xferFDA _ _) | _ => none) = _
    rw [PX_22_2]
    change whenZ _ (Instr.xferADA _ _) = _
    simp only [zeroAt, tokOf, PX_24_2, PX_4_18, PX_2_2, PX_0_2]
    rfl
  · refine decode_of ?_ hw hs
    change layoutD (encPX j 0#2 k) = _
    unfold layoutD majorOf
    rw [PX_26_6]
    change layoutShared _ = _
    unfold layoutShared majorOf
    rw [PX_26_6]
    change (match (fld _ 22 2).toNat with | 0 => whenZ _ (.xferADA _ _) | 1 => whenZ _ (.xferTDA _ _) | 2 => whenZ _ (.xferFDA _ _) | _ => none) = _
    rw [PX_22_2]
    change whenZ _ (Instr.xferADA _ _) = _
    simp only [zeroAt, tokOf, PX_24_2, PX_4_18, PX_2_2, PX_0_2]
    rfl
theorem xferTDA (j : BitVec 2) (k : Tok) : Statement (.xferTDA j k) := by
  intro st hw hs
  cases st
  · exact absurd hs Bool.false_ne_true
  · refine decode_of ?_ hw hs
    change layoutD (encPX j 1#2 k) = _
    unfold layoutD majorOf
    rw [PX_26_6]
    change layoutShared _ = _
    unfold layoutShared majorOf
    rw [PX_26_6]
    change (match (fld _ 22 2).toNat with | 0 => whenZ _ (.xferADA _ _) | 1 => whenZ _ (.xferTDA _ _) | 2 => whenZ _ (.xferFDA _ _) | _ => none) = _
    rw [PX_22_2]
    change whenZ _ (Instr.xferTDA _ _) = _
    simp only [zeroAt, tokOf, PX_24_2, PX_4_18, PX_2_2, PX_0_2]
    rfl
  · refine decode_of ?_ hw hs
    change layoutA (encPX j 1#2 k) = _
    unfold layoutA majorOf
    rw [PX_26_6]
    change layoutShared _ = _
    unfold layoutShared majorOf
    rw [PX_26_6]
    change (match (fld _ 22 2).toNat with | 0 => whenZ _ (.xferADA _ _) | 1 => whenZ _ (.xferTDA _ _) | 2 => whenZ _ (.xferFDA _ _) | _ => none) = _
    rw [PX_22_2]
    change whenZ _ (Instr.xferTDA _ _) = _
    simp only [zeroAt, tokOf, PX_24_2, PX_4_18, PX_2_2, PX_0_2]
    rfl
  · refine decode_of ?_ hw hs
    change layoutD (encPX j 1#2 k) = _
    unfold layoutD majorOf
    rw [PX_26_6]
    change layoutShared _ = _
    unfold layoutShared majorOf
    rw [PX_26_6]
    change (match (fld _ 22 2).toNat with | 0 => whenZ _ (.xferADA _ _) | 1 => whenZ _ (.xferTDA _ _) | 2 => whenZ _ (.xferFDA _ _) | _ => none) = _
    rw [PX_22_2]
    change whenZ _ (Instr.xferTDA _ _) = _
    simp only [zeroAt, tokOf, PX_24_2, PX_4_18, PX_2_2, PX_0_2]
    rfl
theorem xferFDA (j : BitVec 2) (k : Tok) : Statement (.xferFDA j k) := by
  intro st hw hs
  cases st
  · exact absurd hs Bool.false_ne_true
  · refine decode_of ?_ hw hs
    change layoutD (encPX j 2#2 k) = _
    unfold layoutD majorOf
    rw [PX_26_6]
    change layoutShared _ = _
    unfold layoutShared majorOf
    rw [PX_26_6]
    change (match (fld _ 22 2).toNat with | 0 => whenZ _ (.xferADA _ _) | 1 => whenZ _ (.xferTDA _ _) | 2 => whenZ _ (.xferFDA _ _) | _ => none) = _
    rw [PX_22_2]
    change whenZ _ (Instr.xferFDA _ _) = _
    simp only [zeroAt, tokOf, PX_24_2, PX_4_18, PX_2_2, PX_0_2]
    rfl
  · refine decode_of ?_ hw hs
    change layoutA (encPX j 2#2 k) = _
    unfold layoutA majorOf
    rw [PX_26_6]
    change layoutShared _ = _
    unfold layoutShared majorOf
    rw [PX_26_6]
    change (match (fld _ 22 2).toNat with | 0 => whenZ _ (.xferADA _ _) | 1 => whenZ _ (.xferTDA _ _) | 2 => whenZ _ (.xferFDA _ _) | _ => none) = _
    rw [PX_22_2]
    change whenZ _ (Instr.xferFDA _ _) = _
    simp only [zeroAt, tokOf, PX_24_2, PX_4_18, PX_2_2, PX_0_2]
    rfl
  · refine decode_of ?_ hw hs
    change layoutD (encPX j 2#2 k) = _
    unfold layoutD majorOf
    rw [PX_26_6]
    change layoutShared _ = _
    unfold layoutShared majorOf
    rw [PX_26_6]
    change (match (fld _ 22 2).toNat with | 0 => whenZ _ (.xferADA _ _) | 1 => whenZ _ (.xferTDA _ _) | 2 => whenZ _ (.xferFDA _ _) | _ => none) = _
    rw [PX_22_2]
    change whenZ _ (Instr.xferFDA _ _) = _
    simp only [zeroAt, tokOf, PX_24_2, PX_4_18, PX_2_2, PX_0_2]
    rfl
theorem nopDA (k : Tok) : Statement (.nopDA k) := by
  intro st hw hs
  have hv : (encode (.nopDA k)).toNat =
      63 * 2 ^ 26 + k.pop.toNat * 2 ^ 2 + k.push.toNat := by
    change (0x3F#6 ++ 0#22 ++ k.pop ++ k.push).toNat = _
    rw [app_toNat, app_toNat, app_toNat]
    simp only [BitVec.toNat_ofNat]
    omega
  generalize encode (.nopDA k) = w at hv ⊢
  have f26_6 : fld w 26 6 = 63#6 := fld_of (by simp only [BitVec.toNat_ofNat]; omega)
  have f4_22 : fld w 4 22 = 0#22 := fld_of (by simp only [BitVec.toNat_ofNat]; omega)
  have f2_2 : fld w 2 2 = k.pop := fld_of (by omega)
  have f0_2 : fld w 0 2 = k.push := fld_of (by omega)
  cases st
  · exact absurd hs Bool.false_ne_true
  · refine decode_of ?_ hw hs
    change layoutD w = _
    unfold layoutD majorOf
    rw [f26_6]
    change layoutShared _ = _
    unfold layoutShared majorOf
    rw [f26_6]
    change whenZ _ (Instr.nopDA _) = _
    simp only [zeroAt, tokOf, f4_22, f2_2, f0_2]
    rfl
  · refine decode_of ?_ hw hs
    change layoutA w = _
    unfold layoutA majorOf
    rw [f26_6]
    change layoutShared _ = _
    unfold layoutShared majorOf
    rw [f26_6]
    change whenZ _ (Instr.nopDA _) = _
    simp only [zeroAt, tokOf, f4_22, f2_2, f0_2]
    rfl
  · refine decode_of ?_ hw hs
    change layoutD w = _
    unfold layoutD majorOf
    rw [f26_6]
    change layoutShared _ = _
    unfold layoutShared majorOf
    rw [f26_6]
    change whenZ _ (Instr.nopDA _) = _
    simp only [zeroAt, tokOf, f4_22, f2_2, f0_2]
    rfl
theorem vadd (f : V3) : Statement (.vadd f) := by
  intro st hw hs
  cases st
  · exact absurd hs Bool.false_ne_true
  · exact absurd hs Bool.false_ne_true
  · refine decode_of ?_ hw hs
    change layoutA (encV3 0x01#6 f) = _
    unfold layoutA majorOf
    rw [V3_26_6]
    change some (Instr.vadd _) = _
    simp only [tokOf, v3Of, V3_20_6, V3_14_6, V3_8_6, V3_5_3, V3_4_1, V3_2_2, V3_0_2]
  · exact absurd hs Bool.false_ne_true
theorem vsub (f : V3) : Statement (.vsub f) := by
  intro st hw hs
  cases st
  · exact absurd hs Bool.false_ne_true
  · exact absurd hs Bool.false_ne_true
  · refine decode_of ?_ hw hs
    change layoutA (encV3 0x02#6 f) = _
    unfold layoutA majorOf
    rw [V3_26_6]
    change some (Instr.vsub _) = _
    simp only [tokOf, v3Of, V3_20_6, V3_14_6, V3_8_6, V3_5_3, V3_4_1, V3_2_2, V3_0_2]
  · exact absurd hs Bool.false_ne_true
theorem vadds (f : V3) : Statement (.vadds f) := by
  intro st hw hs
  cases st
  · exact absurd hs Bool.false_ne_true
  · exact absurd hs Bool.false_ne_true
  · refine decode_of ?_ hw hs
    change layoutA (encV3 0x03#6 f) = _
    unfold layoutA majorOf
    rw [V3_26_6]
    change some (Instr.vadds _) = _
    simp only [tokOf, v3Of, V3_20_6, V3_14_6, V3_8_6, V3_5_3, V3_4_1, V3_2_2, V3_0_2]
  · exact absurd hs Bool.false_ne_true
theorem vsubs (f : V3) : Statement (.vsubs f) := by
  intro st hw hs
  cases st
  · exact absurd hs Bool.false_ne_true
  · exact absurd hs Bool.false_ne_true
  · refine decode_of ?_ hw hs
    change layoutA (encV3 0x04#6 f) = _
    unfold layoutA majorOf
    rw [V3_26_6]
    change some (Instr.vsubs _) = _
    simp only [tokOf, v3Of, V3_20_6, V3_14_6, V3_8_6, V3_5_3, V3_4_1, V3_2_2, V3_0_2]
  · exact absurd hs Bool.false_ne_true
theorem vavg (f : V3) : Statement (.vavg f) := by
  intro st hw hs
  cases st
  · exact absurd hs Bool.false_ne_true
  · exact absurd hs Bool.false_ne_true
  · refine decode_of ?_ hw hs
    change layoutA (encV3 0x05#6 f) = _
    unfold layoutA majorOf
    rw [V3_26_6]
    change some (Instr.vavg _) = _
    simp only [tokOf, v3Of, V3_20_6, V3_14_6, V3_8_6, V3_5_3, V3_4_1, V3_2_2, V3_0_2]
  · exact absurd hs Bool.false_ne_true
theorem vmul (f : V3) : Statement (.vmul f) := by
  intro st hw hs
  cases st
  · exact absurd hs Bool.false_ne_true
  · exact absurd hs Bool.false_ne_true
  · refine decode_of ?_ hw hs
    change layoutA (encV3 0x06#6 f) = _
    unfold layoutA majorOf
    rw [V3_26_6]
    change some (Instr.vmul _) = _
    simp only [tokOf, v3Of, V3_20_6, V3_14_6, V3_8_6, V3_5_3, V3_4_1, V3_2_2, V3_0_2]
  · exact absurd hs Bool.false_ne_true
theorem vmulh (f : V3) : Statement (.vmulh f) := by
  intro st hw hs
  cases st
  · exact absurd hs Bool.false_ne_true
  · exact absurd hs Bool.false_ne_true
  · refine decode_of ?_ hw hs
    change layoutA (encV3 0x07#6 f) = _
    unfold layoutA majorOf
    rw [V3_26_6]
    change some (Instr.vmulh _) = _
    simp only [tokOf, v3Of, V3_20_6, V3_14_6, V3_8_6, V3_5_3, V3_4_1, V3_2_2, V3_0_2]
  · exact absurd hs Bool.false_ne_true
theorem vmulq (f : V3) : Statement (.vmulq f) := by
  intro st hw hs
  cases st
  · exact absurd hs Bool.false_ne_true
  · exact absurd hs Bool.false_ne_true
  · refine decode_of ?_ hw hs
    change layoutA (encV3 0x08#6 f) = _
    unfold layoutA majorOf
    rw [V3_26_6]
    change some (Instr.vmulq _) = _
    simp only [tokOf, v3Of, V3_20_6, V3_14_6, V3_8_6, V3_5_3, V3_4_1, V3_2_2, V3_0_2]
  · exact absurd hs Bool.false_ne_true
theorem vmac (f : V3) : Statement (.vmac f) := by
  intro st hw hs
  cases st
  · exact absurd hs Bool.false_ne_true
  · exact absurd hs Bool.false_ne_true
  · refine decode_of ?_ hw hs
    change layoutA (encV3 0x09#6 f) = _
    unfold layoutA majorOf
    rw [V3_26_6]
    change some (Instr.vmac _) = _
    simp only [tokOf, v3Of, V3_20_6, V3_14_6, V3_8_6, V3_5_3, V3_4_1, V3_2_2, V3_0_2]
  · exact absurd hs Bool.false_ne_true
theorem vabd (f : V3) : Statement (.vabd f) := by
  intro st hw hs
  cases st
  · exact absurd hs Bool.false_ne_true
  · exact absurd hs Bool.false_ne_true
  · refine decode_of ?_ hw hs
    change layoutA (encV3 0x0a#6 f) = _
    unfold layoutA majorOf
    rw [V3_26_6]
    change some (Instr.vabd _) = _
    simp only [tokOf, v3Of, V3_20_6, V3_14_6, V3_8_6, V3_5_3, V3_4_1, V3_2_2, V3_0_2]
  · exact absurd hs Bool.false_ne_true
theorem vmin (f : V3) : Statement (.vmin f) := by
  intro st hw hs
  cases st
  · exact absurd hs Bool.false_ne_true
  · exact absurd hs Bool.false_ne_true
  · refine decode_of ?_ hw hs
    change layoutA (encV3 0x0b#6 f) = _
    unfold layoutA majorOf
    rw [V3_26_6]
    change some (Instr.vmin _) = _
    simp only [tokOf, v3Of, V3_20_6, V3_14_6, V3_8_6, V3_5_3, V3_4_1, V3_2_2, V3_0_2]
  · exact absurd hs Bool.false_ne_true
theorem vmax (f : V3) : Statement (.vmax f) := by
  intro st hw hs
  cases st
  · exact absurd hs Bool.false_ne_true
  · exact absurd hs Bool.false_ne_true
  · refine decode_of ?_ hw hs
    change layoutA (encV3 0x0c#6 f) = _
    unfold layoutA majorOf
    rw [V3_26_6]
    change some (Instr.vmax _) = _
    simp only [tokOf, v3Of, V3_20_6, V3_14_6, V3_8_6, V3_5_3, V3_4_1, V3_2_2, V3_0_2]
  · exact absurd hs Bool.false_ne_true
theorem vand (f : V3) : Statement (.vand f) := by
  intro st hw hs
  cases st
  · exact absurd hs Bool.false_ne_true
  · exact absurd hs Bool.false_ne_true
  · refine decode_of ?_ hw hs
    change layoutA (encV3 0x0d#6 f) = _
    unfold layoutA majorOf
    rw [V3_26_6]
    change some (Instr.vand _) = _
    simp only [tokOf, v3Of, V3_20_6, V3_14_6, V3_8_6, V3_5_3, V3_4_1, V3_2_2, V3_0_2]
  · exact absurd hs Bool.false_ne_true
theorem vor (f : V3) : Statement (.vor f) := by
  intro st hw hs
  cases st
  · exact absurd hs Bool.false_ne_true
  · exact absurd hs Bool.false_ne_true
  · refine decode_of ?_ hw hs
    change layoutA (encV3 0x0e#6 f) = _
    unfold layoutA majorOf
    rw [V3_26_6]
    change some (Instr.vor _) = _
    simp only [tokOf, v3Of, V3_20_6, V3_14_6, V3_8_6, V3_5_3, V3_4_1, V3_2_2, V3_0_2]
  · exact absurd hs Bool.false_ne_true
theorem vxor (f : V3) : Statement (.vxor f) := by
  intro st hw hs
  cases st
  · exact absurd hs Bool.false_ne_true
  · exact absurd hs Bool.false_ne_true
  · refine decode_of ?_ hw hs
    change layoutA (encV3 0x0f#6 f) = _
    unfold layoutA majorOf
    rw [V3_26_6]
    change some (Instr.vxor _) = _
    simp only [tokOf, v3Of, V3_20_6, V3_14_6, V3_8_6, V3_5_3, V3_4_1, V3_2_2, V3_0_2]
  · exact absurd hs Bool.false_ne_true
theorem vshl (f : V3) : Statement (.vshl f) := by
  intro st hw hs
  cases st
  · exact absurd hs Bool.false_ne_true
  · exact absurd hs Bool.false_ne_true
  · refine decode_of ?_ hw hs
    change layoutA (encV3 0x10#6 f) = _
    unfold layoutA majorOf
    rw [V3_26_6]
    change some (Instr.vshl _) = _
    simp only [tokOf, v3Of, V3_20_6, V3_14_6, V3_8_6, V3_5_3, V3_4_1, V3_2_2, V3_0_2]
  · exact absurd hs Bool.false_ne_true
theorem vshr (f : V3) : Statement (.vshr f) := by
  intro st hw hs
  cases st
  · exact absurd hs Bool.false_ne_true
  · exact absurd hs Bool.false_ne_true
  · refine decode_of ?_ hw hs
    change layoutA (encV3 0x11#6 f) = _
    unfold layoutA majorOf
    rw [V3_26_6]
    change some (Instr.vshr _) = _
    simp only [tokOf, v3Of, V3_20_6, V3_14_6, V3_8_6, V3_5_3, V3_4_1, V3_2_2, V3_0_2]
  · exact absurd hs Bool.false_ne_true
theorem vsar (f : V3) : Statement (.vsar f) := by
  intro st hw hs
  cases st
  · exact absurd hs Bool.false_ne_true
  · exact absurd hs Bool.false_ne_true
  · refine decode_of ?_ hw hs
    change layoutA (encV3 0x12#6 f) = _
    unfold layoutA majorOf
    rw [V3_26_6]
    change some (Instr.vsar _) = _
    simp only [tokOf, v3Of, V3_20_6, V3_14_6, V3_8_6, V3_5_3, V3_4_1, V3_2_2, V3_0_2]
  · exact absurd hs Bool.false_ne_true
theorem vshrr (f : V3) : Statement (.vshrr f) := by
  intro st hw hs
  cases st
  · exact absurd hs Bool.false_ne_true
  · exact absurd hs Bool.false_ne_true
  · refine decode_of ?_ hw hs
    change layoutA (encV3 0x13#6 f) = _
    unfold layoutA majorOf
    rw [V3_26_6]
    change some (Instr.vshrr _) = _
    simp only [tokOf, v3Of, V3_20_6, V3_14_6, V3_8_6, V3_5_3, V3_4_1, V3_2_2, V3_0_2]
  · exact absurd hs Bool.false_ne_true
theorem vshls (f : V3) : Statement (.vshls f) := by
  intro st hw hs
  cases st
  · exact absurd hs Bool.false_ne_true
  · exact absurd hs Bool.false_ne_true
  · refine decode_of ?_ hw hs
    change layoutA (encV3 0x14#6 f) = _
    unfold layoutA majorOf
    rw [V3_26_6]
    change some (Instr.vshls _) = _
    simp only [tokOf, v3Of, V3_20_6, V3_14_6, V3_8_6, V3_5_3, V3_4_1, V3_2_2, V3_0_2]
  · exact absurd hs Bool.false_ne_true
theorem vsel (f : V3) : Statement (.vsel f) := by
  intro st hw hs
  cases st
  · exact absurd hs Bool.false_ne_true
  · exact absurd hs Bool.false_ne_true
  · refine decode_of ?_ hw hs
    change layoutA (encV3 0x15#6 f) = _
    unfold layoutA majorOf
    rw [V3_26_6]
    change some (Instr.vsel _) = _
    simp only [tokOf, v3Of, V3_20_6, V3_14_6, V3_8_6, V3_5_3, V3_4_1, V3_2_2, V3_0_2]
  · exact absurd hs Bool.false_ne_true
theorem vperm (f : V3) : Statement (.vperm f) := by
  intro st hw hs
  cases st
  · exact absurd hs Bool.false_ne_true
  · exact absurd hs Bool.false_ne_true
  · refine decode_of ?_ hw hs
    change layoutA (encV3 0x16#6 f) = _
    unfold layoutA majorOf
    rw [V3_26_6]
    change some (Instr.vperm _) = _
    simp only [tokOf, v3Of, V3_20_6, V3_14_6, V3_8_6, V3_5_3, V3_4_1, V3_2_2, V3_0_2]
  · exact absurd hs Bool.false_ne_true
theorem vzip (f : V3) : Statement (.vzip f) := by
  intro st hw hs
  cases st
  · exact absurd hs Bool.false_ne_true
  · exact absurd hs Bool.false_ne_true
  · refine decode_of ?_ hw hs
    change layoutA (encV3 0x17#6 f) = _
    unfold layoutA majorOf
    rw [V3_26_6]
    change some (Instr.vzip _) = _
    simp only [tokOf, v3Of, V3_20_6, V3_14_6, V3_8_6, V3_5_3, V3_4_1, V3_2_2, V3_0_2]
  · exact absurd hs Bool.false_ne_true
theorem vunzip (f : V3) : Statement (.vunzip f) := by
  intro st hw hs
  cases st
  · exact absurd hs Bool.false_ne_true
  · exact absurd hs Bool.false_ne_true
  · refine decode_of ?_ hw hs
    change layoutA (encV3 0x18#6 f) = _
    unfold layoutA majorOf
    rw [V3_26_6]
    change some (Instr.vunzip _) = _
    simp only [tokOf, v3Of, V3_20_6, V3_14_6, V3_8_6, V3_5_3, V3_4_1, V3_2_2, V3_0_2]
  · exact absurd hs Bool.false_ne_true
theorem fadd (f : V3) : Statement (.fadd f) := by
  intro st hw hs
  cases st
  · exact absurd hs Bool.false_ne_true
  · exact absurd hs Bool.false_ne_true
  · refine decode_of ?_ hw hs
    change layoutA (encV3 0x19#6 f) = _
    unfold layoutA majorOf
    rw [V3_26_6]
    change some (Instr.fadd _) = _
    simp only [tokOf, v3Of, V3_20_6, V3_14_6, V3_8_6, V3_5_3, V3_4_1, V3_2_2, V3_0_2]
  · exact absurd hs Bool.false_ne_true
theorem fsub (f : V3) : Statement (.fsub f) := by
  intro st hw hs
  cases st
  · exact absurd hs Bool.false_ne_true
  · exact absurd hs Bool.false_ne_true
  · refine decode_of ?_ hw hs
    change layoutA (encV3 0x1a#6 f) = _
    unfold layoutA majorOf
    rw [V3_26_6]
    change some (Instr.fsub _) = _
    simp only [tokOf, v3Of, V3_20_6, V3_14_6, V3_8_6, V3_5_3, V3_4_1, V3_2_2, V3_0_2]
  · exact absurd hs Bool.false_ne_true
theorem fmul (f : V3) : Statement (.fmul f) := by
  intro st hw hs
  cases st
  · exact absurd hs Bool.false_ne_true
  · exact absurd hs Bool.false_ne_true
  · refine decode_of ?_ hw hs
    change layoutA (encV3 0x1b#6 f) = _
    unfold layoutA majorOf
    rw [V3_26_6]
    change some (Instr.fmul _) = _
    simp only [tokOf, v3Of, V3_20_6, V3_14_6, V3_8_6, V3_5_3, V3_4_1, V3_2_2, V3_0_2]
  · exact absurd hs Bool.false_ne_true
theorem ffma (f : V3) : Statement (.ffma f) := by
  intro st hw hs
  cases st
  · exact absurd hs Bool.false_ne_true
  · exact absurd hs Bool.false_ne_true
  · refine decode_of ?_ hw hs
    change layoutA (encV3 0x1c#6 f) = _
    unfold layoutA majorOf
    rw [V3_26_6]
    change some (Instr.ffma _) = _
    simp only [tokOf, v3Of, V3_20_6, V3_14_6, V3_8_6, V3_5_3, V3_4_1, V3_2_2, V3_0_2]
  · exact absurd hs Bool.false_ne_true
theorem fmin (f : V3) : Statement (.fmin f) := by
  intro st hw hs
  cases st
  · exact absurd hs Bool.false_ne_true
  · exact absurd hs Bool.false_ne_true
  · refine decode_of ?_ hw hs
    change layoutA (encV3 0x1d#6 f) = _
    unfold layoutA majorOf
    rw [V3_26_6]
    change some (Instr.fmin _) = _
    simp only [tokOf, v3Of, V3_20_6, V3_14_6, V3_8_6, V3_5_3, V3_4_1, V3_2_2, V3_0_2]
  · exact absurd hs Bool.false_ne_true
theorem fmax (f : V3) : Statement (.fmax f) := by
  intro st hw hs
  cases st
  · exact absurd hs Bool.false_ne_true
  · exact absurd hs Bool.false_ne_true
  · refine decode_of ?_ hw hs
    change layoutA (encV3 0x1e#6 f) = _
    unfold layoutA majorOf
    rw [V3_26_6]
    change some (Instr.fmax _) = _
    simp only [tokOf, v3Of, V3_20_6, V3_14_6, V3_8_6, V3_5_3, V3_4_1, V3_2_2, V3_0_2]
  · exact absurd hs Bool.false_ne_true
theorem vabs (f : V2) : Statement (.vabs f) := by
  intro st hw hs
  cases st
  · exact absurd hs Bool.false_ne_true
  · exact absurd hs Bool.false_ne_true
  · refine decode_of ?_ hw hs
    change layoutA (encV2 0#6 f) = _
    unfold layoutA majorOf
    rw [V2_26_6]
    change decodeV2 _ = _
    unfold decodeV2
    rw [V2_8_6]
    change some (Instr.vabs _) = _
    simp only [tokOf, v2Of, V2_20_6, V2_14_6, V2_5_3, V2_4_1, V2_2_2, V2_0_2]
  · exact absurd hs Bool.false_ne_true
theorem vnot (f : V2) : Statement (.vnot f) := by
  intro st hw hs
  cases st
  · exact absurd hs Bool.false_ne_true
  · exact absurd hs Bool.false_ne_true
  · refine decode_of ?_ hw hs
    change layoutA (encV2 1#6 f) = _
    unfold layoutA majorOf
    rw [V2_26_6]
    change decodeV2 _ = _
    unfold decodeV2
    rw [V2_8_6]
    change some (Instr.vnot _) = _
    simp only [tokOf, v2Of, V2_20_6, V2_14_6, V2_5_3, V2_4_1, V2_2_2, V2_0_2]
  · exact absurd hs Bool.false_ne_true
theorem vclz (f : V2) : Statement (.vclz f) := by
  intro st hw hs
  cases st
  · exact absurd hs Bool.false_ne_true
  · exact absurd hs Bool.false_ne_true
  · refine decode_of ?_ hw hs
    change layoutA (encV2 2#6 f) = _
    unfold layoutA majorOf
    rw [V2_26_6]
    change decodeV2 _ = _
    unfold decodeV2
    rw [V2_8_6]
    change some (Instr.vclz _) = _
    simp only [tokOf, v2Of, V2_20_6, V2_14_6, V2_5_3, V2_4_1, V2_2_2, V2_0_2]
  · exact absurd hs Bool.false_ne_true
theorem vpopc (f : V2) : Statement (.vpopc f) := by
  intro st hw hs
  cases st
  · exact absurd hs Bool.false_ne_true
  · exact absurd hs Bool.false_ne_true
  · refine decode_of ?_ hw hs
    change layoutA (encV2 3#6 f) = _
    unfold layoutA majorOf
    rw [V2_26_6]
    change decodeV2 _ = _
    unfold decodeV2
    rw [V2_8_6]
    change some (Instr.vpopc _) = _
    simp only [tokOf, v2Of, V2_20_6, V2_14_6, V2_5_3, V2_4_1, V2_2_2, V2_0_2]
  · exact absurd hs Bool.false_ne_true
theorem fabs (f : V2) : Statement (.fabs f) := by
  intro st hw hs
  cases st
  · exact absurd hs Bool.false_ne_true
  · exact absurd hs Bool.false_ne_true
  · refine decode_of ?_ hw hs
    change layoutA (encV2 4#6 f) = _
    unfold layoutA majorOf
    rw [V2_26_6]
    change decodeV2 _ = _
    unfold decodeV2
    rw [V2_8_6]
    change some (Instr.fabs _) = _
    simp only [tokOf, v2Of, V2_20_6, V2_14_6, V2_5_3, V2_4_1, V2_2_2, V2_0_2]
  · exact absurd hs Bool.false_ne_true
theorem fneg (f : V2) : Statement (.fneg f) := by
  intro st hw hs
  cases st
  · exact absurd hs Bool.false_ne_true
  · exact absurd hs Bool.false_ne_true
  · refine decode_of ?_ hw hs
    change layoutA (encV2 5#6 f) = _
    unfold layoutA majorOf
    rw [V2_26_6]
    change decodeV2 _ = _
    unfold decodeV2
    rw [V2_8_6]
    change some (Instr.fneg _) = _
    simp only [tokOf, v2Of, V2_20_6, V2_14_6, V2_5_3, V2_4_1, V2_2_2, V2_0_2]
  · exact absurd hs Bool.false_ne_true
theorem vrsum (f : V2) : Statement (.vrsum f) := by
  intro st hw hs
  cases st
  · exact absurd hs Bool.false_ne_true
  · exact absurd hs Bool.false_ne_true
  · refine decode_of ?_ hw hs
    change layoutA (encV2 6#6 f) = _
    unfold layoutA majorOf
    rw [V2_26_6]
    change decodeV2 _ = _
    unfold decodeV2
    rw [V2_8_6]
    change some (Instr.vrsum _) = _
    simp only [tokOf, v2Of, V2_20_6, V2_14_6, V2_5_3, V2_4_1, V2_2_2, V2_0_2]
  · exact absurd hs Bool.false_ne_true
theorem vrmax (f : V2) : Statement (.vrmax f) := by
  intro st hw hs
  cases st
  · exact absurd hs Bool.false_ne_true
  · exact absurd hs Bool.false_ne_true
  · refine decode_of ?_ hw hs
    change layoutA (encV2 7#6 f) = _
    unfold layoutA majorOf
    rw [V2_26_6]
    change decodeV2 _ = _
    unfold decodeV2
    rw [V2_8_6]
    change some (Instr.vrmax _) = _
    simp only [tokOf, v2Of, V2_20_6, V2_14_6, V2_5_3, V2_4_1, V2_2_2, V2_0_2]
  · exact absurd hs Bool.false_ne_true
theorem vrmin (f : V2) : Statement (.vrmin f) := by
  intro st hw hs
  cases st
  · exact absurd hs Bool.false_ne_true
  · exact absurd hs Bool.false_ne_true
  · refine decode_of ?_ hw hs
    change layoutA (encV2 8#6 f) = _
    unfold layoutA majorOf
    rw [V2_26_6]
    change decodeV2 _ = _
    unfold decodeV2
    rw [V2_8_6]
    change some (Instr.vrmin _) = _
    simp only [tokOf, v2Of, V2_20_6, V2_14_6, V2_5_3, V2_4_1, V2_2_2, V2_0_2]
  · exact absurd hs Bool.false_ne_true
theorem vcmp (f : VC) : Statement (.vcmp f) := by
  intro st hw hs
  cases st
  · exact absurd hs Bool.false_ne_true
  · exact absurd hs Bool.false_ne_true
  · refine decode_of ?_ hw hs
    change layoutA (encVC 0x20#6 f) = _
    unfold layoutA majorOf
    rw [VC_26_6]
    change whenZ _ (Instr.vcmp _) = _
    simp only [zeroAt, tokOf, vcOf, VC_23_3, VC_20_3, VC_14_6, VC_8_6, VC_5_3, VC_4_1, VC_2_2, VC_0_2]
    rfl
  · exact absurd hs Bool.false_ne_true
theorem fcmp (f : VC) : Statement (.fcmp f) := by
  intro st hw hs
  cases st
  · exact absurd hs Bool.false_ne_true
  · exact absurd hs Bool.false_ne_true
  · refine decode_of ?_ hw hs
    change layoutA (encVC 0x21#6 f) = _
    unfold layoutA majorOf
    rw [VC_26_6]
    change whenZ _ (Instr.fcmp _) = _
    simp only [zeroAt, tokOf, vcOf, VC_23_3, VC_20_3, VC_14_6, VC_8_6, VC_5_3, VC_4_1, VC_2_2, VC_0_2]
    rfl
  · exact absurd hs Bool.false_ne_true
theorem vcvtRne (f : VF) : Statement (.vcvtRne f) := by
  intro st hw hs
  cases st
  · exact absurd hs Bool.false_ne_true
  · exact absurd hs Bool.false_ne_true
  · refine decode_of ?_ hw hs
    change layoutA (encVF 0x22#6 f) = _
    unfold layoutA majorOf
    rw [VF_26_6]
    change some (Instr.vcvtRne _) = _
    simp only [tokOf, vfOf, VF_20_6, VF_14_6, VF_9_5, VF_8_1, VF_5_3, VF_4_1, VF_2_2, VF_0_2]
  · exact absurd hs Bool.false_ne_true
theorem vcvtRz (f : VF) : Statement (.vcvtRz f) := by
  intro st hw hs
  cases st
  · exact absurd hs Bool.false_ne_true
  · exact absurd hs Bool.false_ne_true
  · refine decode_of ?_ hw hs
    change layoutA (encVF 0x23#6 f) = _
    unfold layoutA majorOf
    rw [VF_26_6]
    change some (Instr.vcvtRz _) = _
    simp only [tokOf, vfOf, VF_20_6, VF_14_6, VF_9_5, VF_8_1, VF_5_3, VF_4_1, VF_2_2, VF_0_2]
  · exact absurd hs Bool.false_ne_true
theorem vcvtRu (f : VF) : Statement (.vcvtRu f) := by
  intro st hw hs
  cases st
  · exact absurd hs Bool.false_ne_true
  · exact absurd hs Bool.false_ne_true
  · refine decode_of ?_ hw hs
    change layoutA (encVF 0x24#6 f) = _
    unfold layoutA majorOf
    rw [VF_26_6]
    change some (Instr.vcvtRu _) = _
    simp only [tokOf, vfOf, VF_20_6, VF_14_6, VF_9_5, VF_8_1, VF_5_3, VF_4_1, VF_2_2, VF_0_2]
  · exact absurd hs Bool.false_ne_true
theorem vcvtRd (f : VF) : Statement (.vcvtRd f) := by
  intro st hw hs
  cases st
  · exact absurd hs Bool.false_ne_true
  · exact absurd hs Bool.false_ne_true
  · refine decode_of ?_ hw hs
    change layoutA (encVF 0x25#6 f) = _
    unfold layoutA majorOf
    rw [VF_26_6]
    change some (Instr.vcvtRd _) = _
    simp only [tokOf, vfOf, VF_20_6, VF_14_6, VF_9_5, VF_8_1, VF_5_3, VF_4_1, VF_2_2, VF_0_2]
  · exact absurd hs Bool.false_ne_true
theorem vcvtSr (f : VF) : Statement (.vcvtSr f) := by
  intro st hw hs
  cases st
  · exact absurd hs Bool.false_ne_true
  · exact absurd hs Bool.false_ne_true
  · refine decode_of ?_ hw hs
    change layoutA (encVF 0x26#6 f) = _
    unfold layoutA majorOf
    rw [VF_26_6]
    change some (Instr.vcvtSr _) = _
    simp only [tokOf, vfOf, VF_20_6, VF_14_6, VF_9_5, VF_8_1, VF_5_3, VF_4_1, VF_2_2, VF_0_2]
  · exact absurd hs Bool.false_ne_true
theorem vnarrow (f : VF) : Statement (.vnarrow f) := by
  intro st hw hs
  cases st
  · exact absurd hs Bool.false_ne_true
  · exact absurd hs Bool.false_ne_true
  · refine decode_of ?_ hw hs
    change layoutA (encVF 0x27#6 f) = _
    unfold layoutA majorOf
    rw [VF_26_6]
    change some (Instr.vnarrow _) = _
    simp only [tokOf, vfOf, VF_20_6, VF_14_6, VF_9_5, VF_8_1, VF_5_3, VF_4_1, VF_2_2, VF_0_2]
  · exact absurd hs Bool.false_ne_true
theorem vwiden (f : VF) : Statement (.vwiden f) := by
  intro st hw hs
  cases st
  · exact absurd hs Bool.false_ne_true
  · exact absurd hs Bool.false_ne_true
  · refine decode_of ?_ hw hs
    change layoutA (encVF 0x28#6 f) = _
    unfold layoutA majorOf
    rw [VF_26_6]
    change some (Instr.vwiden _) = _
    simp only [tokOf, vfOf, VF_20_6, VF_14_6, VF_9_5, VF_8_1, VF_5_3, VF_4_1, VF_2_2, VF_0_2]
  · exact absurd hs Bool.false_ne_true
theorem pxunp (f : VF) : Statement (.pxunp f) := by
  intro st hw hs
  cases st
  · exact absurd hs Bool.false_ne_true
  · exact absurd hs Bool.false_ne_true
  · refine decode_of ?_ hw hs
    change layoutA (encVF 0x29#6 f) = _
    unfold layoutA majorOf
    rw [VF_26_6]
    change some (Instr.pxunp _) = _
    simp only [tokOf, vfOf, VF_20_6, VF_14_6, VF_9_5, VF_8_1, VF_5_3, VF_4_1, VF_2_2, VF_0_2]
  · exact absurd hs Bool.false_ne_true
theorem pxpak (f : VF) : Statement (.pxpak f) := by
  intro st hw hs
  cases st
  · exact absurd hs Bool.false_ne_true
  · exact absurd hs Bool.false_ne_true
  · refine decode_of ?_ hw hs
    change layoutA (encVF 0x2a#6 f) = _
    unfold layoutA majorOf
    rw [VF_26_6]
    change some (Instr.pxpak _) = _
    simp only [tokOf, vfOf, VF_20_6, VF_14_6, VF_9_5, VF_8_1, VF_5_3, VF_4_1, VF_2_2, VF_0_2]
  · exact absurd hs Bool.false_ne_true
theorem vslide (f : VI) : Statement (.vslide f) := by
  intro st hw hs
  cases st
  · exact absurd hs Bool.false_ne_true
  · exact absurd hs Bool.false_ne_true
  · refine decode_of ?_ hw hs
    change layoutA (encVI 0x2B#6 f) = _
    unfold layoutA majorOf
    rw [VI_26_6]
    change some (Instr.vslide _) = _
    simp only [tokOf, viOf, VI_20_6, VI_14_6, VI_8_6, VI_5_3, VI_4_1, VI_2_2, VI_0_2]
  · exact absurd hs Bool.false_ne_true
theorem vbcast (f : VI) : Statement (.vbcast f) := by
  intro st hw hs
  cases st
  · exact absurd hs Bool.false_ne_true
  · exact absurd hs Bool.false_ne_true
  · refine decode_of ?_ hw hs
    change layoutA (encVI 0x2C#6 f) = _
    unfold layoutA majorOf
    rw [VI_26_6]
    change some (Instr.vbcast _) = _
    simp only [tokOf, viOf, VI_20_6, VI_14_6, VI_8_6, VI_5_3, VI_4_1, VI_2_2, VI_0_2]
  · exact absurd hs Bool.false_ne_true
theorem pand (pd : BitVec 3) (pa : BitVec 3) (pb : BitVec 3) (k : Tok) : Statement (.pand pd pa pb k) := by
  intro st hw hs
  cases st
  · exact absurd hs Bool.false_ne_true
  · exact absurd hs Bool.false_ne_true
  · refine decode_of ?_ hw hs
    change layoutA (encPR pd pa pb 0#3 k) = _
    unfold layoutA majorOf
    rw [PR_26_6]
    change decodePR _ = _
    unfold decodePR
    rw [PR_5_3]
    change whenZ _ (Instr.pand _ _ _ _) = _
    simp only [zeroAt, tokOf, PR_23_3, PR_20_3, PR_17_3, PR_14_3, PR_11_3, PR_8_3, PR_4_1, PR_2_2, PR_0_2]
    rfl
  · exact absurd hs Bool.false_ne_true
theorem por (pd : BitVec 3) (pa : BitVec 3) (pb : BitVec 3) (k : Tok) : Statement (.por pd pa pb k) := by
  intro st hw hs
  cases st
  · exact absurd hs Bool.false_ne_true
  · exact absurd hs Bool.false_ne_true
  · refine decode_of ?_ hw hs
    change layoutA (encPR pd pa pb 1#3 k) = _
    unfold layoutA majorOf
    rw [PR_26_6]
    change decodePR _ = _
    unfold decodePR
    rw [PR_5_3]
    change whenZ _ (Instr.por _ _ _ _) = _
    simp only [zeroAt, tokOf, PR_23_3, PR_20_3, PR_17_3, PR_14_3, PR_11_3, PR_8_3, PR_4_1, PR_2_2, PR_0_2]
    rfl
  · exact absurd hs Bool.false_ne_true
theorem pxor (pd : BitVec 3) (pa : BitVec 3) (pb : BitVec 3) (k : Tok) : Statement (.pxor pd pa pb k) := by
  intro st hw hs
  cases st
  · exact absurd hs Bool.false_ne_true
  · exact absurd hs Bool.false_ne_true
  · refine decode_of ?_ hw hs
    change layoutA (encPR pd pa pb 2#3 k) = _
    unfold layoutA majorOf
    rw [PR_26_6]
    change decodePR _ = _
    unfold decodePR
    rw [PR_5_3]
    change whenZ _ (Instr.pxor _ _ _ _) = _
    simp only [zeroAt, tokOf, PR_23_3, PR_20_3, PR_17_3, PR_14_3, PR_11_3, PR_8_3, PR_4_1, PR_2_2, PR_0_2]
    rfl
  · exact absurd hs Bool.false_ne_true
theorem pnot (pd : BitVec 3) (pa : BitVec 3) (k : Tok) : Statement (.pnot pd pa k) := by
  intro st hw hs
  cases st
  · exact absurd hs Bool.false_ne_true
  · exact absurd hs Bool.false_ne_true
  · refine decode_of ?_ hw hs
    change layoutA (encPR pd pa 0#3 3#3 k) = _
    unfold layoutA majorOf
    rw [PR_26_6]
    change decodePR _ = _
    unfold decodePR
    rw [PR_5_3]
    change whenZ _ (Instr.pnot _ _ _) = _
    simp only [zeroAt, tokOf, PR_23_3, PR_20_3, PR_17_3, PR_14_3, PR_4_1, PR_2_2, PR_0_2, PR_8_6]
    rfl
  · exact absurd hs Bool.false_ne_true
theorem pcnt (vd : BitVec 6) (pa : BitVec 3) (k : Tok) : Statement (.pcnt vd pa k) := by
  intro st hw hs
  have hv : (encode (.pcnt vd pa k)).toNat =
      45 * 2 ^ 26 + vd.toNat * 2 ^ 20 + pa.toNat * 2 ^ 17 + 4 * 2 ^ 5 +
        k.pop.toNat * 2 ^ 2 + k.push.toNat := by
    change (0x2D#6 ++ vd ++ pa ++ 0#9 ++ 4#3 ++ 0#1 ++ k.pop ++ k.push).toNat = _
    rw [app_toNat, app_toNat, app_toNat, app_toNat, app_toNat, app_toNat, app_toNat]
    simp only [BitVec.toNat_ofNat]
    omega
  generalize encode (.pcnt vd pa k) = w at hv ⊢
  have f26_6 : fld w 26 6 = 45#6 := fld_of (by simp only [BitVec.toNat_ofNat]; omega)
  have f5_3 : fld w 5 3 = 4#3 := fld_of (by simp only [BitVec.toNat_ofNat]; omega)
  have f14_3 : fld w 14 3 = 0#3 := fld_of (by simp only [BitVec.toNat_ofNat]; omega)
  have f8_6 : fld w 8 6 = 0#6 := fld_of (by simp only [BitVec.toNat_ofNat]; omega)
  have f4_1 : fld w 4 1 = 0#1 := fld_of (by simp only [BitVec.toNat_ofNat]; omega)
  have f20_6 : fld w 20 6 = vd := fld_of (by omega)
  have f17_3 : fld w 17 3 = pa := fld_of (by omega)
  have f2_2 : fld w 2 2 = k.pop := fld_of (by omega)
  have f0_2 : fld w 0 2 = k.push := fld_of (by omega)
  cases st
  · exact absurd hs Bool.false_ne_true
  · exact absurd hs Bool.false_ne_true
  · refine decode_of ?_ hw hs
    change layoutA w = _
    unfold layoutA majorOf
    rw [f26_6]
    change decodePR _ = _
    unfold decodePR
    rw [f5_3]
    change whenZ _ (Instr.pcnt _ _ _) = _
    simp only [zeroAt, tokOf, f14_3, f8_6, f4_1, f20_6, f17_3, f2_2, f0_2]
    rfl
  · exact absurd hs Bool.false_ne_true
theorem pfirst (pd : BitVec 3) (pa : BitVec 3) (k : Tok) : Statement (.pfirst pd pa k) := by
  intro st hw hs
  cases st
  · exact absurd hs Bool.false_ne_true
  · exact absurd hs Bool.false_ne_true
  · refine decode_of ?_ hw hs
    change layoutA (encPR pd pa 0#3 5#3 k) = _
    unfold layoutA majorOf
    rw [PR_26_6]
    change decodePR _ = _
    unfold decodePR
    rw [PR_5_3]
    change whenZ _ (Instr.pfirst _ _ _) = _
    simp only [zeroAt, tokOf, PR_23_3, PR_20_3, PR_17_3, PR_14_3, PR_4_1, PR_2_2, PR_0_2, PR_8_6]
    rfl
  · exact absurd hs Bool.false_ne_true
theorem pset (pd : BitVec 3) (n : BitVec 6) (k : Tok) : Statement (.pset pd n k) := by
  intro st hw hs
  have hv : (encode (.pset pd n k)).toNat =
      45 * 2 ^ 26 + pd.toNat * 2 ^ 23 + n.toNat * 2 ^ 8 + 6 * 2 ^ 5 +
        k.pop.toNat * 2 ^ 2 + k.push.toNat := by
    change (0x2D#6 ++ pd ++ 0#9 ++ n ++ 6#3 ++ 0#1 ++ k.pop ++ k.push).toNat = _
    rw [app_toNat, app_toNat, app_toNat, app_toNat, app_toNat, app_toNat, app_toNat]
    simp only [BitVec.toNat_ofNat]
    omega
  generalize encode (.pset pd n k) = w at hv ⊢
  have f26_6 : fld w 26 6 = 45#6 := fld_of (by simp only [BitVec.toNat_ofNat]; omega)
  have f5_3 : fld w 5 3 = 6#3 := fld_of (by simp only [BitVec.toNat_ofNat]; omega)
  have f20_3 : fld w 20 3 = 0#3 := fld_of (by simp only [BitVec.toNat_ofNat]; omega)
  have f14_6 : fld w 14 6 = 0#6 := fld_of (by simp only [BitVec.toNat_ofNat]; omega)
  have f4_1 : fld w 4 1 = 0#1 := fld_of (by simp only [BitVec.toNat_ofNat]; omega)
  have f23_3 : fld w 23 3 = pd := fld_of (by omega)
  have f8_6 : fld w 8 6 = n := fld_of (by omega)
  have f2_2 : fld w 2 2 = k.pop := fld_of (by omega)
  have f0_2 : fld w 0 2 = k.push := fld_of (by omega)
  cases st
  · exact absurd hs Bool.false_ne_true
  · exact absurd hs Bool.false_ne_true
  · refine decode_of ?_ hw hs
    change layoutA w = _
    unfold layoutA majorOf
    rw [f26_6]
    change decodePR _ = _
    unfold decodePR
    rw [f5_3]
    change whenZ _ (Instr.pset _ _ _) = _
    simp only [zeroAt, tokOf, f20_3, f14_6, f4_1, f23_3, f8_6, f2_2, f0_2]
    rfl
  · exact absurd hs Bool.false_ne_true
theorem vcmpjAny (j : BitVec 2) (pa : BitVec 3) (k : Tok) : Statement (.vcmpjAny j pa k) := by
  intro st hw hs
  cases st
  · exact absurd hs Bool.false_ne_true
  · exact absurd hs Bool.false_ne_true
  · refine decode_of ?_ hw hs
    change layoutA (encVJ j 0#1 pa k) = _
    unfold layoutA majorOf
    rw [VJ_26_6]
    simp only [zeroAt, tokOf, VJ_24_2, VJ_23_1, VJ_20_3, VJ_17_3, VJ_4_13, VJ_2_2, VJ_0_2]
    rfl
  · exact absurd hs Bool.false_ne_true
theorem vcmpjAll (j : BitVec 2) (pa : BitVec 3) (k : Tok) : Statement (.vcmpjAll j pa k) := by
  intro st hw hs
  cases st
  · exact absurd hs Bool.false_ne_true
  · exact absurd hs Bool.false_ne_true
  · refine decode_of ?_ hw hs
    change layoutA (encVJ j 1#1 pa k) = _
    unfold layoutA majorOf
    rw [VJ_26_6]
    simp only [zeroAt, tokOf, VJ_24_2, VJ_23_1, VJ_20_3, VJ_17_3, VJ_4_13, VJ_2_2, VJ_0_2]
    rfl
  · exact absurd hs Bool.false_ne_true
theorem vtype (fmt : BitVec 5) (rm : BitVec 3) (k : Tok) : Statement (.vtype fmt rm k) := by
  intro st hw hs
  have hv : (encode (.vtype fmt rm k)).toNat =
      47 * 2 ^ 26 + fmt.toNat * 2 ^ 21 + rm.toNat * 2 ^ 18 + k.pop.toNat * 2 ^ 2 +
        k.push.toNat := by
    change (0x2F#6 ++ fmt ++ rm ++ 0#14 ++ k.pop ++ k.push).toNat = _
    rw [app_toNat, app_toNat, app_toNat, app_toNat, app_toNat]
    simp only [BitVec.toNat_ofNat]
    omega
  generalize encode (.vtype fmt rm k) = w at hv ⊢
  have f26_6 : fld w 26 6 = 47#6 := fld_of (by simp only [BitVec.toNat_ofNat]; omega)
  have f4_14 : fld w 4 14 = 0#14 := fld_of (by simp only [BitVec.toNat_ofNat]; omega)
  have f21_5 : fld w 21 5 = fmt := fld_of (by omega)
  have f18_3 : fld w 18 3 = rm := fld_of (by omega)
  have f2_2 : fld w 2 2 = k.pop := fld_of (by omega)
  have f0_2 : fld w 0 2 = k.push := fld_of (by omega)
  cases st
  · exact absurd hs Bool.false_ne_true
  · exact absurd hs Bool.false_ne_true
  · refine decode_of ?_ hw hs
    change layoutA w = _
    unfold layoutA majorOf
    rw [f26_6]
    change whenZ _ (Instr.vtype _ _ _) = _
    simp only [zeroAt, tokOf, f4_14, f21_5, f18_3, f2_2, f0_2]
    rfl
  · exact absurd hs Bool.false_ne_true
theorem mcfg (fa : BitVec 5) (fb : BitVec 5) (k : Tok) : Statement (.mcfg fa fb k) := by
  intro st hw hs
  have hv : (encode (.mcfg fa fb k)).toNat =
      48 * 2 ^ 26 + fa.toNat * 2 ^ 20 + fb.toNat * 2 ^ 14 + k.pop.toNat * 2 ^ 2 +
        k.push.toNat := by
    change (encMX (0#1 ++ fa) (0#1 ++ fb) 0#6 k).toNat = _
    rw [MX_toNat, app_toNat, app_toNat]
    simp only [BitVec.toNat_ofNat]
    omega
  generalize encode (.mcfg fa fb k) = w at hv ⊢
  have f26_6 : fld w 26 6 = 48#6 := fld_of (by simp only [BitVec.toNat_ofNat]; omega)
  have f8_6 : fld w 8 6 = 0#6 := fld_of (by simp only [BitVec.toNat_ofNat]; omega)
  have f4_4 : fld w 4 4 = 0#4 := fld_of (by simp only [BitVec.toNat_ofNat]; omega)
  have f25_1 : fld w 25 1 = 0#1 := fld_of (by simp only [BitVec.toNat_ofNat]; omega)
  have f19_1 : fld w 19 1 = 0#1 := fld_of (by simp only [BitVec.toNat_ofNat]; omega)
  have f20_5 : fld w 20 5 = fa := fld_of (by omega)
  have f14_5 : fld w 14 5 = fb := fld_of (by omega)
  have f2_2 : fld w 2 2 = k.pop := fld_of (by omega)
  have f0_2 : fld w 0 2 = k.push := fld_of (by omega)
  cases st
  · exact absurd hs Bool.false_ne_true
  · exact absurd hs Bool.false_ne_true
  · refine decode_of ?_ hw hs
    change layoutA w = _
    unfold layoutA majorOf
    rw [f26_6]
    change decodeMX _ = _
    unfold decodeMX
    rw [f8_6]
    change whenZ _ (Instr.mcfg _ _ _) = _
    simp only [zeroAt, tokOf, f4_4, f25_1, f19_1, f20_5, f14_5, f2_2, f0_2]
    rfl
  · exact absurd hs Bool.false_ne_true
theorem mzero (m : BitVec 1) (k : Tok) : Statement (.mzero m k) := by
  intro st hw hs
  have hv : (encode (.mzero m k)).toNat =
      48 * 2 ^ 26 + m.toNat * 2 ^ 20 + 1 * 2 ^ 8 + k.pop.toNat * 2 ^ 2 +
        k.push.toNat := by
    change (encMX (0#5 ++ m) 0#6 1#6 k).toNat = _
    rw [MX_toNat, app_toNat]
    simp only [BitVec.toNat_ofNat]
    omega
  generalize encode (.mzero m k) = w at hv ⊢
  have f26_6 : fld w 26 6 = 48#6 := fld_of (by simp only [BitVec.toNat_ofNat]; omega)
  have f8_6 : fld w 8 6 = 1#6 := fld_of (by simp only [BitVec.toNat_ofNat]; omega)
  have f4_4 : fld w 4 4 = 0#4 := fld_of (by simp only [BitVec.toNat_ofNat]; omega)
  have f21_5 : fld w 21 5 = 0#5 := fld_of (by simp only [BitVec.toNat_ofNat]; omega)
  have f14_6 : fld w 14 6 = 0#6 := fld_of (by simp only [BitVec.toNat_ofNat]; omega)
  have f20_1 : fld w 20 1 = m := fld_of (by omega)
  have f2_2 : fld w 2 2 = k.pop := fld_of (by omega)
  have f0_2 : fld w 0 2 = k.push := fld_of (by omega)
  cases st
  · exact absurd hs Bool.false_ne_true
  · exact absurd hs Bool.false_ne_true
  · refine decode_of ?_ hw hs
    change layoutA w = _
    unfold layoutA majorOf
    rw [f26_6]
    change decodeMX _ = _
    unfold decodeMX
    rw [f8_6]
    change whenZ _ (Instr.mzero _ _) = _
    simp only [zeroAt, tokOf, f4_4, f21_5, f14_6, f20_1, f2_2, f0_2]
    rfl
  · exact absurd hs Bool.false_ne_true
theorem mwl (k : Tok) : Statement (.mwl k) := by
  intro st hw hs
  cases st
  · exact absurd hs Bool.false_ne_true
  · exact absurd hs Bool.false_ne_true
  · refine decode_of ?_ hw hs
    change layoutA (encMX 0#6 0#6 2#6 k) = _
    unfold layoutA majorOf
    rw [MX_26_6]
    change decodeMX _ = _
    unfold decodeMX
    rw [MX_8_6]
    change whenZ _ (Instr.mwl _) = _
    simp only [zeroAt, tokOf, MX_14_6, MX_4_4, MX_2_2, MX_0_2, MX_21_5, MX_20_1]
    rfl
  · exact absurd hs Bool.false_ne_true
theorem mswap (k : Tok) : Statement (.mswap k) := by
  intro st hw hs
  cases st
  · exact absurd hs Bool.false_ne_true
  · exact absurd hs Bool.false_ne_true
  · refine decode_of ?_ hw hs
    change layoutA (encMX 0#6 0#6 3#6 k) = _
    unfold layoutA majorOf
    rw [MX_26_6]
    change decodeMX _ = _
    unfold decodeMX
    rw [MX_8_6]
    change whenZ _ (Instr.mswap _) = _
    simp only [zeroAt, tokOf, MX_14_6, MX_4_4, MX_2_2, MX_0_2, MX_21_5, MX_20_1]
    rfl
  · exact absurd hs Bool.false_ne_true
theorem mma (m : BitVec 1) (k : Tok) : Statement (.mma m k) := by
  intro st hw hs
  have hv : (encode (.mma m k)).toNat =
      48 * 2 ^ 26 + m.toNat * 2 ^ 20 + 4 * 2 ^ 8 + k.pop.toNat * 2 ^ 2 +
        k.push.toNat := by
    change (encMX (0#5 ++ m) 0#6 4#6 k).toNat = _
    rw [MX_toNat, app_toNat]
    simp only [BitVec.toNat_ofNat]
    omega
  generalize encode (.mma m k) = w at hv ⊢
  have f26_6 : fld w 26 6 = 48#6 := fld_of (by simp only [BitVec.toNat_ofNat]; omega)
  have f8_6 : fld w 8 6 = 4#6 := fld_of (by simp only [BitVec.toNat_ofNat]; omega)
  have f4_4 : fld w 4 4 = 0#4 := fld_of (by simp only [BitVec.toNat_ofNat]; omega)
  have f21_5 : fld w 21 5 = 0#5 := fld_of (by simp only [BitVec.toNat_ofNat]; omega)
  have f14_6 : fld w 14 6 = 0#6 := fld_of (by simp only [BitVec.toNat_ofNat]; omega)
  have f20_1 : fld w 20 1 = m := fld_of (by omega)
  have f2_2 : fld w 2 2 = k.pop := fld_of (by omega)
  have f0_2 : fld w 0 2 = k.push := fld_of (by omega)
  cases st
  · exact absurd hs Bool.false_ne_true
  · exact absurd hs Bool.false_ne_true
  · refine decode_of ?_ hw hs
    change layoutA w = _
    unfold layoutA majorOf
    rw [f26_6]
    change decodeMX _ = _
    unfold decodeMX
    rw [f8_6]
    change whenZ _ (Instr.mma _ _) = _
    simp only [zeroAt, tokOf, f4_4, f21_5, f14_6, f20_1, f2_2, f0_2]
    rfl
  · exact absurd hs Bool.false_ne_true
theorem mmas (m : BitVec 1) (k : Tok) : Statement (.mmas m k) := by
  intro st hw hs
  have hv : (encode (.mmas m k)).toNat =
      48 * 2 ^ 26 + m.toNat * 2 ^ 20 + 5 * 2 ^ 8 + k.pop.toNat * 2 ^ 2 +
        k.push.toNat := by
    change (encMX (0#5 ++ m) 0#6 5#6 k).toNat = _
    rw [MX_toNat, app_toNat]
    simp only [BitVec.toNat_ofNat]
    omega
  generalize encode (.mmas m k) = w at hv ⊢
  have f26_6 : fld w 26 6 = 48#6 := fld_of (by simp only [BitVec.toNat_ofNat]; omega)
  have f8_6 : fld w 8 6 = 5#6 := fld_of (by simp only [BitVec.toNat_ofNat]; omega)
  have f4_4 : fld w 4 4 = 0#4 := fld_of (by simp only [BitVec.toNat_ofNat]; omega)
  have f21_5 : fld w 21 5 = 0#5 := fld_of (by simp only [BitVec.toNat_ofNat]; omega)
  have f14_6 : fld w 14 6 = 0#6 := fld_of (by simp only [BitVec.toNat_ofNat]; omega)
  have f20_1 : fld w 20 1 = m := fld_of (by omega)
  have f2_2 : fld w 2 2 = k.pop := fld_of (by omega)
  have f0_2 : fld w 0 2 = k.push := fld_of (by omega)
  cases st
  · exact absurd hs Bool.false_ne_true
  · exact absurd hs Bool.false_ne_true
  · refine decode_of ?_ hw hs
    change layoutA w = _
    unfold layoutA majorOf
    rw [f26_6]
    change decodeMX _ = _
    unfold decodeMX
    rw [f8_6]
    change whenZ _ (Instr.mmas _ _) = _
    simp only [zeroAt, tokOf, f4_4, f21_5, f14_6, f20_1, f2_2, f0_2]
    rfl
  · exact absurd hs Bool.false_ne_true
theorem rep (count : BitVec 7) (sd : BitVec 2) (sa : BitVec 2) (sb : BitVec 2) : Statement (.rep count sd sa sb) := by
  intro st hw hs
  have hv : (encode (.rep count sd sa sb)).toNat =
      49 * 2 ^ 26 + count.toNat * 2 ^ 19 + sd.toNat * 2 ^ 17 + sa.toNat * 2 ^ 15 +
        sb.toNat * 2 ^ 13 := by
    change (0x31#6 ++ count ++ sd ++ sa ++ sb ++ 0#13).toNat = _
    rw [app_toNat, app_toNat, app_toNat, app_toNat, app_toNat]
    simp only [BitVec.toNat_ofNat]
    omega
  generalize encode (.rep count sd sa sb) = w at hv ⊢
  have f26_6 : fld w 26 6 = 49#6 := fld_of (by simp only [BitVec.toNat_ofNat]; omega)
  have f0_13 : fld w 0 13 = 0#13 := fld_of (by simp only [BitVec.toNat_ofNat]; omega)
  have f19_7 : fld w 19 7 = count := fld_of (by omega)
  have f17_2 : fld w 17 2 = sd := fld_of (by omega)
  have f15_2 : fld w 15 2 = sa := fld_of (by omega)
  have f13_2 : fld w 13 2 = sb := fld_of (by omega)
  cases st
  · exact absurd hs Bool.false_ne_true
  · exact absurd hs Bool.false_ne_true
  · refine decode_of ?_ hw hs
    change layoutA w = _
    unfold layoutA majorOf
    rw [f26_6]
    change whenZ _ (Instr.rep _ _ _ _) = _
    simp only [zeroAt, f0_13, f19_7, f17_2, f15_2, f13_2]
    rfl
  · exact absurd hs Bool.false_ne_true
theorem divideComplete : Statement .divideComplete := fun _ h _ => absurd h Bool.false_ne_true
theorem prefetchComplete : Statement .prefetchComplete := fun _ h _ => absurd h Bool.false_ne_true
theorem steerDelivery : Statement .steerDelivery := fun _ h _ => absurd h Bool.false_ne_true
theorem tokenStall : Statement .tokenStall := fun _ h _ => absurd h Bool.false_ne_true
theorem gsyncWaitLimit : Statement .gsyncWaitLimit := fun _ h _ => absurd h Bool.false_ne_true
theorem objectWaitLimit : Statement .objectWaitLimit := fun _ h _ => absurd h Bool.false_ne_true
theorem hubNotification : Statement .hubNotification := fun _ h _ => absurd h Bool.false_ne_true
theorem walkEnd : Statement .walkEnd := fun _ h _ => absurd h Bool.false_ne_true
theorem faultcmdRetry : Statement .faultcmdRetry := fun _ h _ => absurd h Bool.false_ne_true
theorem faultcmdAbsent : Statement .faultcmdAbsent := fun _ h _ => absurd h Bool.false_ne_true
theorem poolFillEnd : Statement .poolFillEnd := fun _ h _ => absurd h Bool.false_ne_true
theorem poolDrainEnd : Statement .poolDrainEnd := fun _ h _ => absurd h Bool.false_ne_true
theorem poolAgeTick : Statement .poolAgeTick := fun _ h _ => absurd h Bool.false_ne_true
theorem ckwaitWaitLimit : Statement .ckwaitWaitLimit := fun _ h _ => absurd h Bool.false_ne_true
theorem fenceComplete : Statement .fenceComplete := fun _ h _ => absurd h Bool.false_ne_true
theorem slotmapTakesEffect : Statement .slotmapTakesEffect := fun _ h _ => absurd h Bool.false_ne_true
theorem scaleQueueFullLimit : Statement .scaleQueueFullLimit := fun _ h _ => absurd h Bool.false_ne_true
theorem markStallLimit : Statement .markStallLimit := fun _ h _ => absurd h Bool.false_ne_true
theorem waitaWaitLimit : Statement .waitaWaitLimit := fun _ h _ => absurd h Bool.false_ne_true
theorem lfenceComplete : Statement .lfenceComplete := fun _ h _ => absurd h Bool.false_ne_true
theorem readDataReturn : Statement .readDataReturn := fun _ h _ => absurd h Bool.false_ne_true
theorem storeVisible : Statement .storeVisible := fun _ h _ => absurd h Bool.false_ne_true
theorem meshArrival : Statement .meshArrival := fun _ h _ => absurd h Bool.false_ne_true
theorem writeBufferDrain : Statement .writeBufferDrain := fun _ h _ => absurd h Bool.false_ne_true
theorem correctedWriteBack : Statement .correctedWriteBack := fun _ h _ => absurd h Bool.false_ne_true
theorem scrub : Statement .scrub := fun _ h _ => absurd h Bool.false_ne_true
theorem laneRetirement : Statement .laneRetirement := fun _ h _ => absurd h Bool.false_ne_true
theorem bankMarkedFailed : Statement .bankMarkedFailed := fun _ h _ => absurd h Bool.false_ne_true
theorem rebuildComplete : Statement .rebuildComplete := fun _ h _ => absurd h Bool.false_ne_true
theorem recoveryPoint : Statement .recoveryPoint := fun _ h _ => absurd h Bool.false_ne_true
theorem shortScaleQueueLimit : Statement .shortScaleQueueLimit := fun _ h _ => absurd h Bool.false_ne_true
theorem mwlLoaded : Statement .mwlLoaded := fun _ h _ => absurd h Bool.false_ne_true
theorem mswapEffect : Statement .mswapEffect := fun _ h _ => absurd h Bool.false_ne_true
theorem mmaWrite : Statement .mmaWrite := fun _ h _ => absurd h Bool.false_ne_true
theorem repRepetition : Statement .repRepetition := fun _ h _ => absurd h Bool.false_ne_true
theorem aStreamWrite : Statement .aStreamWrite := fun _ h _ => absurd h Bool.false_ne_true
theorem transientWindowEnd : Statement .transientWindowEnd := fun _ h _ => absurd h Bool.false_ne_true
theorem engineAccept : Statement .engineAccept := fun _ h _ => absurd h Bool.false_ne_true
theorem engineItemStart : Statement .engineItemStart := fun _ h _ => absurd h Bool.false_ne_true
theorem engineItemWaitLimit : Statement .engineItemWaitLimit := fun _ h _ => absurd h Bool.false_ne_true
theorem copyComplete : Statement .copyComplete := fun _ h _ => absurd h Bool.false_ne_true
theorem cpymFollowOnMwl : Statement .cpymFollowOnMwl := fun _ h _ => absurd h Bool.false_ne_true
theorem strmComplete : Statement .strmComplete := fun _ h _ => absurd h Bool.false_ne_true
theorem fireflySweepComplete : Statement .fireflySweepComplete := fun _ h _ => absurd h Bool.false_ne_true
theorem scarabDecode : Statement .scarabDecode := fun _ h _ => absurd h Bool.false_ne_true
theorem nvmeItemComplete : Statement .nvmeItemComplete := fun _ h _ => absurd h Bool.false_ne_true
theorem nvmeCommandTimeout : Statement .nvmeCommandTimeout := fun _ h _ => absurd h Bool.false_ne_true
theorem downstreamPortContainment : Statement .downstreamPortContainment := fun _ h _ => absurd h Bool.false_ne_true
theorem credComplete : Statement .credComplete := fun _ h _ => absurd h Bool.false_ne_true
theorem credWaitLimit : Statement .credWaitLimit := fun _ h _ => absurd h Bool.false_ne_true
theorem tailKick : Statement .tailKick := fun _ h _ => absurd h Bool.false_ne_true
theorem replayKick : Statement .replayKick := fun _ h _ => absurd h Bool.false_ne_true
theorem replayAccept : Statement .replayAccept := fun _ h _ => absurd h Bool.false_ne_true
theorem cardAccept : Statement .cardAccept := fun _ h _ => absurd h Bool.false_ne_true
theorem queueEnable : Statement .queueEnable := fun _ h _ => absurd h Bool.false_ne_true
theorem queueDrain : Statement .queueDrain := fun _ h _ => absurd h Bool.false_ne_true
theorem queueHalt : Statement .queueHalt := fun _ h _ => absurd h Bool.false_ne_true
theorem queueResume : Statement .queueResume := fun _ h _ => absurd h Bool.false_ne_true
theorem queueSkip : Statement .queueSkip := fun _ h _ => absurd h Bool.false_ne_true
theorem queueDisable : Statement .queueDisable := fun _ h _ => absurd h Bool.false_ne_true
theorem graphLoad : Statement .graphLoad := fun _ h _ => absurd h Bool.false_ne_true
theorem graphUnload : Statement .graphUnload := fun _ h _ => absurd h Bool.false_ne_true
theorem decisionRound : Statement .decisionRound := fun _ h _ => absurd h Bool.false_ne_true
theorem taskAged : Statement .taskAged := fun _ h _ => absurd h Bool.false_ne_true
theorem stallWireRelease : Statement .stallWireRelease := fun _ h _ => absurd h Bool.false_ne_true
theorem safePointRendezvous : Statement .safePointRendezvous := fun _ h _ => absurd h Bool.false_ne_true
theorem rendezvousTimeout : Statement .rendezvousTimeout := fun _ h _ => absurd h Bool.false_ne_true
theorem corecmdReturn : Statement .corecmdReturn := fun _ h _ => absurd h Bool.false_ne_true
theorem corecmdRemove : Statement .corecmdRemove := fun _ h _ => absurd h Bool.false_ne_true
theorem scanStart : Statement .scanStart := fun _ h _ => absurd h Bool.false_ne_true
theorem scanDrainTimeout : Statement .scanDrainTimeout := fun _ h _ => absurd h Bool.false_ne_true
theorem scanEnd : Statement .scanEnd := fun _ h _ => absurd h Bool.false_ne_true
theorem trapcmdResume : Statement .trapcmdResume := fun _ h _ => absurd h Bool.false_ne_true
theorem trapcmdHandler : Statement .trapcmdHandler := fun _ h _ => absurd h Bool.false_ne_true
theorem trapcmdKill : Statement .trapcmdKill := fun _ h _ => absurd h Bool.false_ne_true
theorem trapcmdRollback : Statement .trapcmdRollback := fun _ h _ => absurd h Bool.false_ne_true
theorem ctxcmdCreate : Statement .ctxcmdCreate := fun _ h _ => absurd h Bool.false_ne_true
theorem ctxcmdLoad : Statement .ctxcmdLoad := fun _ h _ => absurd h Bool.false_ne_true
theorem ctxcmdStart : Statement .ctxcmdStart := fun _ h _ => absurd h Bool.false_ne_true
theorem ctxcmdFreeze : Statement .ctxcmdFreeze := fun _ h _ => absurd h Bool.false_ne_true
theorem ctxcmdUnfreeze : Statement .ctxcmdUnfreeze := fun _ h _ => absurd h Bool.false_ne_true
theorem ctxcmdKill : Statement .ctxcmdKill := fun _ h _ => absurd h Bool.false_ne_true
theorem ctxcmdRollback : Statement .ctxcmdRollback := fun _ h _ => absurd h Bool.false_ne_true
theorem ctxcmdDestroy : Statement .ctxcmdDestroy := fun _ h _ => absurd h Bool.false_ne_true
theorem saveDrainLimit : Statement .saveDrainLimit := fun _ h _ => absurd h Bool.false_ne_true
theorem ownerRequest : Statement .ownerRequest := fun _ h _ => absurd h Bool.false_ne_true
theorem ownerOpen : Statement .ownerOpen := fun _ h _ => absurd h Bool.false_ne_true
theorem ownerClose : Statement .ownerClose := fun _ h _ => absurd h Bool.false_ne_true
theorem ownerSessionExpiry : Statement .ownerSessionExpiry := fun _ h _ => absurd h Bool.false_ne_true
theorem requesterAnswer : Statement .requesterAnswer := fun _ h _ => absurd h Bool.false_ne_true
theorem retransmitTimeout : Statement .retransmitTimeout := fun _ h _ => absurd h Bool.false_ne_true
theorem busyLimit : Statement .busyLimit := fun _ h _ => absurd h Bool.false_ne_true
theorem heartbeat : Statement .heartbeat := fun _ h _ => absurd h Bool.false_ne_true
theorem sessionSettle : Statement .sessionSettle := fun _ h _ => absurd h Bool.false_ne_true
theorem packetExpiry : Statement .packetExpiry := fun _ h _ => absurd h Bool.false_ne_true
theorem idpop : Statement .idpop := fun _ h _ => absurd h Bool.false_ne_true
theorem gangPrepare : Statement .gangPrepare := fun _ h _ => absurd h Bool.false_ne_true
theorem gangCommit : Statement .gangCommit := fun _ h _ => absurd h Bool.false_ne_true
theorem gangAbort : Statement .gangAbort := fun _ h _ => absurd h Bool.false_ne_true
theorem gangGo : Statement .gangGo := fun _ h _ => absurd h Bool.false_ne_true
theorem gangHoldExpiry : Statement .gangHoldExpiry := fun _ h _ => absurd h Bool.false_ne_true
theorem gangWatchdogExpiry : Statement .gangWatchdogExpiry := fun _ h _ => absurd h Bool.false_ne_true
theorem keyinst : Statement .keyinst := fun _ h _ => absurd h Bool.false_ne_true
theorem keydel : Statement .keydel := fun _ h _ => absurd h Bool.false_ne_true
theorem fwstage : Statement .fwstage := fun _ h _ => absurd h Bool.false_ne_true
theorem setlim : Statement .setlim := fun _ h _ => absurd h Bool.false_ne_true
theorem mboxReset : Statement .mboxReset := fun _ h _ => absurd h Bool.false_ne_true
theorem budgetPeriod : Statement .budgetPeriod := fun _ h _ => absurd h Bool.false_ne_true
theorem moduleReset : Statement .moduleReset := fun _ h _ => absurd h Bool.false_ne_true
theorem uncontainedError : Statement .uncontainedError := fun _ h _ => absurd h Bool.false_ne_true
theorem hostMemRead : Statement .hostMemRead := fun _ h _ => absurd h Bool.false_ne_true
theorem hostMemWrite : Statement .hostMemWrite := fun _ h _ => absurd h Bool.false_ne_true
theorem bar0UnsupportedRequest : Statement .bar0UnsupportedRequest := fun _ h _ => absurd h Bool.false_ne_true
theorem getVersion : Statement .getVersion := fun _ h _ => absurd h Bool.false_ne_true
theorem getCapabilities : Statement .getCapabilities := fun _ h _ => absurd h Bool.false_ne_true
theorem negotiateAlgorithms : Statement .negotiateAlgorithms := fun _ h _ => absurd h Bool.false_ne_true
theorem getDigests : Statement .getDigests := fun _ h _ => absurd h Bool.false_ne_true
theorem getCertificate : Statement .getCertificate := fun _ h _ => absurd h Bool.false_ne_true
theorem challenge : Statement .challenge := fun _ h _ => absurd h Bool.false_ne_true
theorem getMeasurements : Statement .getMeasurements := fun _ h _ => absurd h Bool.false_ne_true
theorem spdmUnsupported : Statement .spdmUnsupported := fun _ h _ => absurd h Bool.false_ne_true
theorem registerWrite : Statement .registerWrite := fun _ h _ => absurd h Bool.false_ne_true
theorem illegalOp : Statement .illegalOp := fun _ h _ => absurd h Bool.false_ne_true
theorem serialCapStallLimit : Statement .serialCapStallLimit := fun _ h _ => absurd h Bool.false_ne_true
theorem watermarkReceipt : Statement .watermarkReceipt := fun _ h _ => absurd h Bool.false_ne_true
theorem kinvComplete : Statement .kinvComplete := fun _ h _ => absurd h Bool.false_ne_true
theorem nvmePortRetrained : Statement .nvmePortRetrained := fun _ h _ => absurd h Bool.false_ne_true
theorem dieTemperatureChange : Statement .dieTemperatureChange := fun _ h _ => absurd h Bool.false_ne_true
theorem gscAdvance : Statement .gscAdvance := fun _ h _ => absurd h Bool.false_ne_true

end Sys2Proof.Laws.RoundTrip
end

