-- ==== Sys2Proof/Laws/State.lean ====
section
/-! SUPPORT. The small lemmas of tables, vectors and the state's named updates: what a lookup finds after an update, and that an
update of one field leaves each other field alone. -/

namespace Sys2Proof.Machine

/-! ### Tables -/

@[simp] theorem look_put_same {α : Type} (k : Nat) (v : α) (l : List (Nat × α)) : look k (put k v l) = some v := by
  induction l with
  | nil => simp [put, look]
  | cons e t ih =>
    obtain ⟨i, u⟩ := e
    unfold put
    split
    · simp [look]
    · split
      · simp [look]
      · rename_i h1 h2
        simp only [look]
        rw [if_neg (by omega), ih]

@[simp] theorem look_put_ne {α : Type} {k n : Nat} (v : α) (l : List (Nat × α)) (h : n ≠ k) :
    look n (put k v l) = look n l := by
  induction l with
  | nil => simp [put, look, Ne.symm h]
  | cons e t ih =>
    obtain ⟨i, u⟩ := e
    unfold put
    split
    · simp [look, Ne.symm h]
    · split
      · rename_i h1 h2
        subst h2
        simp [look, Ne.symm h]
      · simp [look, ih]

theorem look_put {α : Type} (k n : Nat) (v : α) (l : List (Nat × α)) :
    look n (put k v l) = if n = k then some v else look n l := by
  split
  · subst n; simp
  · exact look_put_ne v l ‹_›

theorem look_drop {α : Type} (k n : Nat) (l : List (Nat × α)) : look n (drop k l) = if n = k then none else look n l := by
  induction l with
  | nil => simp [drop, look]
  | cons e t ih =>
    obtain ⟨i, u⟩ := e
    unfold drop at ih ⊢
    by_cases hi : i = k
    · subst hi
      simp only [List.filter_cons, bne_self_eq_false, Bool.false_eq_true, if_false, ih, look]
      by_cases hn : n = i
      · simp [hn]
      · simp [hn, Ne.symm hn]
    · simp only [List.filter_cons, bne_iff_ne, ne_eq, hi, not_false_eq_true, if_true, look, ih]
      by_cases hn : n = k
      · simp [hn, hi]
      · simp [hn]

/-! ### Vectors -/

@[simp] theorem vget_vset_same {α : Type} {n : Nat} (v : Vector α n) (i : Nat) (x d : α) (h : i < n) :
    vget (vset v i x) i d = x := by
  simp [vget, vset, h]

@[simp] theorem vget_vset_ne {α : Type} {n : Nat} (v : Vector α n) (i j : Nat) (x d : α) (h : j ≠ i) :
    vget (vset v i x) j d = vget v j d := by
  unfold vget vset
  rw [Vector.getElem?_setIfInBounds, if_neg (Ne.symm h)]

theorem Stream.num_lt (st : Stream) : st.num < 4 := by cases st <;> decide

theorem Stream.num_inj {u st : Stream} (h : u.num = st.num) : u = st := by
  cases u <;> cases st <;> first | rfl | exact absurd h (by decide)

/-! ### Cores, registers and sequencers -/

@[simp] theorem core_setCore_same (s : State) (c : Nat) (k : Core) : (s.setCore c k).core c = k := by
  simp [State.core, State.setCore]

@[simp] theorem core_setCore_ne (s : State) {c n : Nat} (k : Core) (h : n ≠ c) : (s.setCore c k).core n = s.core n := by
  simp [State.core, State.setCore, h]

@[simp] theorem core_modCore_same (s : State) (c : Nat) (f : Core → Core) : (s.modCore c f).core c = f (s.core c) :=
  core_setCore_same ..

@[simp] theorem core_modCore_ne (s : State) {c n : Nat} (f : Core → Core) (h : n ≠ c) : (s.modCore c f).core n = s.core n :=
  core_setCore_ne _ _ h

@[simp] theorem ctx_setCtx_same (s : State) (c : Slot) (k : Ctx) : (s.setCtx c k).ctx c = k := by
  simp [State.ctx, State.setCtx]

@[simp] theorem ctx_setCtx_ne (s : State) {c n : Slot} (k : Ctx) (h : n ≠ c) : (s.setCtx c k).ctx n = s.ctx n := by
  have : n.toNat ≠ c.toNat := fun e => h (BitVec.eq_of_toNat_eq e)
  simp [State.ctx, State.setCtx, this]

@[simp] theorem ctx_modCtx_same (s : State) (c : Slot) (f : Ctx → Ctx) : (s.modCtx c f).ctx c = f (s.ctx c) :=
  ctx_setCtx_same ..

@[simp] theorem ctx_modCtx_ne (s : State) {c n : Slot} (f : Ctx → Ctx) (h : n ≠ c) : (s.modCtx c f).ctx n = s.ctx n :=
  ctx_setCtx_ne _ _ h

@[simp] theorem seq_setSeq_same (k : Core) (st : Stream) (q : Seq) : (k.setSeq st q).seq st = q := by
  simp [Core.seq, Core.setSeq, Stream.num_lt]

@[simp] theorem seq_setSeq_ne (k : Core) {st u : Stream} (q : Seq) (h : u ≠ st) : (k.setSeq st q).seq u = k.seq u := by
  have : u.num ≠ st.num := fun e => h (Stream.num_inj e)
  simp [Core.seq, Core.setSeq, this]

/-- Only the sequencer of one stream is written by `setSeq`. -/
theorem setSeq_rest (k : Core) (st : Stream) (q : Seq) : { k.setSeq st q with seqs := k.seqs } = k := rfl

theorem getX_setX (k : Core) (d r : BitVec 5) (v : X64) :
    (k.setX d v).getX r = if r = d ∧ r ≠ 0 then v else k.getX r := by
  by_cases hr : r = 0
  · subst hr
    rw [if_neg fun h => h.2 rfl]
    rfl
  · unfold Core.setX Core.getX
    by_cases hd : d = 0
    · have he : r ≠ d := fun e => hr (e.trans hd)
      rw [if_pos hd, if_neg (show ¬ (r = d ∧ r ≠ 0) from fun h => he h.1)]
    · rw [if_neg hd, if_neg hr, if_neg hr]
      by_cases he : r = d
      · subst he
        rw [if_pos ⟨rfl, hr⟩]
        exact vget_vset_same _ _ _ _ r.isLt
      · have hn : r.toNat ≠ d.toNat := fun e => he (BitVec.eq_of_toNat_eq e)
        rw [if_neg (show ¬ (r = d ∧ r ≠ 0) from fun h => he h.1)]
        exact vget_vset_ne _ _ _ _ _ hn

@[simp] theorem getX_zero (k : Core) : k.getX 0 = 0 := rfl

@[simp] theorem setX_seqs (k : Core) (d : BitVec 5) (v : X64) : (k.setX d v).seqs = k.seqs := by
  unfold Core.setX; split <;> rfl

/-- `setX` writes the register file only. -/
theorem setX_rest (k : Core) (d : BitVec 5) (v : X64) : { k.setX d v with x := k.x } = k := by
  unfold Core.setX; split <;> rfl

/-- An update of cores alone leaves every other field as it is. -/
theorem modCore_rest (s : State) (c : Nat) (f : Core → Core) : { s.modCore c f with cores := s.cores } = s := rfl

/-! ### One lemma for each field and each named update -/

@[simp] theorem setCore_mem (s : State) (c : Nat) (k : Core) : (s.setCore c k).mem = s.mem := rfl
@[simp] theorem setCore_poison (s : State) (c : Nat) (k : Core) : (s.setCore c k).poison = s.poison := rfl
@[simp] theorem setCore_wbuf (s : State) (c : Nat) (k : Core) : (s.setCore c k).wbuf = s.wbuf := rfl
@[simp] theorem setCore_soft (s : State) (c : Nat) (k : Core) : (s.setCore c k).soft = s.soft := rfl
@[simp] theorem setCore_tasks (s : State) (c : Nat) (k : Core) : (s.setCore c k).tasks = s.tasks := rfl
@[simp] theorem setCore_nextTask (s : State) (c : Nat) (k : Core) : (s.setCore c k).nextTask = s.nextTask := rfl
@[simp] theorem setCore_nextId (s : State) (c : Nat) (k : Core) : (s.setCore c k).nextId = s.nextId := rfl
@[simp] theorem setCore_l0Then (s : State) (c : Nat) (k : Core) : (s.setCore c k).l0Then = s.l0Then := rfl
@[simp] theorem setCore_mesh (s : State) (c : Nat) (k : Core) : (s.setCore c k).mesh = s.mesh := rfl
@[simp] theorem setCore_fifo (s : State) (c : Nat) (k : Core) : (s.setCore c k).fifo = s.fifo := rfl
@[simp] theorem setCore_kickAt (s : State) (c : Nat) (k : Core) : (s.setCore c k).kickAt = s.kickAt := rfl
@[simp] theorem setCore_blurred (s : State) (c : Nat) (k : Core) : (s.setCore c k).blurred = s.blurred := rfl
@[simp] theorem setCore_poolAges (s : State) (c : Nat) (k : Core) : (s.setCore c k).poolAges = s.poolAges := rfl
@[simp] theorem setCore_periods (s : State) (c : Nat) (k : Core) : (s.setCore c k).periods = s.periods := rfl
@[simp] theorem setCore_laneErrs (s : State) (c : Nat) (k : Core) : (s.setCore c k).laneErrs = s.laneErrs := rfl
@[simp] theorem setCore_repairs (s : State) (c : Nat) (k : Core) : (s.setCore c k).repairs = s.repairs := rfl
@[simp] theorem setCore_queues (s : State) (c : Nat) (k : Core) : (s.setCore c k).queues = s.queues := rfl
@[simp] theorem setCore_kernels (s : State) (c : Nat) (k : Core) : (s.setCore c k).kernels = s.kernels := rfl
@[simp] theorem setCore_copies (s : State) (c : Nat) (k : Core) : (s.setCore c k).copies = s.copies := rfl
@[simp] theorem setCore_kinvs (s : State) (c : Nat) (k : Core) : (s.setCore c k).kinvs = s.kinvs := rfl
@[simp] theorem setCore_graphs (s : State) (c : Nat) (k : Core) : (s.setCore c k).graphs = s.graphs := rfl
@[simp] theorem setCore_items (s : State) (c : Nat) (k : Core) : (s.setCore c k).items = s.items := rfl
@[simp] theorem setCore_deliveries (s : State) (c : Nat) (k : Core) : (s.setCore c k).deliveries = s.deliveries := rfl
@[simp] theorem setCore_notes (s : State) (c : Nat) (k : Core) : (s.setCore c k).notes = s.notes := rfl
@[simp] theorem setCore_tlb (s : State) (c : Nat) (k : Core) : (s.setCore c k).tlb = s.tlb := rfl
@[simp] theorem setCore_walks (s : State) (c : Nat) (k : Core) : (s.setCore c k).walks = s.walks := rfl
@[simp] theorem setCore_faults (s : State) (c : Nat) (k : Core) : (s.setCore c k).faults = s.faults := rfl
@[simp] theorem setCore_pool (s : State) (c : Nat) (k : Core) : (s.setCore c k).pool = s.pool := rfl
@[simp] theorem setCore_ctxs (s : State) (c : Nat) (k : Core) : (s.setCore c k).ctxs = s.ctxs := rfl
@[simp] theorem setCore_net (s : State) (c : Nat) (k : Core) : (s.setCore c k).net = s.net := rfl
@[simp] theorem setCore_osessions (s : State) (c : Nat) (k : Core) : (s.setCore c k).osessions = s.osessions := rfl
@[simp] theorem setCore_rcache (s : State) (c : Nat) (k : Core) : (s.setCore c k).rcache = s.rcache := rfl
@[simp] theorem setCore_gangs (s : State) (c : Nat) (k : Core) : (s.setCore c k).gangs = s.gangs := rfl
@[simp] theorem setCore_gangOuts (s : State) (c : Nat) (k : Core) : (s.setCore c k).gangOuts = s.gangOuts := rfl
@[simp] theorem setCore_hub (s : State) (c : Nat) (k : Core) : (s.setCore c k).hub = s.hub := rfl
@[simp] theorem setCore_kx (s : State) (c : Nat) (k : Core) : (s.setCore c k).kx = s.kx := rfl
@[simp] theorem setCore_ky (s : State) (c : Nat) (k : Core) : (s.setCore c k).ky = s.ky := rfl
@[simp] theorem setCore_layeravail (s : State) (c : Nat) (k : Core) : (s.setCore c k).layeravail = s.layeravail := rfl
@[simp] theorem setCore_retiring (s : State) (c : Nat) (k : Core) : (s.setCore c k).retiring = s.retiring := rfl
@[simp] theorem setCore_banks (s : State) (c : Nat) (k : Core) : (s.setCore c k).banks = s.banks := rfl
@[simp] theorem setCore_spares (s : State) (c : Nat) (k : Core) : (s.setCore c k).spares = s.spares := rfl
@[simp] theorem setCore_out (s : State) (c : Nat) (k : Core) : (s.setCore c k).out = s.out := rfl
@[simp] theorem setCore_outWhenIdle (s : State) (c : Nat) (k : Core) : (s.setCore c k).outWhenIdle = s.outWhenIdle := rfl
@[simp] theorem setCore_scanFailed (s : State) (c : Nat) (k : Core) : (s.setCore c k).scanFailed = s.scanFailed := rfl
@[simp] theorem setCore_scanned (s : State) (c : Nat) (k : Core) : (s.setCore c k).scanned = s.scanned := rfl
@[simp] theorem setCore_reserve (s : State) (c : Nat) (k : Core) : (s.setCore c k).reserve = s.reserve := rfl
@[simp] theorem setCore_scans (s : State) (c : Nat) (k : Core) : (s.setCore c k).scans = s.scans := rfl
@[simp] theorem setCore_homeTurn (s : State) (c : Nat) (k : Core) : (s.setCore c k).homeTurn = s.homeTurn := rfl
@[simp] theorem setCore_cycle (s : State) (c : Nat) (k : Core) : (s.setCore c k).cycle = s.cycle := rfl
@[simp] theorem setCore_roundAt (s : State) (c : Nat) (k : Core) : (s.setCore c k).roundAt = s.roundAt := rfl
@[simp] theorem setCore_agenda (s : State) (c : Nat) (k : Core) : (s.setCore c k).agenda = s.agenda := rfl
@[simp] theorem setCore_about (s : State) (c : Nat) (k : Core) : (s.setCore c k).about = s.about := rfl
@[simp] theorem setCore_word (s : State) (c : Nat) (k : Core) : (s.setCore c k).word = s.word := rfl
@[simp] theorem setCore_fresh (s : State) (c : Nat) (k : Core) : (s.setCore c k).fresh = s.fresh := rfl

@[simp] theorem modCore_mem (s : State) (c : Nat) (f : Core → Core) : (s.modCore c f).mem = s.mem := rfl
@[simp] theorem modCore_poison (s : State) (c : Nat) (f : Core → Core) : (s.modCore c f).poison = s.poison := rfl
@[simp] theorem modCore_wbuf (s : State) (c : Nat) (f : Core → Core) : (s.modCore c f).wbuf = s.wbuf := rfl
@[simp] theorem modCore_soft (s : State) (c : Nat) (f : Core → Core) : (s.modCore c f).soft = s.soft := rfl
@[simp] theorem modCore_tasks (s : State) (c : Nat) (f : Core → Core) : (s.modCore c f).tasks = s.tasks := rfl
@[simp] theorem modCore_nextTask (s : State) (c : Nat) (f : Core → Core) : (s.modCore c f).nextTask = s.nextTask := rfl
@[simp] theorem modCore_nextId (s : State) (c : Nat) (f : Core → Core) : (s.modCore c f).nextId = s.nextId := rfl
@[simp] theorem modCore_l0Then (s : State) (c : Nat) (f : Core → Core) : (s.modCore c f).l0Then = s.l0Then := rfl
@[simp] theorem modCore_mesh (s : State) (c : Nat) (f : Core → Core) : (s.modCore c f).mesh = s.mesh := rfl
@[simp] theorem modCore_fifo (s : State) (c : Nat) (f : Core → Core) : (s.modCore c f).fifo = s.fifo := rfl
@[simp] theorem modCore_kickAt (s : State) (c : Nat) (f : Core → Core) : (s.modCore c f).kickAt = s.kickAt := rfl
@[simp] theorem modCore_blurred (s : State) (c : Nat) (f : Core → Core) : (s.modCore c f).blurred = s.blurred := rfl
@[simp] theorem modCore_poolAges (s : State) (c : Nat) (f : Core → Core) : (s.modCore c f).poolAges = s.poolAges := rfl
@[simp] theorem modCore_periods (s : State) (c : Nat) (f : Core → Core) : (s.modCore c f).periods = s.periods := rfl
@[simp] theorem modCore_laneErrs (s : State) (c : Nat) (f : Core → Core) : (s.modCore c f).laneErrs = s.laneErrs := rfl
@[simp] theorem modCore_repairs (s : State) (c : Nat) (f : Core → Core) : (s.modCore c f).repairs = s.repairs := rfl
@[simp] theorem modCore_queues (s : State) (c : Nat) (f : Core → Core) : (s.modCore c f).queues = s.queues := rfl
@[simp] theorem modCore_kernels (s : State) (c : Nat) (f : Core → Core) : (s.modCore c f).kernels = s.kernels := rfl
@[simp] theorem modCore_copies (s : State) (c : Nat) (f : Core → Core) : (s.modCore c f).copies = s.copies := rfl
@[simp] theorem modCore_kinvs (s : State) (c : Nat) (f : Core → Core) : (s.modCore c f).kinvs = s.kinvs := rfl
@[simp] theorem modCore_graphs (s : State) (c : Nat) (f : Core → Core) : (s.modCore c f).graphs = s.graphs := rfl
@[simp] theorem modCore_items (s : State) (c : Nat) (f : Core → Core) : (s.modCore c f).items = s.items := rfl
@[simp] theorem modCore_deliveries (s : State) (c : Nat) (f : Core → Core) : (s.modCore c f).deliveries = s.deliveries := rfl
@[simp] theorem modCore_notes (s : State) (c : Nat) (f : Core → Core) : (s.modCore c f).notes = s.notes := rfl
@[simp] theorem modCore_tlb (s : State) (c : Nat) (f : Core → Core) : (s.modCore c f).tlb = s.tlb := rfl
@[simp] theorem modCore_walks (s : State) (c : Nat) (f : Core → Core) : (s.modCore c f).walks = s.walks := rfl
@[simp] theorem modCore_faults (s : State) (c : Nat) (f : Core → Core) : (s.modCore c f).faults = s.faults := rfl
@[simp] theorem modCore_pool (s : State) (c : Nat) (f : Core → Core) : (s.modCore c f).pool = s.pool := rfl
@[simp] theorem modCore_ctxs (s : State) (c : Nat) (f : Core → Core) : (s.modCore c f).ctxs = s.ctxs := rfl
@[simp] theorem modCore_net (s : State) (c : Nat) (f : Core → Core) : (s.modCore c f).net = s.net := rfl
@[simp] theorem modCore_osessions (s : State) (c : Nat) (f : Core → Core) : (s.modCore c f).osessions = s.osessions := rfl
@[simp] theorem modCore_rcache (s : State) (c : Nat) (f : Core → Core) : (s.modCore c f).rcache = s.rcache := rfl
@[simp] theorem modCore_gangs (s : State) (c : Nat) (f : Core → Core) : (s.modCore c f).gangs = s.gangs := rfl
@[simp] theorem modCore_gangOuts (s : State) (c : Nat) (f : Core → Core) : (s.modCore c f).gangOuts = s.gangOuts := rfl
@[simp] theorem modCore_hub (s : State) (c : Nat) (f : Core → Core) : (s.modCore c f).hub = s.hub := rfl
@[simp] theorem modCore_kx (s : State) (c : Nat) (f : Core → Core) : (s.modCore c f).kx = s.kx := rfl
@[simp] theorem modCore_ky (s : State) (c : Nat) (f : Core → Core) : (s.modCore c f).ky = s.ky := rfl
@[simp] theorem modCore_layeravail (s : State) (c : Nat) (f : Core → Core) : (s.modCore c f).layeravail = s.layeravail := rfl
@[simp] theorem modCore_retiring (s : State) (c : Nat) (f : Core → Core) : (s.modCore c f).retiring = s.retiring := rfl
@[simp] theorem modCore_banks (s : State) (c : Nat) (f : Core → Core) : (s.modCore c f).banks = s.banks := rfl
@[simp] theorem modCore_spares (s : State) (c : Nat) (f : Core → Core) : (s.modCore c f).spares = s.spares := rfl
@[simp] theorem modCore_out (s : State) (c : Nat) (f : Core → Core) : (s.modCore c f).out = s.out := rfl
@[simp] theorem modCore_outWhenIdle (s : State) (c : Nat) (f : Core → Core) : (s.modCore c f).outWhenIdle = s.outWhenIdle := rfl
@[simp] theorem modCore_scanFailed (s : State) (c : Nat) (f : Core → Core) : (s.modCore c f).scanFailed = s.scanFailed := rfl
@[simp] theorem modCore_scanned (s : State) (c : Nat) (f : Core → Core) : (s.modCore c f).scanned = s.scanned := rfl
@[simp] theorem modCore_reserve (s : State) (c : Nat) (f : Core → Core) : (s.modCore c f).reserve = s.reserve := rfl
@[simp] theorem modCore_scans (s : State) (c : Nat) (f : Core → Core) : (s.modCore c f).scans = s.scans := rfl
@[simp] theorem modCore_homeTurn (s : State) (c : Nat) (f : Core → Core) : (s.modCore c f).homeTurn = s.homeTurn := rfl
@[simp] theorem modCore_cycle (s : State) (c : Nat) (f : Core → Core) : (s.modCore c f).cycle = s.cycle := rfl
@[simp] theorem modCore_roundAt (s : State) (c : Nat) (f : Core → Core) : (s.modCore c f).roundAt = s.roundAt := rfl
@[simp] theorem modCore_agenda (s : State) (c : Nat) (f : Core → Core) : (s.modCore c f).agenda = s.agenda := rfl
@[simp] theorem modCore_about (s : State) (c : Nat) (f : Core → Core) : (s.modCore c f).about = s.about := rfl
@[simp] theorem modCore_word (s : State) (c : Nat) (f : Core → Core) : (s.modCore c f).word = s.word := rfl
@[simp] theorem modCore_fresh (s : State) (c : Nat) (f : Core → Core) : (s.modCore c f).fresh = s.fresh := rfl

@[simp] theorem setX_mem (s : State) (r : BitVec 5) (v : X64) : (s.setX r v).mem = s.mem := rfl
@[simp] theorem setX_poison (s : State) (r : BitVec 5) (v : X64) : (s.setX r v).poison = s.poison := rfl
@[simp] theorem setX_wbuf (s : State) (r : BitVec 5) (v : X64) : (s.setX r v).wbuf = s.wbuf := rfl
@[simp] theorem setX_soft (s : State) (r : BitVec 5) (v : X64) : (s.setX r v).soft = s.soft := rfl
@[simp] theorem setX_tasks (s : State) (r : BitVec 5) (v : X64) : (s.setX r v).tasks = s.tasks := rfl
@[simp] theorem setX_nextTask (s : State) (r : BitVec 5) (v : X64) : (s.setX r v).nextTask = s.nextTask := rfl
@[simp] theorem setX_nextId (s : State) (r : BitVec 5) (v : X64) : (s.setX r v).nextId = s.nextId := rfl
@[simp] theorem setX_l0Then (s : State) (r : BitVec 5) (v : X64) : (s.setX r v).l0Then = s.l0Then := rfl
@[simp] theorem setX_mesh (s : State) (r : BitVec 5) (v : X64) : (s.setX r v).mesh = s.mesh := rfl
@[simp] theorem setX_fifo (s : State) (r : BitVec 5) (v : X64) : (s.setX r v).fifo = s.fifo := rfl
@[simp] theorem setX_kickAt (s : State) (r : BitVec 5) (v : X64) : (s.setX r v).kickAt = s.kickAt := rfl
@[simp] theorem setX_blurred (s : State) (r : BitVec 5) (v : X64) : (s.setX r v).blurred = s.blurred := rfl
@[simp] theorem setX_poolAges (s : State) (r : BitVec 5) (v : X64) : (s.setX r v).poolAges = s.poolAges := rfl
@[simp] theorem setX_periods (s : State) (r : BitVec 5) (v : X64) : (s.setX r v).periods = s.periods := rfl
@[simp] theorem setX_laneErrs (s : State) (r : BitVec 5) (v : X64) : (s.setX r v).laneErrs = s.laneErrs := rfl
@[simp] theorem setX_repairs (s : State) (r : BitVec 5) (v : X64) : (s.setX r v).repairs = s.repairs := rfl
@[simp] theorem setX_queues (s : State) (r : BitVec 5) (v : X64) : (s.setX r v).queues = s.queues := rfl
@[simp] theorem setX_kernels (s : State) (r : BitVec 5) (v : X64) : (s.setX r v).kernels = s.kernels := rfl
@[simp] theorem setX_copies (s : State) (r : BitVec 5) (v : X64) : (s.setX r v).copies = s.copies := rfl
@[simp] theorem setX_kinvs (s : State) (r : BitVec 5) (v : X64) : (s.setX r v).kinvs = s.kinvs := rfl
@[simp] theorem setX_graphs (s : State) (r : BitVec 5) (v : X64) : (s.setX r v).graphs = s.graphs := rfl
@[simp] theorem setX_items (s : State) (r : BitVec 5) (v : X64) : (s.setX r v).items = s.items := rfl
@[simp] theorem setX_deliveries (s : State) (r : BitVec 5) (v : X64) : (s.setX r v).deliveries = s.deliveries := rfl
@[simp] theorem setX_notes (s : State) (r : BitVec 5) (v : X64) : (s.setX r v).notes = s.notes := rfl
@[simp] theorem setX_tlb (s : State) (r : BitVec 5) (v : X64) : (s.setX r v).tlb = s.tlb := rfl
@[simp] theorem setX_walks (s : State) (r : BitVec 5) (v : X64) : (s.setX r v).walks = s.walks := rfl
@[simp] theorem setX_faults (s : State) (r : BitVec 5) (v : X64) : (s.setX r v).faults = s.faults := rfl
@[simp] theorem setX_pool (s : State) (r : BitVec 5) (v : X64) : (s.setX r v).pool = s.pool := rfl
@[simp] theorem setX_ctxs (s : State) (r : BitVec 5) (v : X64) : (s.setX r v).ctxs = s.ctxs := rfl
@[simp] theorem setX_net (s : State) (r : BitVec 5) (v : X64) : (s.setX r v).net = s.net := rfl
@[simp] theorem setX_osessions (s : State) (r : BitVec 5) (v : X64) : (s.setX r v).osessions = s.osessions := rfl
@[simp] theorem setX_rcache (s : State) (r : BitVec 5) (v : X64) : (s.setX r v).rcache = s.rcache := rfl
@[simp] theorem setX_gangs (s : State) (r : BitVec 5) (v : X64) : (s.setX r v).gangs = s.gangs := rfl
@[simp] theorem setX_gangOuts (s : State) (r : BitVec 5) (v : X64) : (s.setX r v).gangOuts = s.gangOuts := rfl
@[simp] theorem setX_hub (s : State) (r : BitVec 5) (v : X64) : (s.setX r v).hub = s.hub := rfl
@[simp] theorem setX_kx (s : State) (r : BitVec 5) (v : X64) : (s.setX r v).kx = s.kx := rfl
@[simp] theorem setX_ky (s : State) (r : BitVec 5) (v : X64) : (s.setX r v).ky = s.ky := rfl
@[simp] theorem setX_layeravail (s : State) (r : BitVec 5) (v : X64) : (s.setX r v).layeravail = s.layeravail := rfl
@[simp] theorem setX_retiring (s : State) (r : BitVec 5) (v : X64) : (s.setX r v).retiring = s.retiring := rfl
@[simp] theorem setX_banks (s : State) (r : BitVec 5) (v : X64) : (s.setX r v).banks = s.banks := rfl
@[simp] theorem setX_spares (s : State) (r : BitVec 5) (v : X64) : (s.setX r v).spares = s.spares := rfl
@[simp] theorem setX_out (s : State) (r : BitVec 5) (v : X64) : (s.setX r v).out = s.out := rfl
@[simp] theorem setX_outWhenIdle (s : State) (r : BitVec 5) (v : X64) : (s.setX r v).outWhenIdle = s.outWhenIdle := rfl
@[simp] theorem setX_scanFailed (s : State) (r : BitVec 5) (v : X64) : (s.setX r v).scanFailed = s.scanFailed := rfl
@[simp] theorem setX_scanned (s : State) (r : BitVec 5) (v : X64) : (s.setX r v).scanned = s.scanned := rfl
@[simp] theorem setX_reserve (s : State) (r : BitVec 5) (v : X64) : (s.setX r v).reserve = s.reserve := rfl
@[simp] theorem setX_scans (s : State) (r : BitVec 5) (v : X64) : (s.setX r v).scans = s.scans := rfl
@[simp] theorem setX_homeTurn (s : State) (r : BitVec 5) (v : X64) : (s.setX r v).homeTurn = s.homeTurn := rfl
@[simp] theorem setX_cycle (s : State) (r : BitVec 5) (v : X64) : (s.setX r v).cycle = s.cycle := rfl
@[simp] theorem setX_roundAt (s : State) (r : BitVec 5) (v : X64) : (s.setX r v).roundAt = s.roundAt := rfl
@[simp] theorem setX_agenda (s : State) (r : BitVec 5) (v : X64) : (s.setX r v).agenda = s.agenda := rfl
@[simp] theorem setX_about (s : State) (r : BitVec 5) (v : X64) : (s.setX r v).about = s.about := rfl
@[simp] theorem setX_word (s : State) (r : BitVec 5) (v : X64) : (s.setX r v).word = s.word := rfl
@[simp] theorem setX_fresh (s : State) (r : BitVec 5) (v : X64) : (s.setX r v).fresh = s.fresh := rfl

@[simp] theorem modSeq_mem (s : State) (c : Nat) (st : Stream) (f : Seq → Seq) : (s.modSeq c st f).mem = s.mem := rfl
@[simp] theorem modSeq_poison (s : State) (c : Nat) (st : Stream) (f : Seq → Seq) : (s.modSeq c st f).poison = s.poison := rfl
@[simp] theorem modSeq_wbuf (s : State) (c : Nat) (st : Stream) (f : Seq → Seq) : (s.modSeq c st f).wbuf = s.wbuf := rfl
@[simp] theorem modSeq_soft (s : State) (c : Nat) (st : Stream) (f : Seq → Seq) : (s.modSeq c st f).soft = s.soft := rfl
@[simp] theorem modSeq_tasks (s : State) (c : Nat) (st : Stream) (f : Seq → Seq) : (s.modSeq c st f).tasks = s.tasks := rfl
@[simp] theorem modSeq_nextTask (s : State) (c : Nat) (st : Stream) (f : Seq → Seq) :
    (s.modSeq c st f).nextTask = s.nextTask := rfl
@[simp] theorem modSeq_nextId (s : State) (c : Nat) (st : Stream) (f : Seq → Seq) : (s.modSeq c st f).nextId = s.nextId := rfl
@[simp] theorem modSeq_l0Then (s : State) (c : Nat) (st : Stream) (f : Seq → Seq) : (s.modSeq c st f).l0Then = s.l0Then := rfl
@[simp] theorem modSeq_mesh (s : State) (c : Nat) (st : Stream) (f : Seq → Seq) : (s.modSeq c st f).mesh = s.mesh := rfl
@[simp] theorem modSeq_fifo (s : State) (c : Nat) (st : Stream) (f : Seq → Seq) : (s.modSeq c st f).fifo = s.fifo := rfl
@[simp] theorem modSeq_kickAt (s : State) (c : Nat) (st : Stream) (f : Seq → Seq) : (s.modSeq c st f).kickAt = s.kickAt := rfl
@[simp] theorem modSeq_blurred (s : State) (c : Nat) (st : Stream) (f : Seq → Seq) :
    (s.modSeq c st f).blurred = s.blurred := rfl
@[simp] theorem modSeq_poolAges (s : State) (c : Nat) (st : Stream) (f : Seq → Seq) :
    (s.modSeq c st f).poolAges = s.poolAges := rfl
@[simp] theorem modSeq_periods (s : State) (c : Nat) (st : Stream) (f : Seq → Seq) :
    (s.modSeq c st f).periods = s.periods := rfl
@[simp] theorem modSeq_laneErrs (s : State) (c : Nat) (st : Stream) (f : Seq → Seq) :
    (s.modSeq c st f).laneErrs = s.laneErrs := rfl
@[simp] theorem modSeq_repairs (s : State) (c : Nat) (st : Stream) (f : Seq → Seq) :
    (s.modSeq c st f).repairs = s.repairs := rfl
@[simp] theorem modSeq_queues (s : State) (c : Nat) (st : Stream) (f : Seq → Seq) : (s.modSeq c st f).queues = s.queues := rfl
@[simp] theorem modSeq_kernels (s : State) (c : Nat) (st : Stream) (f : Seq → Seq) :
    (s.modSeq c st f).kernels = s.kernels := rfl
@[simp] theorem modSeq_copies (s : State) (c : Nat) (st : Stream) (f : Seq → Seq) : (s.modSeq c st f).copies = s.copies := rfl
@[simp] theorem modSeq_kinvs (s : State) (c : Nat) (st : Stream) (f : Seq → Seq) : (s.modSeq c st f).kinvs = s.kinvs := rfl
@[simp] theorem modSeq_graphs (s : State) (c : Nat) (st : Stream) (f : Seq → Seq) : (s.modSeq c st f).graphs = s.graphs := rfl
@[simp] theorem modSeq_items (s : State) (c : Nat) (st : Stream) (f : Seq → Seq) : (s.modSeq c st f).items = s.items := rfl
@[simp] theorem modSeq_deliveries (s : State) (c : Nat) (st : Stream) (f : Seq → Seq) :
    (s.modSeq c st f).deliveries = s.deliveries := rfl
@[simp] theorem modSeq_notes (s : State) (c : Nat) (st : Stream) (f : Seq → Seq) : (s.modSeq c st f).notes = s.notes := rfl
@[simp] theorem modSeq_tlb (s : State) (c : Nat) (st : Stream) (f : Seq → Seq) : (s.modSeq c st f).tlb = s.tlb := rfl
@[simp] theorem modSeq_walks (s : State) (c : Nat) (st : Stream) (f : Seq → Seq) : (s.modSeq c st f).walks = s.walks := rfl
@[simp] theorem modSeq_faults (s : State) (c : Nat) (st : Stream) (f : Seq → Seq) : (s.modSeq c st f).faults = s.faults := rfl
@[simp] theorem modSeq_pool (s : State) (c : Nat) (st : Stream) (f : Seq → Seq) : (s.modSeq c st f).pool = s.pool := rfl
@[simp] theorem modSeq_ctxs (s : State) (c : Nat) (st : Stream) (f : Seq → Seq) : (s.modSeq c st f).ctxs = s.ctxs := rfl
@[simp] theorem modSeq_net (s : State) (c : Nat) (st : Stream) (f : Seq → Seq) : (s.modSeq c st f).net = s.net := rfl
@[simp] theorem modSeq_osessions (s : State) (c : Nat) (st : Stream) (f : Seq → Seq) :
    (s.modSeq c st f).osessions = s.osessions := rfl
@[simp] theorem modSeq_rcache (s : State) (c : Nat) (st : Stream) (f : Seq → Seq) : (s.modSeq c st f).rcache = s.rcache := rfl
@[simp] theorem modSeq_gangs (s : State) (c : Nat) (st : Stream) (f : Seq → Seq) : (s.modSeq c st f).gangs = s.gangs := rfl
@[simp] theorem modSeq_gangOuts (s : State) (c : Nat) (st : Stream) (f : Seq → Seq) :
    (s.modSeq c st f).gangOuts = s.gangOuts := rfl
@[simp] theorem modSeq_hub (s : State) (c : Nat) (st : Stream) (f : Seq → Seq) : (s.modSeq c st f).hub = s.hub := rfl
@[simp] theorem modSeq_kx (s : State) (c : Nat) (st : Stream) (f : Seq → Seq) : (s.modSeq c st f).kx = s.kx := rfl
@[simp] theorem modSeq_ky (s : State) (c : Nat) (st : Stream) (f : Seq → Seq) : (s.modSeq c st f).ky = s.ky := rfl
@[simp] theorem modSeq_layeravail (s : State) (c : Nat) (st : Stream) (f : Seq → Seq) :
    (s.modSeq c st f).layeravail = s.layeravail := rfl
@[simp] theorem modSeq_retiring (s : State) (c : Nat) (st : Stream) (f : Seq → Seq) :
    (s.modSeq c st f).retiring = s.retiring := rfl
@[simp] theorem modSeq_banks (s : State) (c : Nat) (st : Stream) (f : Seq → Seq) : (s.modSeq c st f).banks = s.banks := rfl
@[simp] theorem modSeq_spares (s : State) (c : Nat) (st : Stream) (f : Seq → Seq) : (s.modSeq c st f).spares = s.spares := rfl
@[simp] theorem modSeq_out (s : State) (c : Nat) (st : Stream) (f : Seq → Seq) : (s.modSeq c st f).out = s.out := rfl
@[simp] theorem modSeq_outWhenIdle (s : State) (c : Nat) (st : Stream) (f : Seq → Seq) :
    (s.modSeq c st f).outWhenIdle = s.outWhenIdle := rfl
@[simp] theorem modSeq_scanFailed (s : State) (c : Nat) (st : Stream) (f : Seq → Seq) :
    (s.modSeq c st f).scanFailed = s.scanFailed := rfl
@[simp] theorem modSeq_scanned (s : State) (c : Nat) (st : Stream) (f : Seq → Seq) :
    (s.modSeq c st f).scanned = s.scanned := rfl
@[simp] theorem modSeq_reserve (s : State) (c : Nat) (st : Stream) (f : Seq → Seq) :
    (s.modSeq c st f).reserve = s.reserve := rfl
@[simp] theorem modSeq_scans (s : State) (c : Nat) (st : Stream) (f : Seq → Seq) : (s.modSeq c st f).scans = s.scans := rfl
@[simp] theorem modSeq_homeTurn (s : State) (c : Nat) (st : Stream) (f : Seq → Seq) :
    (s.modSeq c st f).homeTurn = s.homeTurn := rfl
@[simp] theorem modSeq_cycle (s : State) (c : Nat) (st : Stream) (f : Seq → Seq) : (s.modSeq c st f).cycle = s.cycle := rfl
@[simp] theorem modSeq_roundAt (s : State) (c : Nat) (st : Stream) (f : Seq → Seq) :
    (s.modSeq c st f).roundAt = s.roundAt := rfl
@[simp] theorem modSeq_agenda (s : State) (c : Nat) (st : Stream) (f : Seq → Seq) : (s.modSeq c st f).agenda = s.agenda := rfl
@[simp] theorem modSeq_about (s : State) (c : Nat) (st : Stream) (f : Seq → Seq) : (s.modSeq c st f).about = s.about := rfl
@[simp] theorem modSeq_word (s : State) (c : Nat) (st : Stream) (f : Seq → Seq) : (s.modSeq c st f).word = s.word := rfl
@[simp] theorem modSeq_fresh (s : State) (c : Nat) (st : Stream) (f : Seq → Seq) : (s.modSeq c st f).fresh = s.fresh := rfl

@[simp] theorem modSteer_mem (s : State) (c : Nat) (st : Stream) (j : Nat) (f : Steer → Steer) :
    (s.modSteer c st j f).mem = s.mem := rfl
@[simp] theorem modSteer_poison (s : State) (c : Nat) (st : Stream) (j : Nat) (f : Steer → Steer) :
    (s.modSteer c st j f).poison = s.poison := rfl
@[simp] theorem modSteer_wbuf (s : State) (c : Nat) (st : Stream) (j : Nat) (f : Steer → Steer) :
    (s.modSteer c st j f).wbuf = s.wbuf := rfl
@[simp] theorem modSteer_soft (s : State) (c : Nat) (st : Stream) (j : Nat) (f : Steer → Steer) :
    (s.modSteer c st j f).soft = s.soft := rfl
@[simp] theorem modSteer_tasks (s : State) (c : Nat) (st : Stream) (j : Nat) (f : Steer → Steer) :
    (s.modSteer c st j f).tasks = s.tasks := rfl
@[simp] theorem modSteer_nextTask (s : State) (c : Nat) (st : Stream) (j : Nat) (f : Steer → Steer) :
    (s.modSteer c st j f).nextTask = s.nextTask := rfl
@[simp] theorem modSteer_nextId (s : State) (c : Nat) (st : Stream) (j : Nat) (f : Steer → Steer) :
    (s.modSteer c st j f).nextId = s.nextId := rfl
@[simp] theorem modSteer_l0Then (s : State) (c : Nat) (st : Stream) (j : Nat) (f : Steer → Steer) :
    (s.modSteer c st j f).l0Then = s.l0Then := rfl
@[simp] theorem modSteer_mesh (s : State) (c : Nat) (st : Stream) (j : Nat) (f : Steer → Steer) :
    (s.modSteer c st j f).mesh = s.mesh := rfl
@[simp] theorem modSteer_fifo (s : State) (c : Nat) (st : Stream) (j : Nat) (f : Steer → Steer) :
    (s.modSteer c st j f).fifo = s.fifo := rfl
@[simp] theorem modSteer_kickAt (s : State) (c : Nat) (st : Stream) (j : Nat) (f : Steer → Steer) :
    (s.modSteer c st j f).kickAt = s.kickAt := rfl
@[simp] theorem modSteer_blurred (s : State) (c : Nat) (st : Stream) (j : Nat) (f : Steer → Steer) :
    (s.modSteer c st j f).blurred = s.blurred := rfl
@[simp] theorem modSteer_poolAges (s : State) (c : Nat) (st : Stream) (j : Nat) (f : Steer → Steer) :
    (s.modSteer c st j f).poolAges = s.poolAges := rfl
@[simp] theorem modSteer_periods (s : State) (c : Nat) (st : Stream) (j : Nat) (f : Steer → Steer) :
    (s.modSteer c st j f).periods = s.periods := rfl
@[simp] theorem modSteer_laneErrs (s : State) (c : Nat) (st : Stream) (j : Nat) (f : Steer → Steer) :
    (s.modSteer c st j f).laneErrs = s.laneErrs := rfl
@[simp] theorem modSteer_repairs (s : State) (c : Nat) (st : Stream) (j : Nat) (f : Steer → Steer) :
    (s.modSteer c st j f).repairs = s.repairs := rfl
@[simp] theorem modSteer_queues (s : State) (c : Nat) (st : Stream) (j : Nat) (f : Steer → Steer) :
    (s.modSteer c st j f).queues = s.queues := rfl
@[simp] theorem modSteer_kernels (s : State) (c : Nat) (st : Stream) (j : Nat) (f : Steer → Steer) :
    (s.modSteer c st j f).kernels = s.kernels := rfl
@[simp] theorem modSteer_copies (s : State) (c : Nat) (st : Stream) (j : Nat) (f : Steer → Steer) :
    (s.modSteer c st j f).copies = s.copies := rfl
@[simp] theorem modSteer_kinvs (s : State) (c : Nat) (st : Stream) (j : Nat) (f : Steer → Steer) :
    (s.modSteer c st j f).kinvs = s.kinvs := rfl
@[simp] theorem modSteer_graphs (s : State) (c : Nat) (st : Stream) (j : Nat) (f : Steer → Steer) :
    (s.modSteer c st j f).graphs = s.graphs := rfl
@[simp] theorem modSteer_items (s : State) (c : Nat) (st : Stream) (j : Nat) (f : Steer → Steer) :
    (s.modSteer c st j f).items = s.items := rfl
@[simp] theorem modSteer_deliveries (s : State) (c : Nat) (st : Stream) (j : Nat) (f : Steer → Steer) :
    (s.modSteer c st j f).deliveries = s.deliveries := rfl
@[simp] theorem modSteer_notes (s : State) (c : Nat) (st : Stream) (j : Nat) (f : Steer → Steer) :
    (s.modSteer c st j f).notes = s.notes := rfl
@[simp] theorem modSteer_tlb (s : State) (c : Nat) (st : Stream) (j : Nat) (f : Steer → Steer) :
    (s.modSteer c st j f).tlb = s.tlb := rfl
@[simp] theorem modSteer_walks (s : State) (c : Nat) (st : Stream) (j : Nat) (f : Steer → Steer) :
    (s.modSteer c st j f).walks = s.walks := rfl
@[simp] theorem modSteer_faults (s : State) (c : Nat) (st : Stream) (j : Nat) (f : Steer → Steer) :
    (s.modSteer c st j f).faults = s.faults := rfl
@[simp] theorem modSteer_pool (s : State) (c : Nat) (st : Stream) (j : Nat) (f : Steer → Steer) :
    (s.modSteer c st j f).pool = s.pool := rfl
@[simp] theorem modSteer_ctxs (s : State) (c : Nat) (st : Stream) (j : Nat) (f : Steer → Steer) :
    (s.modSteer c st j f).ctxs = s.ctxs := rfl
@[simp] theorem modSteer_net (s : State) (c : Nat) (st : Stream) (j : Nat) (f : Steer → Steer) :
    (s.modSteer c st j f).net = s.net := rfl
@[simp] theorem modSteer_osessions (s : State) (c : Nat) (st : Stream) (j : Nat) (f : Steer → Steer) :
    (s.modSteer c st j f).osessions = s.osessions := rfl
@[simp] theorem modSteer_rcache (s : State) (c : Nat) (st : Stream) (j : Nat) (f : Steer → Steer) :
    (s.modSteer c st j f).rcache = s.rcache := rfl
@[simp] theorem modSteer_gangs (s : State) (c : Nat) (st : Stream) (j : Nat) (f : Steer → Steer) :
    (s.modSteer c st j f).gangs = s.gangs := rfl
@[simp] theorem modSteer_gangOuts (s : State) (c : Nat) (st : Stream) (j : Nat) (f : Steer → Steer) :
    (s.modSteer c st j f).gangOuts = s.gangOuts := rfl
@[simp] theorem modSteer_hub (s : State) (c : Nat) (st : Stream) (j : Nat) (f : Steer → Steer) :
    (s.modSteer c st j f).hub = s.hub := rfl
@[simp] theorem modSteer_kx (s : State) (c : Nat) (st : Stream) (j : Nat) (f : Steer → Steer) :
    (s.modSteer c st j f).kx = s.kx := rfl
@[simp] theorem modSteer_ky (s : State) (c : Nat) (st : Stream) (j : Nat) (f : Steer → Steer) :
    (s.modSteer c st j f).ky = s.ky := rfl
@[simp] theorem modSteer_layeravail (s : State) (c : Nat) (st : Stream) (j : Nat) (f : Steer → Steer) :
    (s.modSteer c st j f).layeravail = s.layeravail := rfl
@[simp] theorem modSteer_retiring (s : State) (c : Nat) (st : Stream) (j : Nat) (f : Steer → Steer) :
    (s.modSteer c st j f).retiring = s.retiring := rfl
@[simp] theorem modSteer_banks (s : State) (c : Nat) (st : Stream) (j : Nat) (f : Steer → Steer) :
    (s.modSteer c st j f).banks = s.banks := rfl
@[simp] theorem modSteer_spares (s : State) (c : Nat) (st : Stream) (j : Nat) (f : Steer → Steer) :
    (s.modSteer c st j f).spares = s.spares := rfl
@[simp] theorem modSteer_out (s : State) (c : Nat) (st : Stream) (j : Nat) (f : Steer → Steer) :
    (s.modSteer c st j f).out = s.out := rfl
@[simp] theorem modSteer_outWhenIdle (s : State) (c : Nat) (st : Stream) (j : Nat) (f : Steer → Steer) :
    (s.modSteer c st j f).outWhenIdle = s.outWhenIdle := rfl
@[simp] theorem modSteer_scanFailed (s : State) (c : Nat) (st : Stream) (j : Nat) (f : Steer → Steer) :
    (s.modSteer c st j f).scanFailed = s.scanFailed := rfl
@[simp] theorem modSteer_scanned (s : State) (c : Nat) (st : Stream) (j : Nat) (f : Steer → Steer) :
    (s.modSteer c st j f).scanned = s.scanned := rfl
@[simp] theorem modSteer_reserve (s : State) (c : Nat) (st : Stream) (j : Nat) (f : Steer → Steer) :
    (s.modSteer c st j f).reserve = s.reserve := rfl
@[simp] theorem modSteer_scans (s : State) (c : Nat) (st : Stream) (j : Nat) (f : Steer → Steer) :
    (s.modSteer c st j f).scans = s.scans := rfl
@[simp] theorem modSteer_homeTurn (s : State) (c : Nat) (st : Stream) (j : Nat) (f : Steer → Steer) :
    (s.modSteer c st j f).homeTurn = s.homeTurn := rfl
@[simp] theorem modSteer_cycle (s : State) (c : Nat) (st : Stream) (j : Nat) (f : Steer → Steer) :
    (s.modSteer c st j f).cycle = s.cycle := rfl
@[simp] theorem modSteer_roundAt (s : State) (c : Nat) (st : Stream) (j : Nat) (f : Steer → Steer) :
    (s.modSteer c st j f).roundAt = s.roundAt := rfl
@[simp] theorem modSteer_agenda (s : State) (c : Nat) (st : Stream) (j : Nat) (f : Steer → Steer) :
    (s.modSteer c st j f).agenda = s.agenda := rfl
@[simp] theorem modSteer_about (s : State) (c : Nat) (st : Stream) (j : Nat) (f : Steer → Steer) :
    (s.modSteer c st j f).about = s.about := rfl
@[simp] theorem modSteer_word (s : State) (c : Nat) (st : Stream) (j : Nat) (f : Steer → Steer) :
    (s.modSteer c st j f).word = s.word := rfl
@[simp] theorem modSteer_fresh (s : State) (c : Nat) (st : Stream) (j : Nat) (f : Steer → Steer) :
    (s.modSteer c st j f).fresh = s.fresh := rfl

@[simp] theorem setCtx_mem (s : State) (n : Slot) (k : Ctx) : (s.setCtx n k).mem = s.mem := rfl
@[simp] theorem setCtx_poison (s : State) (n : Slot) (k : Ctx) : (s.setCtx n k).poison = s.poison := rfl
@[simp] theorem setCtx_wbuf (s : State) (n : Slot) (k : Ctx) : (s.setCtx n k).wbuf = s.wbuf := rfl
@[simp] theorem setCtx_soft (s : State) (n : Slot) (k : Ctx) : (s.setCtx n k).soft = s.soft := rfl
@[simp] theorem setCtx_cores (s : State) (n : Slot) (k : Ctx) : (s.setCtx n k).cores = s.cores := rfl
@[simp] theorem setCtx_tasks (s : State) (n : Slot) (k : Ctx) : (s.setCtx n k).tasks = s.tasks := rfl
@[simp] theorem setCtx_nextTask (s : State) (n : Slot) (k : Ctx) : (s.setCtx n k).nextTask = s.nextTask := rfl
@[simp] theorem setCtx_nextId (s : State) (n : Slot) (k : Ctx) : (s.setCtx n k).nextId = s.nextId := rfl
@[simp] theorem setCtx_l0Then (s : State) (n : Slot) (k : Ctx) : (s.setCtx n k).l0Then = s.l0Then := rfl
@[simp] theorem setCtx_mesh (s : State) (n : Slot) (k : Ctx) : (s.setCtx n k).mesh = s.mesh := rfl
@[simp] theorem setCtx_fifo (s : State) (n : Slot) (k : Ctx) : (s.setCtx n k).fifo = s.fifo := rfl
@[simp] theorem setCtx_kickAt (s : State) (n : Slot) (k : Ctx) : (s.setCtx n k).kickAt = s.kickAt := rfl
@[simp] theorem setCtx_blurred (s : State) (n : Slot) (k : Ctx) : (s.setCtx n k).blurred = s.blurred := rfl
@[simp] theorem setCtx_poolAges (s : State) (n : Slot) (k : Ctx) : (s.setCtx n k).poolAges = s.poolAges := rfl
@[simp] theorem setCtx_periods (s : State) (n : Slot) (k : Ctx) : (s.setCtx n k).periods = s.periods := rfl
@[simp] theorem setCtx_laneErrs (s : State) (n : Slot) (k : Ctx) : (s.setCtx n k).laneErrs = s.laneErrs := rfl
@[simp] theorem setCtx_repairs (s : State) (n : Slot) (k : Ctx) : (s.setCtx n k).repairs = s.repairs := rfl
@[simp] theorem setCtx_queues (s : State) (n : Slot) (k : Ctx) : (s.setCtx n k).queues = s.queues := rfl
@[simp] theorem setCtx_kernels (s : State) (n : Slot) (k : Ctx) : (s.setCtx n k).kernels = s.kernels := rfl
@[simp] theorem setCtx_copies (s : State) (n : Slot) (k : Ctx) : (s.setCtx n k).copies = s.copies := rfl
@[simp] theorem setCtx_kinvs (s : State) (n : Slot) (k : Ctx) : (s.setCtx n k).kinvs = s.kinvs := rfl
@[simp] theorem setCtx_graphs (s : State) (n : Slot) (k : Ctx) : (s.setCtx n k).graphs = s.graphs := rfl
@[simp] theorem setCtx_items (s : State) (n : Slot) (k : Ctx) : (s.setCtx n k).items = s.items := rfl
@[simp] theorem setCtx_deliveries (s : State) (n : Slot) (k : Ctx) : (s.setCtx n k).deliveries = s.deliveries := rfl
@[simp] theorem setCtx_notes (s : State) (n : Slot) (k : Ctx) : (s.setCtx n k).notes = s.notes := rfl
@[simp] theorem setCtx_tlb (s : State) (n : Slot) (k : Ctx) : (s.setCtx n k).tlb = s.tlb := rfl
@[simp] theorem setCtx_walks (s : State) (n : Slot) (k : Ctx) : (s.setCtx n k).walks = s.walks := rfl
@[simp] theorem setCtx_faults (s : State) (n : Slot) (k : Ctx) : (s.setCtx n k).faults = s.faults := rfl
@[simp] theorem setCtx_pool (s : State) (n : Slot) (k : Ctx) : (s.setCtx n k).pool = s.pool := rfl
@[simp] theorem setCtx_net (s : State) (n : Slot) (k : Ctx) : (s.setCtx n k).net = s.net := rfl
@[simp] theorem setCtx_osessions (s : State) (n : Slot) (k : Ctx) : (s.setCtx n k).osessions = s.osessions := rfl
@[simp] theorem setCtx_rcache (s : State) (n : Slot) (k : Ctx) : (s.setCtx n k).rcache = s.rcache := rfl
@[simp] theorem setCtx_gangs (s : State) (n : Slot) (k : Ctx) : (s.setCtx n k).gangs = s.gangs := rfl
@[simp] theorem setCtx_gangOuts (s : State) (n : Slot) (k : Ctx) : (s.setCtx n k).gangOuts = s.gangOuts := rfl
@[simp] theorem setCtx_hub (s : State) (n : Slot) (k : Ctx) : (s.setCtx n k).hub = s.hub := rfl
@[simp] theorem setCtx_kx (s : State) (n : Slot) (k : Ctx) : (s.setCtx n k).kx = s.kx := rfl
@[simp] theorem setCtx_ky (s : State) (n : Slot) (k : Ctx) : (s.setCtx n k).ky = s.ky := rfl
@[simp] theorem setCtx_layeravail (s : State) (n : Slot) (k : Ctx) : (s.setCtx n k).layeravail = s.layeravail := rfl
@[simp] theorem setCtx_retiring (s : State) (n : Slot) (k : Ctx) : (s.setCtx n k).retiring = s.retiring := rfl
@[simp] theorem setCtx_banks (s : State) (n : Slot) (k : Ctx) : (s.setCtx n k).banks = s.banks := rfl
@[simp] theorem setCtx_spares (s : State) (n : Slot) (k : Ctx) : (s.setCtx n k).spares = s.spares := rfl
@[simp] theorem setCtx_out (s : State) (n : Slot) (k : Ctx) : (s.setCtx n k).out = s.out := rfl
@[simp] theorem setCtx_outWhenIdle (s : State) (n : Slot) (k : Ctx) : (s.setCtx n k).outWhenIdle = s.outWhenIdle := rfl
@[simp] theorem setCtx_scanFailed (s : State) (n : Slot) (k : Ctx) : (s.setCtx n k).scanFailed = s.scanFailed := rfl
@[simp] theorem setCtx_scanned (s : State) (n : Slot) (k : Ctx) : (s.setCtx n k).scanned = s.scanned := rfl
@[simp] theorem setCtx_reserve (s : State) (n : Slot) (k : Ctx) : (s.setCtx n k).reserve = s.reserve := rfl
@[simp] theorem setCtx_scans (s : State) (n : Slot) (k : Ctx) : (s.setCtx n k).scans = s.scans := rfl
@[simp] theorem setCtx_homeTurn (s : State) (n : Slot) (k : Ctx) : (s.setCtx n k).homeTurn = s.homeTurn := rfl
@[simp] theorem setCtx_cycle (s : State) (n : Slot) (k : Ctx) : (s.setCtx n k).cycle = s.cycle := rfl
@[simp] theorem setCtx_roundAt (s : State) (n : Slot) (k : Ctx) : (s.setCtx n k).roundAt = s.roundAt := rfl
@[simp] theorem setCtx_agenda (s : State) (n : Slot) (k : Ctx) : (s.setCtx n k).agenda = s.agenda := rfl
@[simp] theorem setCtx_about (s : State) (n : Slot) (k : Ctx) : (s.setCtx n k).about = s.about := rfl
@[simp] theorem setCtx_word (s : State) (n : Slot) (k : Ctx) : (s.setCtx n k).word = s.word := rfl
@[simp] theorem setCtx_fresh (s : State) (n : Slot) (k : Ctx) : (s.setCtx n k).fresh = s.fresh := rfl

@[simp] theorem modCtx_mem (s : State) (n : Slot) (f : Ctx → Ctx) : (s.modCtx n f).mem = s.mem := rfl
@[simp] theorem modCtx_poison (s : State) (n : Slot) (f : Ctx → Ctx) : (s.modCtx n f).poison = s.poison := rfl
@[simp] theorem modCtx_wbuf (s : State) (n : Slot) (f : Ctx → Ctx) : (s.modCtx n f).wbuf = s.wbuf := rfl
@[simp] theorem modCtx_soft (s : State) (n : Slot) (f : Ctx → Ctx) : (s.modCtx n f).soft = s.soft := rfl
@[simp] theorem modCtx_cores (s : State) (n : Slot) (f : Ctx → Ctx) : (s.modCtx n f).cores = s.cores := rfl
@[simp] theorem modCtx_tasks (s : State) (n : Slot) (f : Ctx → Ctx) : (s.modCtx n f).tasks = s.tasks := rfl
@[simp] theorem modCtx_nextTask (s : State) (n : Slot) (f : Ctx → Ctx) : (s.modCtx n f).nextTask = s.nextTask := rfl
@[simp] theorem modCtx_nextId (s : State) (n : Slot) (f : Ctx → Ctx) : (s.modCtx n f).nextId = s.nextId := rfl
@[simp] theorem modCtx_l0Then (s : State) (n : Slot) (f : Ctx → Ctx) : (s.modCtx n f).l0Then = s.l0Then := rfl
@[simp] theorem modCtx_mesh (s : State) (n : Slot) (f : Ctx → Ctx) : (s.modCtx n f).mesh = s.mesh := rfl
@[simp] theorem modCtx_fifo (s : State) (n : Slot) (f : Ctx → Ctx) : (s.modCtx n f).fifo = s.fifo := rfl
@[simp] theorem modCtx_kickAt (s : State) (n : Slot) (f : Ctx → Ctx) : (s.modCtx n f).kickAt = s.kickAt := rfl
@[simp] theorem modCtx_blurred (s : State) (n : Slot) (f : Ctx → Ctx) : (s.modCtx n f).blurred = s.blurred := rfl
@[simp] theorem modCtx_poolAges (s : State) (n : Slot) (f : Ctx → Ctx) : (s.modCtx n f).poolAges = s.poolAges := rfl
@[simp] theorem modCtx_periods (s : State) (n : Slot) (f : Ctx → Ctx) : (s.modCtx n f).periods = s.periods := rfl
@[simp] theorem modCtx_laneErrs (s : State) (n : Slot) (f : Ctx → Ctx) : (s.modCtx n f).laneErrs = s.laneErrs := rfl
@[simp] theorem modCtx_repairs (s : State) (n : Slot) (f : Ctx → Ctx) : (s.modCtx n f).repairs = s.repairs := rfl
@[simp] theorem modCtx_queues (s : State) (n : Slot) (f : Ctx → Ctx) : (s.modCtx n f).queues = s.queues := rfl
@[simp] theorem modCtx_kernels (s : State) (n : Slot) (f : Ctx → Ctx) : (s.modCtx n f).kernels = s.kernels := rfl
@[simp] theorem modCtx_copies (s : State) (n : Slot) (f : Ctx → Ctx) : (s.modCtx n f).copies = s.copies := rfl
@[simp] theorem modCtx_kinvs (s : State) (n : Slot) (f : Ctx → Ctx) : (s.modCtx n f).kinvs = s.kinvs := rfl
@[simp] theorem modCtx_graphs (s : State) (n : Slot) (f : Ctx → Ctx) : (s.modCtx n f).graphs = s.graphs := rfl
@[simp] theorem modCtx_items (s : State) (n : Slot) (f : Ctx → Ctx) : (s.modCtx n f).items = s.items := rfl
@[simp] theorem modCtx_deliveries (s : State) (n : Slot) (f : Ctx → Ctx) : (s.modCtx n f).deliveries = s.deliveries := rfl
@[simp] theorem modCtx_notes (s : State) (n : Slot) (f : Ctx → Ctx) : (s.modCtx n f).notes = s.notes := rfl
@[simp] theorem modCtx_tlb (s : State) (n : Slot) (f : Ctx → Ctx) : (s.modCtx n f).tlb = s.tlb := rfl
@[simp] theorem modCtx_walks (s : State) (n : Slot) (f : Ctx → Ctx) : (s.modCtx n f).walks = s.walks := rfl
@[simp] theorem modCtx_faults (s : State) (n : Slot) (f : Ctx → Ctx) : (s.modCtx n f).faults = s.faults := rfl
@[simp] theorem modCtx_pool (s : State) (n : Slot) (f : Ctx → Ctx) : (s.modCtx n f).pool = s.pool := rfl
@[simp] theorem modCtx_net (s : State) (n : Slot) (f : Ctx → Ctx) : (s.modCtx n f).net = s.net := rfl
@[simp] theorem modCtx_osessions (s : State) (n : Slot) (f : Ctx → Ctx) : (s.modCtx n f).osessions = s.osessions := rfl
@[simp] theorem modCtx_rcache (s : State) (n : Slot) (f : Ctx → Ctx) : (s.modCtx n f).rcache = s.rcache := rfl
@[simp] theorem modCtx_gangs (s : State) (n : Slot) (f : Ctx → Ctx) : (s.modCtx n f).gangs = s.gangs := rfl
@[simp] theorem modCtx_gangOuts (s : State) (n : Slot) (f : Ctx → Ctx) : (s.modCtx n f).gangOuts = s.gangOuts := rfl
@[simp] theorem modCtx_hub (s : State) (n : Slot) (f : Ctx → Ctx) : (s.modCtx n f).hub = s.hub := rfl
@[simp] theorem modCtx_kx (s : State) (n : Slot) (f : Ctx → Ctx) : (s.modCtx n f).kx = s.kx := rfl
@[simp] theorem modCtx_ky (s : State) (n : Slot) (f : Ctx → Ctx) : (s.modCtx n f).ky = s.ky := rfl
@[simp] theorem modCtx_layeravail (s : State) (n : Slot) (f : Ctx → Ctx) : (s.modCtx n f).layeravail = s.layeravail := rfl
@[simp] theorem modCtx_retiring (s : State) (n : Slot) (f : Ctx → Ctx) : (s.modCtx n f).retiring = s.retiring := rfl
@[simp] theorem modCtx_banks (s : State) (n : Slot) (f : Ctx → Ctx) : (s.modCtx n f).banks = s.banks := rfl
@[simp] theorem modCtx_spares (s : State) (n : Slot) (f : Ctx → Ctx) : (s.modCtx n f).spares = s.spares := rfl
@[simp] theorem modCtx_out (s : State) (n : Slot) (f : Ctx → Ctx) : (s.modCtx n f).out = s.out := rfl
@[simp] theorem modCtx_outWhenIdle (s : State) (n : Slot) (f : Ctx → Ctx) : (s.modCtx n f).outWhenIdle = s.outWhenIdle := rfl
@[simp] theorem modCtx_scanFailed (s : State) (n : Slot) (f : Ctx → Ctx) : (s.modCtx n f).scanFailed = s.scanFailed := rfl
@[simp] theorem modCtx_scanned (s : State) (n : Slot) (f : Ctx → Ctx) : (s.modCtx n f).scanned = s.scanned := rfl
@[simp] theorem modCtx_reserve (s : State) (n : Slot) (f : Ctx → Ctx) : (s.modCtx n f).reserve = s.reserve := rfl
@[simp] theorem modCtx_scans (s : State) (n : Slot) (f : Ctx → Ctx) : (s.modCtx n f).scans = s.scans := rfl
@[simp] theorem modCtx_homeTurn (s : State) (n : Slot) (f : Ctx → Ctx) : (s.modCtx n f).homeTurn = s.homeTurn := rfl
@[simp] theorem modCtx_cycle (s : State) (n : Slot) (f : Ctx → Ctx) : (s.modCtx n f).cycle = s.cycle := rfl
@[simp] theorem modCtx_roundAt (s : State) (n : Slot) (f : Ctx → Ctx) : (s.modCtx n f).roundAt = s.roundAt := rfl
@[simp] theorem modCtx_agenda (s : State) (n : Slot) (f : Ctx → Ctx) : (s.modCtx n f).agenda = s.agenda := rfl
@[simp] theorem modCtx_about (s : State) (n : Slot) (f : Ctx → Ctx) : (s.modCtx n f).about = s.about := rfl
@[simp] theorem modCtx_word (s : State) (n : Slot) (f : Ctx → Ctx) : (s.modCtx n f).word = s.word := rfl
@[simp] theorem modCtx_fresh (s : State) (n : Slot) (f : Ctx → Ctx) : (s.modCtx n f).fresh = s.fresh := rfl

@[simp] theorem write_soft (s : State) (a : Nat) (b : List Byte) : (s.write a b).soft = s.soft := rfl
@[simp] theorem write_cores (s : State) (a : Nat) (b : List Byte) : (s.write a b).cores = s.cores := rfl
@[simp] theorem write_tasks (s : State) (a : Nat) (b : List Byte) : (s.write a b).tasks = s.tasks := rfl
@[simp] theorem write_nextTask (s : State) (a : Nat) (b : List Byte) : (s.write a b).nextTask = s.nextTask := rfl
@[simp] theorem write_nextId (s : State) (a : Nat) (b : List Byte) : (s.write a b).nextId = s.nextId := rfl
@[simp] theorem write_mesh (s : State) (a : Nat) (b : List Byte) : (s.write a b).mesh = s.mesh := rfl
@[simp] theorem write_fifo (s : State) (a : Nat) (b : List Byte) : (s.write a b).fifo = s.fifo := rfl
@[simp] theorem write_kickAt (s : State) (a : Nat) (b : List Byte) : (s.write a b).kickAt = s.kickAt := rfl
@[simp] theorem write_blurred (s : State) (a : Nat) (b : List Byte) : (s.write a b).blurred = s.blurred := rfl
@[simp] theorem write_poolAges (s : State) (a : Nat) (b : List Byte) : (s.write a b).poolAges = s.poolAges := rfl
@[simp] theorem write_periods (s : State) (a : Nat) (b : List Byte) : (s.write a b).periods = s.periods := rfl
@[simp] theorem write_laneErrs (s : State) (a : Nat) (b : List Byte) : (s.write a b).laneErrs = s.laneErrs := rfl
@[simp] theorem write_repairs (s : State) (a : Nat) (b : List Byte) : (s.write a b).repairs = s.repairs := rfl
@[simp] theorem write_queues (s : State) (a : Nat) (b : List Byte) : (s.write a b).queues = s.queues := rfl
@[simp] theorem write_kernels (s : State) (a : Nat) (b : List Byte) : (s.write a b).kernels = s.kernels := rfl
@[simp] theorem write_copies (s : State) (a : Nat) (b : List Byte) : (s.write a b).copies = s.copies := rfl
@[simp] theorem write_kinvs (s : State) (a : Nat) (b : List Byte) : (s.write a b).kinvs = s.kinvs := rfl
@[simp] theorem write_graphs (s : State) (a : Nat) (b : List Byte) : (s.write a b).graphs = s.graphs := rfl
@[simp] theorem write_items (s : State) (a : Nat) (b : List Byte) : (s.write a b).items = s.items := rfl
@[simp] theorem write_deliveries (s : State) (a : Nat) (b : List Byte) : (s.write a b).deliveries = s.deliveries := rfl
@[simp] theorem write_notes (s : State) (a : Nat) (b : List Byte) : (s.write a b).notes = s.notes := rfl
@[simp] theorem write_tlb (s : State) (a : Nat) (b : List Byte) : (s.write a b).tlb = s.tlb := rfl
@[simp] theorem write_walks (s : State) (a : Nat) (b : List Byte) : (s.write a b).walks = s.walks := rfl
@[simp] theorem write_faults (s : State) (a : Nat) (b : List Byte) : (s.write a b).faults = s.faults := rfl
@[simp] theorem write_pool (s : State) (a : Nat) (b : List Byte) : (s.write a b).pool = s.pool := rfl
@[simp] theorem write_ctxs (s : State) (a : Nat) (b : List Byte) : (s.write a b).ctxs = s.ctxs := rfl
@[simp] theorem write_net (s : State) (a : Nat) (b : List Byte) : (s.write a b).net = s.net := rfl
@[simp] theorem write_osessions (s : State) (a : Nat) (b : List Byte) : (s.write a b).osessions = s.osessions := rfl
@[simp] theorem write_rcache (s : State) (a : Nat) (b : List Byte) : (s.write a b).rcache = s.rcache := rfl
@[simp] theorem write_gangs (s : State) (a : Nat) (b : List Byte) : (s.write a b).gangs = s.gangs := rfl
@[simp] theorem write_gangOuts (s : State) (a : Nat) (b : List Byte) : (s.write a b).gangOuts = s.gangOuts := rfl
@[simp] theorem write_hub (s : State) (a : Nat) (b : List Byte) : (s.write a b).hub = s.hub := rfl
@[simp] theorem write_kx (s : State) (a : Nat) (b : List Byte) : (s.write a b).kx = s.kx := rfl
@[simp] theorem write_ky (s : State) (a : Nat) (b : List Byte) : (s.write a b).ky = s.ky := rfl
@[simp] theorem write_layeravail (s : State) (a : Nat) (b : List Byte) : (s.write a b).layeravail = s.layeravail := rfl
@[simp] theorem write_retiring (s : State) (a : Nat) (b : List Byte) : (s.write a b).retiring = s.retiring := rfl
@[simp] theorem write_spares (s : State) (a : Nat) (b : List Byte) : (s.write a b).spares = s.spares := rfl
@[simp] theorem write_out (s : State) (a : Nat) (b : List Byte) : (s.write a b).out = s.out := rfl
@[simp] theorem write_outWhenIdle (s : State) (a : Nat) (b : List Byte) : (s.write a b).outWhenIdle = s.outWhenIdle := rfl
@[simp] theorem write_scanFailed (s : State) (a : Nat) (b : List Byte) : (s.write a b).scanFailed = s.scanFailed := rfl
@[simp] theorem write_scanned (s : State) (a : Nat) (b : List Byte) : (s.write a b).scanned = s.scanned := rfl
@[simp] theorem write_reserve (s : State) (a : Nat) (b : List Byte) : (s.write a b).reserve = s.reserve := rfl
@[simp] theorem write_scans (s : State) (a : Nat) (b : List Byte) : (s.write a b).scans = s.scans := rfl
@[simp] theorem write_homeTurn (s : State) (a : Nat) (b : List Byte) : (s.write a b).homeTurn = s.homeTurn := rfl
@[simp] theorem write_cycle (s : State) (a : Nat) (b : List Byte) : (s.write a b).cycle = s.cycle := rfl
@[simp] theorem write_roundAt (s : State) (a : Nat) (b : List Byte) : (s.write a b).roundAt = s.roundAt := rfl
@[simp] theorem write_agenda (s : State) (a : Nat) (b : List Byte) : (s.write a b).agenda = s.agenda := rfl
@[simp] theorem write_about (s : State) (a : Nat) (b : List Byte) : (s.write a b).about = s.about := rfl
@[simp] theorem write_word (s : State) (a : Nat) (b : List Byte) : (s.write a b).word = s.word := rfl
@[simp] theorem write_fresh (s : State) (a : Nat) (b : List Byte) : (s.write a b).fresh = s.fresh := rfl

@[simp] theorem modTask_mem (s : State) (t : Nat) (f : Task → Task) :
    (s.modTask t f).mem = s.mem := by unfold State.modTask; split <;> rfl
@[simp] theorem modTask_poison (s : State) (t : Nat) (f : Task → Task) :
    (s.modTask t f).poison = s.poison := by unfold State.modTask; split <;> rfl
@[simp] theorem modTask_wbuf (s : State) (t : Nat) (f : Task → Task) :
    (s.modTask t f).wbuf = s.wbuf := by unfold State.modTask; split <;> rfl
@[simp] theorem modTask_soft (s : State) (t : Nat) (f : Task → Task) :
    (s.modTask t f).soft = s.soft := by unfold State.modTask; split <;> rfl
@[simp] theorem modTask_cores (s : State) (t : Nat) (f : Task → Task) :
    (s.modTask t f).cores = s.cores := by unfold State.modTask; split <;> rfl
@[simp] theorem modTask_nextTask (s : State) (t : Nat) (f : Task → Task) :
    (s.modTask t f).nextTask = s.nextTask := by unfold State.modTask; split <;> rfl
@[simp] theorem modTask_nextId (s : State) (t : Nat) (f : Task → Task) :
    (s.modTask t f).nextId = s.nextId := by unfold State.modTask; split <;> rfl
@[simp] theorem modTask_l0Then (s : State) (t : Nat) (f : Task → Task) :
    (s.modTask t f).l0Then = s.l0Then := by unfold State.modTask; split <;> rfl
@[simp] theorem modTask_mesh (s : State) (t : Nat) (f : Task → Task) :
    (s.modTask t f).mesh = s.mesh := by unfold State.modTask; split <;> rfl
@[simp] theorem modTask_fifo (s : State) (t : Nat) (f : Task → Task) :
    (s.modTask t f).fifo = s.fifo := by unfold State.modTask; split <;> rfl
@[simp] theorem modTask_kickAt (s : State) (t : Nat) (f : Task → Task) :
    (s.modTask t f).kickAt = s.kickAt := by unfold State.modTask; split <;> rfl
@[simp] theorem modTask_blurred (s : State) (t : Nat) (f : Task → Task) :
    (s.modTask t f).blurred = s.blurred := by unfold State.modTask; split <;> rfl
@[simp] theorem modTask_poolAges (s : State) (t : Nat) (f : Task → Task) :
    (s.modTask t f).poolAges = s.poolAges := by unfold State.modTask; split <;> rfl
@[simp] theorem modTask_periods (s : State) (t : Nat) (f : Task → Task) :
    (s.modTask t f).periods = s.periods := by unfold State.modTask; split <;> rfl
@[simp] theorem modTask_laneErrs (s : State) (t : Nat) (f : Task → Task) :
    (s.modTask t f).laneErrs = s.laneErrs := by unfold State.modTask; split <;> rfl
@[simp] theorem modTask_repairs (s : State) (t : Nat) (f : Task → Task) :
    (s.modTask t f).repairs = s.repairs := by unfold State.modTask; split <;> rfl
@[simp] theorem modTask_queues (s : State) (t : Nat) (f : Task → Task) :
    (s.modTask t f).queues = s.queues := by unfold State.modTask; split <;> rfl
@[simp] theorem modTask_kernels (s : State) (t : Nat) (f : Task → Task) :
    (s.modTask t f).kernels = s.kernels := by unfold State.modTask; split <;> rfl
@[simp] theorem modTask_copies (s : State) (t : Nat) (f : Task → Task) :
    (s.modTask t f).copies = s.copies := by unfold State.modTask; split <;> rfl
@[simp] theorem modTask_kinvs (s : State) (t : Nat) (f : Task → Task) :
    (s.modTask t f).kinvs = s.kinvs := by unfold State.modTask; split <;> rfl
@[simp] theorem modTask_graphs (s : State) (t : Nat) (f : Task → Task) :
    (s.modTask t f).graphs = s.graphs := by unfold State.modTask; split <;> rfl
@[simp] theorem modTask_items (s : State) (t : Nat) (f : Task → Task) :
    (s.modTask t f).items = s.items := by unfold State.modTask; split <;> rfl
@[simp] theorem modTask_deliveries (s : State) (t : Nat) (f : Task → Task) :
    (s.modTask t f).deliveries = s.deliveries := by unfold State.modTask; split <;> rfl
@[simp] theorem modTask_notes (s : State) (t : Nat) (f : Task → Task) :
    (s.modTask t f).notes = s.notes := by unfold State.modTask; split <;> rfl
@[simp] theorem modTask_tlb (s : State) (t : Nat) (f : Task → Task) :
    (s.modTask t f).tlb = s.tlb := by unfold State.modTask; split <;> rfl
@[simp] theorem modTask_walks (s : State) (t : Nat) (f : Task → Task) :
    (s.modTask t f).walks = s.walks := by unfold State.modTask; split <;> rfl
@[simp] theorem modTask_faults (s : State) (t : Nat) (f : Task → Task) :
    (s.modTask t f).faults = s.faults := by unfold State.modTask; split <;> rfl
@[simp] theorem modTask_pool (s : State) (t : Nat) (f : Task → Task) :
    (s.modTask t f).pool = s.pool := by unfold State.modTask; split <;> rfl
@[simp] theorem modTask_ctxs (s : State) (t : Nat) (f : Task → Task) :
    (s.modTask t f).ctxs = s.ctxs := by unfold State.modTask; split <;> rfl
@[simp] theorem modTask_net (s : State) (t : Nat) (f : Task → Task) :
    (s.modTask t f).net = s.net := by unfold State.modTask; split <;> rfl
@[simp] theorem modTask_osessions (s : State) (t : Nat) (f : Task → Task) :
    (s.modTask t f).osessions = s.osessions := by unfold State.modTask; split <;> rfl
@[simp] theorem modTask_rcache (s : State) (t : Nat) (f : Task → Task) :
    (s.modTask t f).rcache = s.rcache := by unfold State.modTask; split <;> rfl
@[simp] theorem modTask_gangs (s : State) (t : Nat) (f : Task → Task) :
    (s.modTask t f).gangs = s.gangs := by unfold State.modTask; split <;> rfl
@[simp] theorem modTask_gangOuts (s : State) (t : Nat) (f : Task → Task) :
    (s.modTask t f).gangOuts = s.gangOuts := by unfold State.modTask; split <;> rfl
@[simp] theorem modTask_hub (s : State) (t : Nat) (f : Task → Task) :
    (s.modTask t f).hub = s.hub := by unfold State.modTask; split <;> rfl
@[simp] theorem modTask_kx (s : State) (t : Nat) (f : Task → Task) :
    (s.modTask t f).kx = s.kx := by unfold State.modTask; split <;> rfl
@[simp] theorem modTask_ky (s : State) (t : Nat) (f : Task → Task) :
    (s.modTask t f).ky = s.ky := by unfold State.modTask; split <;> rfl
@[simp] theorem modTask_layeravail (s : State) (t : Nat) (f : Task → Task) :
    (s.modTask t f).layeravail = s.layeravail := by unfold State.modTask; split <;> rfl
@[simp] theorem modTask_retiring (s : State) (t : Nat) (f : Task → Task) :
    (s.modTask t f).retiring = s.retiring := by unfold State.modTask; split <;> rfl
@[simp] theorem modTask_banks (s : State) (t : Nat) (f : Task → Task) :
    (s.modTask t f).banks = s.banks := by unfold State.modTask; split <;> rfl
@[simp] theorem modTask_spares (s : State) (t : Nat) (f : Task → Task) :
    (s.modTask t f).spares = s.spares := by unfold State.modTask; split <;> rfl
@[simp] theorem modTask_out (s : State) (t : Nat) (f : Task → Task) :
    (s.modTask t f).out = s.out := by unfold State.modTask; split <;> rfl
@[simp] theorem modTask_outWhenIdle (s : State) (t : Nat) (f : Task → Task) :
    (s.modTask t f).outWhenIdle = s.outWhenIdle := by unfold State.modTask; split <;> rfl
@[simp] theorem modTask_scanFailed (s : State) (t : Nat) (f : Task → Task) :
    (s.modTask t f).scanFailed = s.scanFailed := by unfold State.modTask; split <;> rfl
@[simp] theorem modTask_scanned (s : State) (t : Nat) (f : Task → Task) :
    (s.modTask t f).scanned = s.scanned := by unfold State.modTask; split <;> rfl
@[simp] theorem modTask_reserve (s : State) (t : Nat) (f : Task → Task) :
    (s.modTask t f).reserve = s.reserve := by unfold State.modTask; split <;> rfl
@[simp] theorem modTask_scans (s : State) (t : Nat) (f : Task → Task) :
    (s.modTask t f).scans = s.scans := by unfold State.modTask; split <;> rfl
@[simp] theorem modTask_homeTurn (s : State) (t : Nat) (f : Task → Task) :
    (s.modTask t f).homeTurn = s.homeTurn := by unfold State.modTask; split <;> rfl
@[simp] theorem modTask_cycle (s : State) (t : Nat) (f : Task → Task) :
    (s.modTask t f).cycle = s.cycle := by unfold State.modTask; split <;> rfl
@[simp] theorem modTask_roundAt (s : State) (t : Nat) (f : Task → Task) :
    (s.modTask t f).roundAt = s.roundAt := by unfold State.modTask; split <;> rfl
@[simp] theorem modTask_agenda (s : State) (t : Nat) (f : Task → Task) :
    (s.modTask t f).agenda = s.agenda := by unfold State.modTask; split <;> rfl
@[simp] theorem modTask_about (s : State) (t : Nat) (f : Task → Task) :
    (s.modTask t f).about = s.about := by unfold State.modTask; split <;> rfl
@[simp] theorem modTask_word (s : State) (t : Nat) (f : Task → Task) :
    (s.modTask t f).word = s.word := by unfold State.modTask; split <;> rfl
@[simp] theorem modTask_fresh (s : State) (t : Nat) (f : Task → Task) :
    (s.modTask t f).fresh = s.fresh := by unfold State.modTask; split <;> rfl

@[simp] theorem advance_mem (s : State) : (s.advance).mem = s.mem := by unfold State.advance State.stopAtEnd; split <;> rfl
@[simp] theorem advance_poison (s : State) :
    (s.advance).poison = s.poison := by unfold State.advance State.stopAtEnd; split <;> rfl
@[simp] theorem advance_wbuf (s : State) : (s.advance).wbuf = s.wbuf := by unfold State.advance State.stopAtEnd; split <;> rfl
@[simp] theorem advance_soft (s : State) : (s.advance).soft = s.soft := by unfold State.advance State.stopAtEnd; split <;> rfl
@[simp] theorem advance_tasks (s : State) :
    (s.advance).tasks = s.tasks := by unfold State.advance State.stopAtEnd; split <;> rfl
@[simp] theorem advance_nextTask (s : State) :
    (s.advance).nextTask = s.nextTask := by unfold State.advance State.stopAtEnd; split <;> rfl
@[simp] theorem advance_nextId (s : State) :
    (s.advance).nextId = s.nextId := by unfold State.advance State.stopAtEnd; split <;> rfl
@[simp] theorem advance_l0Then (s : State) :
    (s.advance).l0Then = s.l0Then := by unfold State.advance State.stopAtEnd; split <;> rfl
@[simp] theorem advance_mesh (s : State) :
    (s.advance).mesh = s.mesh := by unfold State.advance State.stopAtEnd; split <;> rfl
@[simp] theorem advance_fifo (s : State) :
    (s.advance).fifo = s.fifo := by unfold State.advance State.stopAtEnd; split <;> rfl
@[simp] theorem advance_kickAt (s : State) :
    (s.advance).kickAt = s.kickAt := by unfold State.advance State.stopAtEnd; split <;> rfl
@[simp] theorem advance_blurred (s : State) :
    (s.advance).blurred = s.blurred := by unfold State.advance State.stopAtEnd; split <;> rfl
@[simp] theorem advance_poolAges (s : State) :
    (s.advance).poolAges = s.poolAges := by unfold State.advance State.stopAtEnd; split <;> rfl
@[simp] theorem advance_periods (s : State) :
    (s.advance).periods = s.periods := by unfold State.advance State.stopAtEnd; split <;> rfl
@[simp] theorem advance_laneErrs (s : State) :
    (s.advance).laneErrs = s.laneErrs := by unfold State.advance State.stopAtEnd; split <;> rfl
@[simp] theorem advance_repairs (s : State) :
    (s.advance).repairs = s.repairs := by unfold State.advance State.stopAtEnd; split <;> rfl
@[simp] theorem advance_queues (s : State) :
    (s.advance).queues = s.queues := by unfold State.advance State.stopAtEnd; split <;> rfl
@[simp] theorem advance_kernels (s : State) :
    (s.advance).kernels = s.kernels := by unfold State.advance State.stopAtEnd; split <;> rfl
@[simp] theorem advance_copies (s : State) :
    (s.advance).copies = s.copies := by unfold State.advance State.stopAtEnd; split <;> rfl
@[simp] theorem advance_kinvs (s : State) :
    (s.advance).kinvs = s.kinvs := by unfold State.advance State.stopAtEnd; split <;> rfl
@[simp] theorem advance_graphs (s : State) :
    (s.advance).graphs = s.graphs := by unfold State.advance State.stopAtEnd; split <;> rfl
@[simp] theorem advance_items (s : State) :
    (s.advance).items = s.items := by unfold State.advance State.stopAtEnd; split <;> rfl
@[simp] theorem advance_deliveries (s : State) :
    (s.advance).deliveries = s.deliveries := by unfold State.advance State.stopAtEnd; split <;> rfl
@[simp] theorem advance_notes (s : State) :
    (s.advance).notes = s.notes := by unfold State.advance State.stopAtEnd; split <;> rfl
@[simp] theorem advance_tlb (s : State) : (s.advance).tlb = s.tlb := by unfold State.advance State.stopAtEnd; split <;> rfl
@[simp] theorem advance_walks (s : State) :
    (s.advance).walks = s.walks := by unfold State.advance State.stopAtEnd; split <;> rfl
@[simp] theorem advance_faults (s : State) :
    (s.advance).faults = s.faults := by unfold State.advance State.stopAtEnd; split <;> rfl
@[simp] theorem advance_pool (s : State) : (s.advance).pool = s.pool := by unfold State.advance State.stopAtEnd; split <;> rfl
@[simp] theorem advance_ctxs (s : State) : (s.advance).ctxs = s.ctxs := by unfold State.advance State.stopAtEnd; split <;> rfl
@[simp] theorem advance_net (s : State) : (s.advance).net = s.net := by unfold State.advance State.stopAtEnd; split <;> rfl
@[simp] theorem advance_osessions (s : State) :
    (s.advance).osessions = s.osessions := by unfold State.advance State.stopAtEnd; split <;> rfl
@[simp] theorem advance_rcache (s : State) :
    (s.advance).rcache = s.rcache := by unfold State.advance State.stopAtEnd; split <;> rfl
@[simp] theorem advance_gangs (s : State) :
    (s.advance).gangs = s.gangs := by unfold State.advance State.stopAtEnd; split <;> rfl
@[simp] theorem advance_gangOuts (s : State) :
    (s.advance).gangOuts = s.gangOuts := by unfold State.advance State.stopAtEnd; split <;> rfl
@[simp] theorem advance_hub (s : State) : (s.advance).hub = s.hub := by unfold State.advance State.stopAtEnd; split <;> rfl
@[simp] theorem advance_kx (s : State) : (s.advance).kx = s.kx := by unfold State.advance State.stopAtEnd; split <;> rfl
@[simp] theorem advance_ky (s : State) : (s.advance).ky = s.ky := by unfold State.advance State.stopAtEnd; split <;> rfl
@[simp] theorem advance_layeravail (s : State) :
    (s.advance).layeravail = s.layeravail := by unfold State.advance State.stopAtEnd; split <;> rfl
@[simp] theorem advance_retiring (s : State) :
    (s.advance).retiring = s.retiring := by unfold State.advance State.stopAtEnd; split <;> rfl
@[simp] theorem advance_banks (s : State) :
    (s.advance).banks = s.banks := by unfold State.advance State.stopAtEnd; split <;> rfl
@[simp] theorem advance_spares (s : State) :
    (s.advance).spares = s.spares := by unfold State.advance State.stopAtEnd; split <;> rfl
@[simp] theorem advance_out (s : State) : (s.advance).out = s.out := by unfold State.advance State.stopAtEnd; split <;> rfl
@[simp] theorem advance_outWhenIdle (s : State) :
    (s.advance).outWhenIdle = s.outWhenIdle := by unfold State.advance State.stopAtEnd; split <;> rfl
@[simp] theorem advance_scanFailed (s : State) :
    (s.advance).scanFailed = s.scanFailed := by unfold State.advance State.stopAtEnd; split <;> rfl
@[simp] theorem advance_scanned (s : State) :
    (s.advance).scanned = s.scanned := by unfold State.advance State.stopAtEnd; split <;> rfl
@[simp] theorem advance_reserve (s : State) :
    (s.advance).reserve = s.reserve := by unfold State.advance State.stopAtEnd; split <;> rfl
@[simp] theorem advance_scans (s : State) :
    (s.advance).scans = s.scans := by unfold State.advance State.stopAtEnd; split <;> rfl
@[simp] theorem advance_homeTurn (s : State) :
    (s.advance).homeTurn = s.homeTurn := by unfold State.advance State.stopAtEnd; split <;> rfl
@[simp] theorem advance_cycle (s : State) :
    (s.advance).cycle = s.cycle := by unfold State.advance State.stopAtEnd; split <;> rfl
@[simp] theorem advance_roundAt (s : State) :
    (s.advance).roundAt = s.roundAt := by unfold State.advance State.stopAtEnd; split <;> rfl
@[simp] theorem advance_agenda (s : State) :
    (s.advance).agenda = s.agenda := by unfold State.advance State.stopAtEnd; split <;> rfl
@[simp] theorem advance_about (s : State) :
    (s.advance).about = s.about := by unfold State.advance State.stopAtEnd; split <;> rfl
@[simp] theorem advance_word (s : State) : (s.advance).word = s.word := by unfold State.advance State.stopAtEnd; split <;> rfl
@[simp] theorem advance_fresh (s : State) :
    (s.advance).fresh = s.fresh := by unfold State.advance State.stopAtEnd; split <;> rfl

@[simp] theorem goto_mem (s : State) (a : VAddr) : (s.goto a).mem = s.mem := by unfold State.goto State.stopAtEnd; split <;> rfl
@[simp] theorem goto_poison (s : State) (a : VAddr) :
    (s.goto a).poison = s.poison := by unfold State.goto State.stopAtEnd; split <;> rfl
@[simp] theorem goto_wbuf (s : State) (a : VAddr) :
    (s.goto a).wbuf = s.wbuf := by unfold State.goto State.stopAtEnd; split <;> rfl
@[simp] theorem goto_soft (s : State) (a : VAddr) :
    (s.goto a).soft = s.soft := by unfold State.goto State.stopAtEnd; split <;> rfl
@[simp] theorem goto_tasks (s : State) (a : VAddr) :
    (s.goto a).tasks = s.tasks := by unfold State.goto State.stopAtEnd; split <;> rfl
@[simp] theorem goto_nextTask (s : State) (a : VAddr) :
    (s.goto a).nextTask = s.nextTask := by unfold State.goto State.stopAtEnd; split <;> rfl
@[simp] theorem goto_nextId (s : State) (a : VAddr) :
    (s.goto a).nextId = s.nextId := by unfold State.goto State.stopAtEnd; split <;> rfl
@[simp] theorem goto_l0Then (s : State) (a : VAddr) :
    (s.goto a).l0Then = s.l0Then := by unfold State.goto State.stopAtEnd; split <;> rfl
@[simp] theorem goto_mesh (s : State) (a : VAddr) :
    (s.goto a).mesh = s.mesh := by unfold State.goto State.stopAtEnd; split <;> rfl
@[simp] theorem goto_fifo (s : State) (a : VAddr) :
    (s.goto a).fifo = s.fifo := by unfold State.goto State.stopAtEnd; split <;> rfl
@[simp] theorem goto_kickAt (s : State) (a : VAddr) :
    (s.goto a).kickAt = s.kickAt := by unfold State.goto State.stopAtEnd; split <;> rfl
@[simp] theorem goto_blurred (s : State) (a : VAddr) :
    (s.goto a).blurred = s.blurred := by unfold State.goto State.stopAtEnd; split <;> rfl
@[simp] theorem goto_poolAges (s : State) (a : VAddr) :
    (s.goto a).poolAges = s.poolAges := by unfold State.goto State.stopAtEnd; split <;> rfl
@[simp] theorem goto_periods (s : State) (a : VAddr) :
    (s.goto a).periods = s.periods := by unfold State.goto State.stopAtEnd; split <;> rfl
@[simp] theorem goto_laneErrs (s : State) (a : VAddr) :
    (s.goto a).laneErrs = s.laneErrs := by unfold State.goto State.stopAtEnd; split <;> rfl
@[simp] theorem goto_repairs (s : State) (a : VAddr) :
    (s.goto a).repairs = s.repairs := by unfold State.goto State.stopAtEnd; split <;> rfl
@[simp] theorem goto_queues (s : State) (a : VAddr) :
    (s.goto a).queues = s.queues := by unfold State.goto State.stopAtEnd; split <;> rfl
@[simp] theorem goto_kernels (s : State) (a : VAddr) :
    (s.goto a).kernels = s.kernels := by unfold State.goto State.stopAtEnd; split <;> rfl
@[simp] theorem goto_copies (s : State) (a : VAddr) :
    (s.goto a).copies = s.copies := by unfold State.goto State.stopAtEnd; split <;> rfl
@[simp] theorem goto_kinvs (s : State) (a : VAddr) :
    (s.goto a).kinvs = s.kinvs := by unfold State.goto State.stopAtEnd; split <;> rfl
@[simp] theorem goto_graphs (s : State) (a : VAddr) :
    (s.goto a).graphs = s.graphs := by unfold State.goto State.stopAtEnd; split <;> rfl
@[simp] theorem goto_items (s : State) (a : VAddr) :
    (s.goto a).items = s.items := by unfold State.goto State.stopAtEnd; split <;> rfl
@[simp] theorem goto_deliveries (s : State) (a : VAddr) :
    (s.goto a).deliveries = s.deliveries := by unfold State.goto State.stopAtEnd; split <;> rfl
@[simp] theorem goto_notes (s : State) (a : VAddr) :
    (s.goto a).notes = s.notes := by unfold State.goto State.stopAtEnd; split <;> rfl
@[simp] theorem goto_tlb (s : State) (a : VAddr) : (s.goto a).tlb = s.tlb := by unfold State.goto State.stopAtEnd; split <;> rfl
@[simp] theorem goto_walks (s : State) (a : VAddr) :
    (s.goto a).walks = s.walks := by unfold State.goto State.stopAtEnd; split <;> rfl
@[simp] theorem goto_faults (s : State) (a : VAddr) :
    (s.goto a).faults = s.faults := by unfold State.goto State.stopAtEnd; split <;> rfl
@[simp] theorem goto_pool (s : State) (a : VAddr) :
    (s.goto a).pool = s.pool := by unfold State.goto State.stopAtEnd; split <;> rfl
@[simp] theorem goto_ctxs (s : State) (a : VAddr) :
    (s.goto a).ctxs = s.ctxs := by unfold State.goto State.stopAtEnd; split <;> rfl
@[simp] theorem goto_net (s : State) (a : VAddr) : (s.goto a).net = s.net := by unfold State.goto State.stopAtEnd; split <;> rfl
@[simp] theorem goto_osessions (s : State) (a : VAddr) :
    (s.goto a).osessions = s.osessions := by unfold State.goto State.stopAtEnd; split <;> rfl
@[simp] theorem goto_rcache (s : State) (a : VAddr) :
    (s.goto a).rcache = s.rcache := by unfold State.goto State.stopAtEnd; split <;> rfl
@[simp] theorem goto_gangs (s : State) (a : VAddr) :
    (s.goto a).gangs = s.gangs := by unfold State.goto State.stopAtEnd; split <;> rfl
@[simp] theorem goto_gangOuts (s : State) (a : VAddr) :
    (s.goto a).gangOuts = s.gangOuts := by unfold State.goto State.stopAtEnd; split <;> rfl
@[simp] theorem goto_hub (s : State) (a : VAddr) : (s.goto a).hub = s.hub := by unfold State.goto State.stopAtEnd; split <;> rfl
@[simp] theorem goto_kx (s : State) (a : VAddr) : (s.goto a).kx = s.kx := by unfold State.goto State.stopAtEnd; split <;> rfl
@[simp] theorem goto_ky (s : State) (a : VAddr) : (s.goto a).ky = s.ky := by unfold State.goto State.stopAtEnd; split <;> rfl
@[simp] theorem goto_layeravail (s : State) (a : VAddr) :
    (s.goto a).layeravail = s.layeravail := by unfold State.goto State.stopAtEnd; split <;> rfl
@[simp] theorem goto_retiring (s : State) (a : VAddr) :
    (s.goto a).retiring = s.retiring := by unfold State.goto State.stopAtEnd; split <;> rfl
@[simp] theorem goto_banks (s : State) (a : VAddr) :
    (s.goto a).banks = s.banks := by unfold State.goto State.stopAtEnd; split <;> rfl
@[simp] theorem goto_spares (s : State) (a : VAddr) :
    (s.goto a).spares = s.spares := by unfold State.goto State.stopAtEnd; split <;> rfl
@[simp] theorem goto_out (s : State) (a : VAddr) : (s.goto a).out = s.out := by unfold State.goto State.stopAtEnd; split <;> rfl
@[simp] theorem goto_outWhenIdle (s : State) (a : VAddr) :
    (s.goto a).outWhenIdle = s.outWhenIdle := by unfold State.goto State.stopAtEnd; split <;> rfl
@[simp] theorem goto_scanFailed (s : State) (a : VAddr) :
    (s.goto a).scanFailed = s.scanFailed := by unfold State.goto State.stopAtEnd; split <;> rfl
@[simp] theorem goto_scanned (s : State) (a : VAddr) :
    (s.goto a).scanned = s.scanned := by unfold State.goto State.stopAtEnd; split <;> rfl
@[simp] theorem goto_reserve (s : State) (a : VAddr) :
    (s.goto a).reserve = s.reserve := by unfold State.goto State.stopAtEnd; split <;> rfl
@[simp] theorem goto_scans (s : State) (a : VAddr) :
    (s.goto a).scans = s.scans := by unfold State.goto State.stopAtEnd; split <;> rfl
@[simp] theorem goto_homeTurn (s : State) (a : VAddr) :
    (s.goto a).homeTurn = s.homeTurn := by unfold State.goto State.stopAtEnd; split <;> rfl
@[simp] theorem goto_cycle (s : State) (a : VAddr) :
    (s.goto a).cycle = s.cycle := by unfold State.goto State.stopAtEnd; split <;> rfl
@[simp] theorem goto_roundAt (s : State) (a : VAddr) :
    (s.goto a).roundAt = s.roundAt := by unfold State.goto State.stopAtEnd; split <;> rfl
@[simp] theorem goto_agenda (s : State) (a : VAddr) :
    (s.goto a).agenda = s.agenda := by unfold State.goto State.stopAtEnd; split <;> rfl
@[simp] theorem goto_about (s : State) (a : VAddr) :
    (s.goto a).about = s.about := by unfold State.goto State.stopAtEnd; split <;> rfl
@[simp] theorem goto_word (s : State) (a : VAddr) :
    (s.goto a).word = s.word := by unfold State.goto State.stopAtEnd; split <;> rfl
@[simp] theorem goto_fresh (s : State) (a : VAddr) :
    (s.goto a).fresh = s.fresh := by unfold State.goto State.stopAtEnd; split <;> rfl

end Sys2Proof.Machine
end

