-- ==== Sys2Proof/Laws/Records.lean ====
section
/-! SUPPORT. What posting a record can change: memory, the context's counters and held records, the notifications of counters and the
RID of a page fault; and what taking a trap can change. Each lemma says once everything the operation can do. -/

namespace Sys2Proof.Machine

/-- Nothing but memory, the pool's ages and DIRTY bits, the error log, contexts, page faults' RIDs and notifications differs. -/
structure RecordOnly (s t : State) : Prop where
  soft : t.soft = s.soft
  cores : t.cores = s.cores
  tasks : t.tasks = s.tasks
  nextTask : t.nextTask = s.nextTask
  nextId : t.nextId = s.nextId
  mesh : t.mesh = s.mesh
  fifo : t.fifo = s.fifo
  kickAt : t.kickAt = s.kickAt
  blurred : t.blurred = s.blurred
  poolAges : t.poolAges = s.poolAges
  periods : t.periods = s.periods
  laneErrs : t.laneErrs = s.laneErrs
  repairs : t.repairs = s.repairs
  queues : t.queues = s.queues
  kernels : t.kernels = s.kernels
  copies : t.copies = s.copies
  kinvs : t.kinvs = s.kinvs
  graphs : t.graphs = s.graphs
  items : t.items = s.items
  deliveries : t.deliveries = s.deliveries
  tlb : t.tlb = s.tlb
  walks : t.walks = s.walks
  net : t.net = s.net
  osessions : t.osessions = s.osessions
  rcache : t.rcache = s.rcache
  gangs : t.gangs = s.gangs
  gangOuts : t.gangOuts = s.gangOuts
  kx : t.kx = s.kx
  ky : t.ky = s.ky
  layeravail : t.layeravail = s.layeravail
  retiring : t.retiring = s.retiring
  spares : t.spares = s.spares
  out : t.out = s.out
  outWhenIdle : t.outWhenIdle = s.outWhenIdle
  scanFailed : t.scanFailed = s.scanFailed
  scanned : t.scanned = s.scanned
  reserve : t.reserve = s.reserve
  scans : t.scans = s.scans
  homeTurn : t.homeTurn = s.homeTurn
  cycle : t.cycle = s.cycle
  roundAt : t.roundAt = s.roundAt
  agenda : t.agenda = s.agenda
  about : t.about = s.about
  word : t.word = s.word
  fresh : t.fresh = s.fresh

theorem RecordOnly.refl (s : State) : RecordOnly s s := by constructor <;> rfl

theorem RecordOnly.trans {s t u : State} (h : RecordOnly s t) (g : RecordOnly t u) : RecordOnly s u where
  soft := g.soft.trans h.soft
  cores := g.cores.trans h.cores
  tasks := g.tasks.trans h.tasks
  nextTask := g.nextTask.trans h.nextTask
  nextId := g.nextId.trans h.nextId
  mesh := g.mesh.trans h.mesh
  fifo := g.fifo.trans h.fifo
  kickAt := g.kickAt.trans h.kickAt
  blurred := g.blurred.trans h.blurred
  poolAges := g.poolAges.trans h.poolAges
  periods := g.periods.trans h.periods
  laneErrs := g.laneErrs.trans h.laneErrs
  repairs := g.repairs.trans h.repairs
  queues := g.queues.trans h.queues
  kernels := g.kernels.trans h.kernels
  copies := g.copies.trans h.copies
  kinvs := g.kinvs.trans h.kinvs
  graphs := g.graphs.trans h.graphs
  items := g.items.trans h.items
  deliveries := g.deliveries.trans h.deliveries
  tlb := g.tlb.trans h.tlb
  walks := g.walks.trans h.walks
  net := g.net.trans h.net
  osessions := g.osessions.trans h.osessions
  rcache := g.rcache.trans h.rcache
  gangs := g.gangs.trans h.gangs
  gangOuts := g.gangOuts.trans h.gangOuts
  kx := g.kx.trans h.kx
  ky := g.ky.trans h.ky
  layeravail := g.layeravail.trans h.layeravail
  retiring := g.retiring.trans h.retiring
  spares := g.spares.trans h.spares
  out := g.out.trans h.out
  outWhenIdle := g.outWhenIdle.trans h.outWhenIdle
  scanFailed := g.scanFailed.trans h.scanFailed
  scanned := g.scanned.trans h.scanned
  reserve := g.reserve.trans h.reserve
  scans := g.scans.trans h.scans
  homeTurn := g.homeTurn.trans h.homeTurn
  cycle := g.cycle.trans h.cycle
  roundAt := g.roundAt.trans h.roundAt
  agenda := g.agenda.trans h.agenda
  about := g.about.trans h.about
  word := g.word.trans h.word
  fresh := g.fresh.trans h.fresh

theorem RecordOnly.core {s t : State} (h : RecordOnly s t) (c : Nat) : t.core c = s.core c := by
  unfold State.core
  rw [h.cores]

theorem modCtx_recordOnly (s : State) (slot : Slot) (f : Ctx → Ctx) : RecordOnly s (s.modCtx slot f) := by
  constructor <;> rfl

theorem write_recordOnly (s : State) (a : Nat) (b : List Byte) : RecordOnly s (s.write a b) := by
  constructor <;> rfl

theorem foldl_recordOnly {α : Type} (f : State → α → State) (hf : ∀ s a, RecordOnly s (f s a)) (l : List α) (s : State) :
    RecordOnly s (l.foldl f s) := by
  induction l generalizing s with
  | nil => exact .refl s
  | cons a t ih => exact (hf s a).trans (ih _)

theorem touch_recordOnly (s : State) (a : Nat) (b : Bool) : RecordOnly s (s.touch a b) := by
  have p : ∀ x, RecordOnly s { s with pool := x } := by intro x; constructor <;> rfl
  unfold State.touch
  exact (p _).trans (foldl_recordOnly _ (fun _ _ => write_recordOnly ..) _ _)

theorem hubPut_recordOnly (s : State) (a : Nat) (b : List Byte) : RecordOnly s (s.hubPut a b) :=
  (write_recordOnly ..).trans (touch_recordOnly ..)

theorem poisonErr_recordOnly (s : State) (src : Option Nat) (c : Nat) (slot : Slot) (addr : X64) :
    RecordOnly s (s.poisonErr src c slot addr) := by
  unfold State.poisonErr
  split
  · constructor <;> rfl
  · exact .refl s

theorem seqAdd_recordOnly (s : State) (key n : Nat) : RecordOnly s (s.seqAdd key n).1 := by
  have g : ∀ v : Nat, RecordOnly s (((s.write key (natBytes v 8)).touch key true).notify key (BitVec.ofNat 64 v)) := by
    intro v
    refine (hubPut_recordOnly s key (natBytes v 8)).trans ?_
    constructor <;> rfl
  unfold State.seqAdd
  dsimp only
  split <;> exact g _

theorem backCtx_recordOnly (s : State) (slot : Slot) : RecordOnly s (s.backCtx slot) := by
  unfold State.backCtx
  exact (hubPut_recordOnly ..).trans (hubPut_recordOnly ..)

theorem logLines_recordOnly (s : State) (slot : Slot) (l : List Nat) (u : State) (h : s.logLines slot l = some u) :
    RecordOnly s u := by
  induction l generalizing s with
  | nil =>
    cases h
    exact .refl _
  | cons a t ih =>
    unfold State.logLines at h
    dsimp only at h
    split at h
    · exact ih _ h
    · split at h
      · cases h
      · exact (((write_recordOnly ..).trans (modCtx_recordOnly ..)).trans (backCtx_recordOnly ..)).trans (ih _ h)

theorem addRecord_recordOnly (s : State) (slot : Slot) (a : HubAdd) (cause : BitVec 8) (addr : X64) :
    RecordOnly s (s.addRecord slot a cause addr) := by
  unfold State.addRecord
  dsimp only
  split
  · exact .refl s
  · exact modCtx_recordOnly ..

theorem payAdd_recordOnly (s : State) (slot : Slot) (a : HubAdd) (u : State) (h : s.payAdd slot a = some u) :
    RecordOnly s u := by
  unfold State.payAdd at h
  split at h
  · cases h
    exact (poisonErr_recordOnly ..).trans (addRecord_recordOnly ..)
  · split at h
    · cases h
    · rename_i v hv
      have g : RecordOnly s v := by
        split at hv
        · exact logLines_recordOnly _ _ _ _ hv
        · cases hv
          exact .refl s
      have k := g.trans (seqAdd_recordOnly v a.key 1)
      generalize v.seqAdd a.key 1 = x at h k
      obtain ⟨x, y⟩ := x
      cases y <;> cases h
      · exact k
      · exact k.trans (addRecord_recordOnly ..)

theorem hubAdd_recordOnly (s : State) (slot : Slot) (a : HubAdd) : RecordOnly s (s.hubAdd slot a) := by
  unfold State.hubAdd
  split
  · exact modCtx_recordOnly ..
  · split
    · exact payAdd_recordOnly _ _ _ _ ‹_›
    · exact modCtx_recordOnly ..

theorem faults_recordOnly (s : State) (x : List PFault) : RecordOnly s { s with faults := x } := by
  constructor <;> rfl

theorem post_recordOnly (s : State) (slot : Slot) (h : Held) : RecordOnly s (s.post slot h) := by
  unfold State.post
  extract_lets k rid u v w
  have g : RecordOnly s v := (write_recordOnly ..).trans (modCtx_recordOnly ..)
  have r : RecordOnly s w := by
    unfold w
    split
    · exact g.trans (faults_recordOnly ..)
    · exact g
  split
  · exact r
  · split
    · exact r.trans (hubAdd_recordOnly ..)
    · exact r

theorem pumpCtx_recordOnly (s : State) (slot : Slot) (l : List Held) : RecordOnly s (s.pumpCtx slot l) := by
  induction l generalizing s with
  | nil => exact modCtx_recordOnly ..
  | cons h t ih =>
    unfold State.pumpCtx
    split
    · exact (post_recordOnly s slot h).trans (ih _)
    · exact modCtx_recordOnly ..

theorem pump_recordOnly (s : State) (slot : Slot) : RecordOnly s (s.pump slot) := pumpCtx_recordOnly ..

theorem pumpAll_recordOnly (s : State) : RecordOnly s s.pumpAll := foldl_recordOnly _ (fun s _ => pump_recordOnly s _) _ _

theorem record_recordOnly (s : State) (slot : Slot) (h : Held) : RecordOnly s (s.record slot h) :=
  (modCtx_recordOnly ..).trans (pump_recordOnly ..)

theorem nocore_recordOnly (s : State) (slot : Slot) (cause : BitVec 8) (addr detail : X64) (q : BitVec 18) (card : BitVec 32)
    (a : Bool) : RecordOnly s (s.nocore slot cause addr detail q card a) := record_recordOnly ..

theorem async_recordOnly (s : State) (slot : Slot) (t : Trap) (core : Nat) (pc : VAddr) (st : Stream) (task : Option Task) :
    RecordOnly s (s.async slot t core pc st task) := record_recordOnly ..

/-- Taking a trap writes TCAUSE, TPC and TSTREAM of its core, and ends the stall of its stream; of every core nothing else. -/
theorem raiseAt_core (s : State) (c n : Nat) (st : Stream) (pc : VAddr) (pend : Option VAddr) (t : Trap) :
    (s.raiseAt c st pc pend t).core n =
      if n = c then
        ({ s.core c with tcause := t.cause, tpc := pc, tstream := BitVec.ofNat 2 st.num }).setSeq st
          { (s.core c).seq st with stall := none }
      else s.core n := by
  have e : ∀ u : State, (u.modSeq c st fun q => { q with stall := none }).core n =
      if n = c then (u.core c).setSeq st { (u.core c).seq st with stall := none } else u.core n := by
    intro u
    by_cases h : n = c
    · subst h; simp [State.modSeq]
    · simp [State.modSeq, h]
  have p : ∀ (u : State) (x : Option Nat) (slot : Slot) (a : X64), (u.poisonErr x c slot a).core n = u.core n := by
    intro u x slot a
    unfold State.poisonErr
    split <;> rfl
  unfold State.raiseAt
  dsimp only
  split
  · rw [p, e]
    by_cases h : n = c
    · subst h; simp [Core.seq]
    · simp [h]
  · rw [(record_recordOnly ..).core]
    have f : ∀ (u : State) (x : Nat) (y : Freeze), (u.freeze x y).core n = u.core n := by
      intro u x y
      unfold State.core State.freeze
      rw [modTask_cores]
    rw [f]
    change (State.poisonErr _ _ _ _ _).core n = _
    rw [p, e]
    by_cases h : n = c
    · subst h; simp [Core.seq]
    · simp [h]

end Sys2Proof.Machine
end

