-- ==== Sys2Proof/Tests/Slice0.lean ====
section
/-! SUPPORT. Tests: ill-formed terms that each check refuses, words written out from the spec's encodings, single steps with results that
the spec writes out or that follow by hand, and states that meet the hypotheses of the statements. -/

namespace Sys2Proof.Tests
open Sys2Proof.Machine
set_option Elab.async false

/-! ### Ill-formed terms are refused (R149 to R165) -/

theorem test_wf_condition_code : (Instr.cmp 12 1 2 3).wf = false ∧ (Instr.cmp 11 1 2 3).wf = true := by decide
theorem test_wf_steer_register : (Instr.prep 12 4).wf = false ∧ (Instr.prep 11 4).wf = true := by decide
theorem test_wf_steer_sources : (Instr.jand 1 12 2).wf = false ∧ (Instr.jor 1 2 13).wf = false := by decide
theorem test_wf_call_through_itself : (Instr.xferl 2 2).wf = false ∧ (Instr.xferl 2 3).wf = true := by decide
theorem test_wf_loop_skip : (Instr.loop 0 1 1).wf = false ∧ (Instr.loop 0 1 2).wf = true := by decide
theorem test_wf_loopc_max : (Instr.loopc 0 1 0).wf = false ∧ (Instr.loopc 0 1 1).wf = true := by decide
theorem test_wf_token_stream : (Instr.tksend 1 0).wf = false ∧ (Instr.tkrecv 1 0).wf = false := by decide
theorem test_wf_load_order : (Instr.ldxPlace 1 2 9 6 0).wf = false ∧ (Instr.ldxPlace 1 2 6 6 0).wf = true := by decide
theorem test_wf_store_order : (Instr.stxPlace 1 2 1 6 0).wf = false ∧ (Instr.stxPlace 1 2 9 6 0).wf = true := by decide
theorem test_wf_load_type : (Instr.ldxPlace 1 2 0 7 0).wf = false := by decide
theorem test_wf_store_type : (Instr.stxPlace 1 2 0 1 0).wf = false := by decide
theorem test_wf_pair_register : (Instr.ldxpPlace 3 2 0 0).wf = false ∧ (Instr.ldxpPlace 4 2 0 0).wf = true := by decide
theorem test_wf_atomic_order : (Instr.ataddPlace 1 2 3 15 0).wf = false ∧ (Instr.ataddPlace 1 2 3 10 0).wf = true := by decide
theorem test_wf_atomic_pair : (Instr.ataddHandle 1 2 3 0 0).wf = false ∧ (Instr.ataddHandle 1 2 4 0 0).wf = true := by decide
theorem test_wf_split_register : (Instr.splnt 11).wf = false ∧ (Instr.splnt 10).wf = true := by decide
theorem test_wf_scope : (Instr.fenceSc 6).wf = false ∧ (Instr.fenceSc 5).wf = true := by decide
theorem test_wf_csr_number : (Instr.csrr 1 0x006).wf = false ∧ (Instr.csrw 1 0x035).wf = false := by decide
theorem test_wf_waita_limit : (Instr.waita 1 0 ⟨0, 0⟩).wf = false := by decide
theorem test_wf_loop_count_and_payload : (Instr.loopDA 0 2 1 ⟨1, 0⟩).wf = false ∧ (Instr.loopDA 0 2 0 ⟨1, 0⟩).wf = true := by decide
theorem test_wf_prep_and_payload : (Instr.prepDA 0 1 ⟨1, 0⟩).wf = false := by decide
theorem test_wf_transient_reduction : (Instr.vrsum ⟨1, 2, 0, 1, ⟨0, 0⟩⟩).wf = false := by decide
theorem test_wf_predicate_zero : (Instr.vcmp ⟨0, 0, 1, 2, 0, ⟨0, 0⟩⟩).wf = false ∧ (Instr.pset 0 4 ⟨0, 0⟩).wf = false := by decide
theorem test_wf_lane_condition : (Instr.vcmp ⟨1, 6, 1, 2, 0, ⟨0, 0⟩⟩).wf = false ∧ (Instr.fcmp ⟨1, 7, 1, 2, 0, ⟨0, 0⟩⟩).wf = false := by
  decide
theorem test_wf_conversion_format : (Instr.vcvtRne ⟨1, 2, 0x13, 0, 0, 0, ⟨0, 0⟩⟩).wf = false := by decide
theorem test_wf_saturation : (Instr.vnarrow ⟨1, 2, 0x10, 1, 0, 0, ⟨0, 0⟩⟩).wf = false := by decide
theorem test_wf_pixel_format : (Instr.pxunp ⟨1, 2, 0x18, 0, 0, 0, ⟨0, 0⟩⟩).wf = false := by decide
theorem test_wf_rounding : (Instr.vtype 0x11 5 ⟨0, 0⟩).wf = false := by decide
theorem test_wf_matrix_format : (Instr.mcfg 0x06 0x0F ⟨0, 0⟩).wf = false := by decide
theorem test_wf_descriptor_token : (Instr.mwl ⟨2, 0⟩).wf = false := by decide
theorem test_wf_rep_count : (Instr.rep 65 0 0 0).wf = false := by decide
theorem test_wf_stream : (Instr.stv 0 0 0 ⟨0, 0⟩).inStream .l = false ∧ (Instr.rep 1 0 0 0).inStream .c = false := by decide

/-! ### Words written out from the encodings (chapters 05 to 16) -/

/-- `ldx x5, [x1 + 0]`: major 0x20, xd 5, base 1, xb 0, ORD 0, type 6, imm4 0 (Table 6.10). -/
theorem test_decode_ldx : decode .c 0b100000_00101_00001_00000_0000_110_0000#32 = some (.ldxPlace 5 1 0 6 0) := by decide
/-- `atadd.s32.rel.grp x4, [h2 + x7], x6`: major 0x29, xd 4, base 2, xb 6, ORD 0xA, fn 0, sz 0 (Table 6.10). -/
theorem test_decode_atadd : decode .c 0xA4823500#32 = some (.ataddHandle 4 2 6 0xA 0) := by decide
/-- `addi x4, x0, 100` (chapter 10's patch point). -/
theorem test_decode_addi : decode .c 0x18800064#32 = some (.addi 4 0 100) := by decide
/-- `lim x2, hw0(dst)` with 0x1000 (chapter 07). -/
theorem test_decode_lim : decode .c 0x28401000#32 = some (.lim 2 0x1000) := by decide
/-- `cmp.eq j1, x5, x3` and `xfer.t j1` (chapter 06). -/
theorem test_decode_cmp : decode .c 0x40051880#32 = some (.cmp 0 5 3 1) ∧ decode .c 0x54000081#32 = some (.xferT 1) := by decide
/-- `loop lp1, x8, end`, `loopc lp0, j1, 100` and `lend lp2` (Table 6.13). -/
theorem test_decode_loops : decode .c 0x61080006#32 = some (.loop 1 8 6) ∧ decode .c 0x640000E4#32 = some (.loopc 0 1 100) ∧
    decode .c 0x6A000000#32 = some (.lend 2) := by decide
/-- `tksend x5 >a` (R198) and `tkrecv x3 <s` (chapter 07). -/
theorem test_decode_tokens : decode .c 0x70050040#32 = some (.tksend 5 2) ∧ decode .c 0x74600060#32 = some (.tkrecv 3 3) := by decide
/-- `csrr x9, 0x004`, `trap 7`, `iinv x10, x11`, `eret`, `halt` and `dbgbrk` (Table 6.13). -/
theorem test_decode_system : decode .c 0xF5200040#32 = some (.csrr 9 4) ∧ decode .c 0xF8000381#32 = some (.trap 7) ∧
    decode .c 0xF80A5803#32 = some (.iinv 10 11) ∧ decode .c 0xF8000002#32 = some .eret ∧ decode .c 0xF8000004#32 = some .halt ∧
    decode .c 0xF8000005#32 = some .dbgbrk := by decide
/-- `texit`, `gsync`, `kinv x8`, `spawn x3, x4` and `kick x5, x6` (chapters 10 to 12). -/
theorem test_decode_objects : decode .c 0xC0000003#32 = some .texit ∧ decode .c 0xC4000000#32 = some .gsync ∧
    decode .c 0xC0080000#32 = some (.kinv 8) ∧ decode .c 0xC0640001#32 = some (.spawn 3 4) ∧
    decode .c 0xC0053002#32 = some (.kick 5 6) := by decide
/-- `bwait x10, x14`, `btest x9, x10` and `sqwait x20, x22, x23` (Table 13.4). -/
theorem test_decode_barriers : decode .c 0xC80A7003#32 = some (.bwait 10 14) ∧ decode .c 0xC92A0004#32 = some (.btest 9 10) ∧
    decode .c 0xCAF4B006#32 = some (.sqwait 20 22 23) := by decide
/-- `hrd x9, h3`, `hshoot x10, x12` and `poolscan x9, x12` (Table 14.3). -/
theorem test_decode_pages : decode .c 0xCD230002#32 = some (.hrd 9 3) ∧ decode .c 0xCC0A6004#32 = some (.hshoot 10 12) ∧
    decode .c 0xCD2C0007#32 = some (.poolscan 9 12) := by decide
/-- `ckpt x9`, `ctxsave x11`, `lsopen x9, x10` and `gang x12, x13` (chapters 15 and 16). -/
theorem test_decode_links : decode .c 0xD1200000#32 = some (.ckpt 9) ∧ decode .c 0xD00B0002#32 = some (.ctxsave 11) ∧
    decode .c 0xD52A0000#32 = some (.lsopen 9 10) ∧ decode .c 0xD40C6804#32 = some (.gang 12 13) := by decide
/-- `cpy [x7]`, `cpym [h2 + x5]`, `scrb [x9]` and `nvwr [x7]` (Table 9.7). -/
theorem test_decode_engines : decode .c 0xE0070004#32 = some (.cpyPlace 7) ∧ decode .c 0xE0022810#32 = some (.cpymHandle 2 5) ∧
    decode .c 0xE009002C#32 = some (.scrbPlace 9) ∧ decode .c 0xE007003C#32 = some (.nvwrPlace 7) := by decide
/-- `ldv v40, [a3 + 0x1c0] <c >a` (Table 5.12) and `ldvd v4, [a2], 1` (R218). -/
theorem test_decode_row_loads : decode .l 0x06830076#32 = some (.ldv 40 3 7 ⟨1, 2⟩) ∧
    decode .l 0x08428000#32 = some (.ldvd 4 2 1 0 ⟨0, 0⟩) := by decide
/-- `fence.d.pkg`, `lfence >c`, `xfer.t j1 <c` and `ainc a0, 0 <c` in the S-stream (chapter 07). -/
theorem test_decode_store_stream : decode .s 0x24000030#32 = some (.fenceD 3 ⟨0, 0⟩) ∧ decode .s 0x50000001#32 = some (.lfence ⟨0, 1⟩) ∧
    decode .s 0xF1400004#32 = some (.xferTDA 1 ⟨1, 0⟩) ∧ decode .s 0x2C000004#32 = some (.ainc 0 0 ⟨1, 0⟩) := by decide
/-- `(p3) fadd.t v50, v48, v49 <l` and `rep 16, +1, +1, 0` (Table 5.12). -/
theorem test_decode_lanes : decode .a 0x672C3178#32 = some (.fadd ⟨50, 48, 49, 3, 1, ⟨2, 0⟩⟩) ∧
    decode .a 0xC4828000#32 = some (.rep 16 1 1 0) := by decide
/-- `vslide v3, v4, 5`, `vnarrow.sat v2, v1, s8`, `vtype n16, .rne` and `pset p5, 16` (chapter 08). -/
theorem test_decode_vectors : decode .a 0xAC310500#32 = some (.vslide ⟨3, 4, 5, 0, 0, ⟨0, 0⟩⟩) ∧
    decode .a 0x9C204500#32 = some (.vnarrow ⟨2, 1, 2, 1, 0, 0, ⟨0, 0⟩⟩) ∧ decode .a 0xBCA00000#32 = some (.vtype 5 0 ⟨0, 0⟩) ∧
    decode .a 0xB68010C0#32 = some (.pset 5 16 ⟨0, 0⟩) := by decide
/-- The words of Table 5.13 that raise ILLEGAL_OP, and the one that is a nop. -/
theorem test_decode_illegal : decode .c 0xFC000001#32 = none ∧ decode .s 0xFC000001#32 = some (.nopDA ⟨0, 1⟩) ∧
    decode .l 0x40000000#32 = none ∧ decode .c 0#32 = none := by decide

/-! ### States that meet the hypotheses of the statements

Each `witness_` theorem shows, for the statement that it names, concrete states and operands that meet the hypotheses of its clauses,
at values where the clauses meet. They say nothing of what the machine does. -/

/-- Core 0 runs a P1 task of context 0, and its stream `st` executes next. -/
def base (st : Stream) : State := { State.reset.placeWord 0 st with about := { core := 0, stream := st } }

/-- The same with core 0 changed. -/
def onCore (f : Core → Core) (s : State) : State := s.modCore 0 f

/-- The same with the sequencer of the stream changed. -/
def onSeq (st : Stream) (f : Seq → Seq) : State := (base st).modSeq 0 st f

/-- Steer register j1 holds `r`. -/
def steer1 (st : Stream) (r : Steer) : State := (base st).modSteer 0 st 1 fun _ => r

/-- Register x`n` of core 0 holds `v`. -/
def setReg (n : Nat) (v : X64) (s : State) : State := s.modCore 0 fun k => { k with x := vset k.x n v }

/-- Context 0 changed. -/
def onCtx (f : Ctx → Ctx) (s : State) : State := s.modCtx 0 f

/-- Task 0 changed. -/
def onTask (f : Task → Task) (s : State) : State := s.modTask 0 f

/-- Level 1 of the hardware loops holds `l`. -/
def level1 (st : Stream) (l : Level) : State := onSeq st fun q => { q with lp := vset q.lp 1 (some l) }

/-- A delay slot. -/
def inDelaySlot (st : Stream) : State := onSeq st fun q => { q with slot := true }

/-- A translation to the tower page of layer T1 of column 0. -/
def page : Trans := { size := 0, base := 0x1000000000000, r := true, w := true }

/-- Handle h3 is VALID. -/
def withHandle (s : State) : State := s.modCore 0 fun k => { k with h := vset k.h 3 { st := .valid, va := 0x10000, tr := some page } }

/-- The result of a check is `.ok v`. -/
def isOk {ε α : Type} [DecidableEq α] (e : Except ε α) (v : α) : Bool := match e with | .ok w => decide (w = v) | .error _ => false

theorem ok_of {ε α : Type} [DecidableEq α] {e : Except ε α} {v : α} (h : isOk e v = true) : e = .ok v := by
  unfold isOk at h; split at h
  · rw [of_decide_eq_true h]
  · cases h

/-- A check fails. -/
def fails {ε α : Type} (e : Except ε α) : Bool := match e with | .ok _ => false | .error _ => true

theorem error_of {ε α : Type} {e : Except ε α} (h : fails e = true) : ∃ t, e = .error t := by
  cases e with
  | ok v => cases h
  | error t => exact ⟨t, rfl⟩

/-- A check passes with a value of which `f` holds. -/
def okIs {ε α : Type} (e : Except ε α) (f : α → Bool) : Bool := match e with | .ok v => f v | .error _ => false

theorem ok_with {ε α : Type} {e : Except ε α} {f : α → Bool} (h : okIs e f = true) : ∃ v, e = .ok v ∧ f v = true := by
  cases e with
  | ok v => exact ⟨v, rfl, h⟩
  | error t => cases h

theorem passes_of {ε α : Type} {e : Except ε α} (h : fails e = false) : ∃ v, e = .ok v := by
  cases e with
  | ok v => exact ⟨v, rfl⟩
  | error t => cases h

/-- A use of a handle or an object comes to the key `k`. -/
def isKey (u : Use) (k : Nat) : Bool := match u with | .key l _ _ => decide (l = k) | _ => false

theorem key_of {u : Use} {k : Nat} (h : isKey u k = true) : ∃ t s, u = .key k t s := by
  cases u with
  | key l t s => exact ⟨t, s, by rw [of_decide_eq_true h]⟩
  | _ => cases h

/-- None of `n` bytes from a key on is indeterminate. -/
def noHole (s : State) (key n : Nat) : Bool := (List.range n).all fun j => !s.poolHole (key + j)

theorem no_hole {s : State} {key n : Nat} (h : noHole s key n = true) : ∀ a, key ≤ a → a < key + n → s.poolHole a = false := by
  intro a h1 h2
  have := List.all_eq_true.mp h (a - key) (List.mem_range.mpr (by omega))
  rwa [show key + (a - key) = a by omega, Bool.not_eq_true'] at this

/-- The machine with its task at P0. -/
def atP0 (s : State) : State := onCtx (fun k => { k with desc := { k.desc with priv := 0 } }) s


theorem witness_registers_and_frame : intDest (.add 1 2 3) = some 1 ∧ ∃ t, Gives (.add 1 2 3) (base .c) t := ⟨rfl, _, rfl⟩

/-- A zero divisor, one that is not, the one overflow, and a division in progress. -/
theorem witness_integer_registers : (∃ s : State, s.x 2 = 0) ∧ (∃ s : State, s.x 2 ≠ 0) ∧
    (∃ s : State, s.x 1 = BitVec.intMin 64 ∧ s.x 2 = BitVec.ofInt 64 (-1)) ∧ ∃ s : State, (s.core s.me).div = some (0, 7) :=
  ⟨⟨base .c, by decide⟩, ⟨setReg 2 1 (base .c), by decide⟩,
    ⟨setReg 1 (BitVec.intMin 64) (setReg 2 (BitVec.ofInt 64 (-1)) (base .c)), by decide⟩,
    ⟨onCore (fun k => { k with div := some (0, 7) }) (base .c), by decide⟩⟩

/-- A delay slot with its Pending target, and the word before the end of a section. -/
theorem witness_next_instruction : (∃ s : State, (s.seq s.me s.st).slot = true ∧ (s.seq s.me s.st).pending ≠ none) ∧
    ∃ s : State, (s.seq s.me s.st).slot = false ∧ (s.advance.seq s.me s.st).pc = s.sectionEnd s.me s.st :=
  ⟨⟨onSeq .c fun q => { q with slot := true, pending := some (0x400084, {}) }, by decide⟩,
    ⟨onSeq .c fun q => { q with pc := 0x400088 }, by decide⟩⟩

/-- The last condition code, aligned and misaligned targets, and a register to copy that is EMPTY and one that is not. -/
theorem witness_steer_registers : (∃ s : State, ([s.x 1 == s.x 2, s.x 1 != s.x 2])[(1 : BitVec 5).toNat]? = some false) ∧
    (∃ s : State, (s.pc + 4 * (BitVec.allOnes 22).signExtend 56).toNat % 4 = 0) ∧
    (∃ s : State, (s.pc + 4 * (0 : BitVec 22).signExtend 56).toNat % 4 ≠ 0) ∧
    (∃ s : State, (fld (s.x 1) 0 56 : VAddr).toNat % 4 = 0) ∧ (∃ s : State, (fld (s.x 1) 0 56 : VAddr).toNat % 4 ≠ 0) ∧
    (∃ s : State, (s.myJ (1 : BitVec 4).toNat).st = .empty) ∧ ∃ s : State, (s.myJ (1 : BitVec 4).toNat).st ≠ .empty :=
  ⟨⟨base .c, by decide⟩, ⟨base .c, by decide⟩, ⟨onSeq .c fun q => { q with pc := 0x400082 }, by decide⟩,
    ⟨setReg 1 0x1000 (base .c), by decide⟩, ⟨setReg 1 0x1002 (base .c), by decide⟩, ⟨base .c, by decide⟩,
    ⟨steer1 .c { st := .stale }, by decide⟩⟩

/-- Every state of the target half and of the condition half, outside and in a delay slot. -/
theorem witness_transfers :
    (∃ s : State, s.inSlot = false ∧ (s.myJ 1).st = .ready ∧ (s.myJ 1).cond = .true) ∧
    (∃ s : State, s.inSlot = false ∧ (s.myJ 1).st = .ready ∧ (s.myJ 1).cond = .false) ∧
    (∃ s : State, s.inSlot = false ∧ (s.myJ 1).st ≠ .empty ∧ (s.myJ 1).cond = .true) ∧
    (∃ s : State, s.inSlot = false ∧ (s.myJ 1).st ≠ .empty ∧ (s.myJ 1).cond = .unset) ∧
    (∃ s : State, s.inSlot = false ∧ (s.myJ 1).st = .empty) ∧ (∃ s : State, s.inSlot = false ∧ (s.myJ 1).st = .fetching) ∧
    (∃ s : State, s.inSlot = false ∧ (s.myJ 1).st = .stale) ∧ (∃ s : State, s.inSlot = true) ∧
    (∃ s : State, s.inSlot = false ∧ (s.myJ 1).st = .fetching ∧ (s.myJ 1).cond = .true) ∧
    (∃ s : State, s.inSlot = false ∧ (s.myJ 1).st = .fetching ∧ (s.myJ 1).cond = .false) ∧
    (∃ s : State, s.inSlot = false ∧ (s.myJ 1).st = .stale ∧ (s.myJ 1).cond = .true) ∧
    ∃ s : State, s.inSlot = false ∧ (s.myJ 1).st = .stale ∧ (s.myJ 1).cond = .false :=
  ⟨⟨steer1 .c { st := .ready, cond := .true }, by decide⟩, ⟨steer1 .c { st := .ready, cond := .false }, by decide⟩,
    ⟨steer1 .c { st := .fetching, cond := .true }, by decide⟩, ⟨steer1 .c { st := .ready }, by decide⟩, ⟨base .c, by decide⟩,
    ⟨steer1 .c { st := .fetching }, by decide⟩, ⟨steer1 .c { st := .stale }, by decide⟩, ⟨inDelaySlot .c, by decide⟩,
    ⟨steer1 .c { st := .fetching, cond := .true }, by decide⟩, ⟨steer1 .c { st := .fetching, cond := .false }, by decide⟩,
    ⟨steer1 .c { st := .stale, cond := .true }, by decide⟩, ⟨steer1 .c { st := .stale, cond := .false }, by decide⟩⟩

/-- A count of 0 and of 1, no level, a counted level at its last round and before, one that ends elsewhere, and conditional levels
with each condition, with rounds left and without. -/
theorem witness_hardware_loops :
    (∃ s : State, s.inSlot = false ∧ s.x 1 = 0) ∧ (∃ s : State, s.inSlot = false ∧ s.x 1 ≠ 0) ∧
    (∃ s : State, s.inSlot = false ∧ s.level 1 = none) ∧
    (∃ s : State, s.inSlot = false ∧ s.level 1 = some (.count 0x400000 s.pc 1)) ∧
    (∃ s : State, s.inSlot = false ∧ s.level 1 = some (.count 0x400000 s.pc 2)) ∧
    (∃ s : State, s.inSlot = false ∧ s.level 1 = some (.count 0x400000 0x400084 1) ∧ (0x400084 : VAddr) ≠ s.pc) ∧
    (∃ s : State, s.inSlot = false ∧ s.level 1 = some (.cond 0x400000 (some 0x400084) 1 1 1) ∧ (some 0x400084 : Option VAddr) ≠ some s.pc) ∧
    (∃ s : State, s.inSlot = false ∧ s.level 1 = some (.cond 0x400000 none 1 1 1) ∧ (s.myJ 1).cond = .unset) ∧
    (∃ s : State, s.inSlot = false ∧ s.level 1 = some (.cond 0x400000 (some s.pc) 1 1 1) ∧ (s.myJ 1).cond = .true) ∧
    (∃ s : State, s.inSlot = false ∧ s.level 1 = some (.cond 0x400000 (some s.pc) 1 1 1) ∧ (s.myJ 1).cond = .false) ∧
    (∃ s : State, s.inSlot = false ∧ s.level 1 = some (.cond 0x400000 (some s.pc) 1 1 2) ∧ (s.myJ 1).cond = .false) :=
  let cond (stop : Option VAddr) (max : Nat) (c : Cond) : State :=
    (level1 .c (.cond 0x400000 stop 1 1 max)).modSteer 0 .c 1 fun r => { r with cond := c }
  ⟨⟨base .c, by decide⟩, ⟨setReg 1 1 (base .c), by decide⟩, ⟨base .c, by decide⟩,
    ⟨level1 .c (.count 0x400000 0x400080 1), by decide⟩, ⟨level1 .c (.count 0x400000 0x400080 2), by decide⟩,
    ⟨level1 .c (.count 0x400000 0x400084 1), by decide⟩, ⟨cond (some 0x400084) 1 .true, by decide⟩,
    ⟨cond none 1 .unset, by decide⟩, ⟨cond (some 0x400080) 1 .true, by decide⟩, ⟨cond (some 0x400080) 1 .false, by decide⟩,
    ⟨cond (some 0x400080) 2 .false, by decide⟩⟩

/-- The A-stream with a token that pops from the C-stream: a payload of 0, one that is not, and none; a target that is aligned and one that is
not; a register in each state with each condition, and a delay slot; no level, levels that end here and elsewhere, and a conditional level with each
condition, with rounds left and without. -/
theorem witness_data_stream_control :
    (∃ s : State, s.tokWait ⟨1, 0⟩ false = none ∧ s.inSlot = false ∧ (s.payload ⟨1, 0⟩).getD 5 = 0) ∧
    (∃ s : State, s.tokWait ⟨1, 0⟩ false = none ∧ s.inSlot = false ∧ s.payload ⟨1, 0⟩ = some 1) ∧
    (∃ s : State, s.tokWait ⟨0, 0⟩ false = none ∧ s.inSlot = false ∧ s.payload ⟨0, 0⟩ = none) ∧
    (∃ s : State, s.tokWait ⟨0, 0⟩ false = none ∧ s.inSlot = false ∧ (s.myJ 1).st = .ready ∧ (s.myJ 1).cond = .true) ∧
    (∃ s : State, s.tokWait ⟨0, 0⟩ false = none ∧ s.inSlot = false ∧ (s.myJ 1).st = .ready ∧ (s.myJ 1).cond = .false) ∧
    (∃ s : State, s.tokWait ⟨0, 0⟩ false = none ∧ s.inSlot = false ∧ s.level 1 = some (.count 0x400000 s.pc 1)) ∧
    (∃ s : State, s.tokWait ⟨0, 0⟩ false = none ∧ s.inSlot = false ∧ s.level 1 = some (.count 0x400000 s.pc 2)) ∧
    (∃ s : State, s.tokWait ⟨0, 0⟩ false = none ∧ s.inSlot = false ∧ s.level 1 = some (.cond 0x400000 (some s.pc) 1 1 2) ∧ (s.myJ 1).cond = .true) ∧
    (∃ s : State, s.tokWait ⟨0, 0⟩ false = none ∧ s.inSlot = false ∧ s.level 1 = some (.cond 0x400000 (some s.pc) 1 1 2) ∧ (s.myJ 1).cond = .false) ∧
    (∃ s : State, s.tokWait ⟨0, 0⟩ false = none ∧ (s.pc + 4 * (0 : BitVec 22).signExtend 56).toNat % 4 = 0) ∧
    (∃ s : State, s.tokWait ⟨0, 0⟩ false = none ∧ (s.pc + 4 * (0 : BitVec 22).signExtend 56).toNat % 4 ≠ 0) ∧
    (∃ s : State, s.tokWait ⟨0, 0⟩ false = none ∧ s.inSlot = true) ∧
    (∃ s : State, s.tokWait ⟨0, 0⟩ false = none ∧ s.inSlot = false ∧ (s.myJ 1).st = .empty ∧ s.level 1 = none) ∧
    (∃ s : State, s.tokWait ⟨0, 0⟩ false = none ∧ s.inSlot = false ∧ (s.myJ 1).st ≠ .empty ∧ (s.myJ 1).cond = .unset) ∧
    (∃ s : State, s.tokWait ⟨0, 0⟩ false = none ∧ s.inSlot = false ∧ (s.myJ 1).st = .fetching ∧ (s.myJ 1).cond = .true) ∧
    (∃ s : State, s.tokWait ⟨0, 0⟩ false = none ∧ s.inSlot = false ∧ (s.myJ 1).st = .fetching ∧ (s.myJ 1).cond = .false) ∧
    (∃ s : State, s.tokWait ⟨0, 0⟩ false = none ∧ s.inSlot = false ∧ (s.myJ 1).st = .stale ∧ (s.myJ 1).cond = .true) ∧
    (∃ s : State, s.tokWait ⟨0, 0⟩ false = none ∧ s.inSlot = false ∧ (s.myJ 1).st = .stale ∧ (s.myJ 1).cond = .false) ∧
    (∃ s : State, s.tokWait ⟨0, 0⟩ false = none ∧ s.inSlot = false ∧ s.level 1 = some (.count 0x400000 0x400084 1) ∧ (0x400084 : VAddr) ≠ s.pc) ∧
    (∃ s : State, s.tokWait ⟨0, 0⟩ false = none ∧ s.inSlot = false ∧ s.level 1 = some (.cond 0x400000 (some 0x400084) 1 1 2) ∧
      (some 0x400084 : Option VAddr) ≠ some s.pc) ∧
    (∃ s : State, s.tokWait ⟨0, 0⟩ false = none ∧ s.inSlot = false ∧ s.level 1 = some (.cond 0x400000 none 1 1 2) ∧ (s.myJ 1).cond = .unset) ∧
    (∃ s : State, s.tokWait ⟨0, 0⟩ false = none ∧ s.inSlot = false ∧ s.level 1 = some (.cond 0x400000 (some s.pc) 1 1 1) ∧ (s.myJ 1).cond = .false) :=
  let level (stop : Option VAddr) (max : Nat) (c : Cond) : State :=
    (level1 .a (.cond 0x400000 stop 1 1 max)).modSteer 0 .a 1 fun r => { r with cond := c }
  let cond (c : Cond) : State := level (some 0x400080) 2 c
  ⟨⟨onCore (fun k => k.setTq 0 2 [0]) (base .a), by decide⟩, ⟨onCore (fun k => k.setTq 0 2 [1]) (base .a), by decide⟩,
    ⟨base .a, by decide⟩, ⟨steer1 .a { st := .ready, cond := .true }, by decide⟩,
    ⟨steer1 .a { st := .ready, cond := .false }, by decide⟩, ⟨level1 .a (.count 0x400000 0x400080 1), by decide⟩,
    ⟨level1 .a (.count 0x400000 0x400080 2), by decide⟩, ⟨cond .true, by decide⟩, ⟨cond .false, by decide⟩, ⟨base .a, by decide⟩,
    ⟨onSeq .a fun q => { q with pc := 0x400082 }, by decide⟩, ⟨inDelaySlot .a, by decide⟩, ⟨base .a, by decide⟩,
    ⟨steer1 .a { st := .ready }, by decide⟩, ⟨steer1 .a { st := .fetching, cond := .true }, by decide⟩,
    ⟨steer1 .a { st := .fetching, cond := .false }, by decide⟩, ⟨steer1 .a { st := .stale, cond := .true }, by decide⟩,
    ⟨steer1 .a { st := .stale, cond := .false }, by decide⟩, ⟨level1 .a (.count 0x400000 0x400084 1), by decide⟩,
    ⟨level (some 0x400084) 2 .true, by decide⟩, ⟨level none 2 .unset, by decide⟩, ⟨level (some 0x400080) 1 .false, by decide⟩⟩

/-- A register that is FETCHING and one that is not, the one delivery there is, and none. -/
theorem witness_steer_events : (∃ s : State, (s.myJ s.about.n).st = .fetching) ∧ (∃ s : State, (s.myJ s.about.n).st ≠ .fetching) ∧
    (∃ (s : State) (d : Delivery), s.deliveries[s.about.k]? = some d ∧
      ∀ e ∈ s.deliveries.take s.about.k, ¬ (e.core = d.core ∧ e.stream = d.stream ∧ e.j = d.j)) ∧
    ∃ s : State, s.deliveries[s.about.k]? = none :=
  ⟨⟨{ steer1 .c { st := .fetching } with about := { n := 1 } }, by decide⟩, ⟨base .c, by decide⟩,
    ⟨{ base .c with deliveries := [⟨0, .l, 1, 0x400000⟩] }, ⟨0, .l, 1, 0x400000⟩, by decide⟩, ⟨base .c, by decide⟩⟩

/-- A queue with room, a full one, one with a token of an earlier cycle, ordered or not, one with a token of this cycle, and an empty one; a
token to pop and none, and a queue to push that is full. -/
theorem witness_tokens :
    (∃ s : State, s.fenceRel 0 = true ∧ ((s.core s.me).tq 0 1).length < 15) ∧
    (∃ s : State, s.fenceRel 0 = true ∧ 15 ≤ ((s.core s.me).tq 0 1).length) ∧
    (∃ s : State, (s.core s.me).poppable 1 0 = [7] ∧ s.edge s.me 1 7 = true) ∧
    (∃ s : State, (s.core s.me).poppable 1 0 = [7] ∧ s.edge s.me 1 7 = false) ∧
    (∃ s : State, (s.core s.me).poppable 1 0 = [] ∧ (s.core s.me).tq 1 0 = [7]) ∧ (∃ s : State, (s.core s.me).tq 1 0 = []) ∧
    (∃ s : State, s.st ≠ .c ∧ (s.core s.me).poppable (tokOther s.st 1) s.st.num = []) ∧
    (∃ s : State, s.st ≠ .c ∧ 15 ≤ ((s.core s.me).tq s.st.num (tokOther s.st 1)).length ∧ (s.core s.me).allStopped = false) :=
  ⟨⟨base .c, by decide⟩, ⟨onCore (fun k => k.setTq 0 1 (List.replicate 15 0)) (base .c), by decide⟩,
    ⟨onCore (fun k => k.setTq 1 0 [7]) (base .c), by decide⟩,
    ⟨onCore (fun k => { k.setTq 1 0 [7] with lReads := [{ no := 6 }] }) (base .c), by decide⟩,
    ⟨onCore (fun k => { k.setTq 1 0 [7] with tokNew := vset k.tokNew 4 1 }) (base .c), by decide⟩, ⟨base .c, by decide⟩, ⟨base .a, by decide⟩,
    ⟨onCore (fun k => k.setTq 2 0 (List.replicate 15 0)) (base .a), by decide +kernel⟩⟩

/-- The last 8 bytes of the own L0, one byte beyond them, a misaligned pair, and a handle to a page of the tower. -/
theorem witness_scalar_loads :
    (∃ s : State, (s.core s.me).cReads.length < 16 ∧ s.place s.me 0x7FFF0 (offOf 0x7FFF0 + 8) 8 8 = .ok (keyL0 0 0x7FFF8)) ∧
    (∃ s : State, (s.core s.me).cReads.length < 16 ∧ s.place s.me 0x7FFF0 (offOf 0x7FFF0) 16 16 = .ok (keyL0 0 0x7FFF0)) ∧
    (∃ (s : State) (t : Trap), (s.core s.me).cReads.length < 16 ∧ s.place s.me 0x7FFF8 (offOf 0x7FFF8) 16 16 = .error t) ∧
    (∃ (s : State) (t : Trap), (s.core s.me).cReads.length < 16 ∧ s.place s.me 0x7FFF8 (offOf 0x7FFF8 + 8) 8 8 = .error t) ∧
    (∃ (s u : State) (t : Trans), (s.core s.me).cReads.length < 16 ∧
      (s.atVa 3 0xFFF8).handleUse 3 0xFFF8 8 0 = .key 0x100000000FFF8 t u) ∧
    ∃ (s u : State) (t : Trans), (s.core s.me).cReads.length < 16 ∧ (s.atVa 3 0).handleUse 3 0 16 0 = .key 0x1000000000000 t u :=
  ⟨⟨base .c, by decide, ok_of (by decide +kernel)⟩, ⟨base .c, by decide, ok_of (by decide +kernel)⟩,
    have ⟨t, h⟩ := error_of (e := (base .c).place (base .c).me 0x7FFF8 (offOf 0x7FFF8) 16 16) (by decide +kernel)
    ⟨base .c, t, by decide, h⟩,
    have ⟨t, h⟩ := error_of (e := (base .c).place (base .c).me 0x7FFF8 (offOf 0x7FFF8 + 8) 8 8) (by decide +kernel)
    ⟨base .c, t, by decide, h⟩,
    have ⟨t, u, h⟩ := key_of (show isKey ((withHandle (base .c)).atVa 3 0xFFF8 |>.handleUse 3 0xFFF8 8 0) 0x100000000FFF8 = true by decide +kernel)
    ⟨withHandle (base .c), u, t, by decide, h⟩,
    have ⟨t, u, h⟩ := key_of (show isKey ((withHandle (base .c)).atVa 3 0 |>.handleUse 3 0 16 0) 0x1000000000000 = true by decide +kernel)
    ⟨withHandle (base .c), u, t, by decide, h⟩⟩
/-- A store of the last 8 bytes of the own L0, a pair, and a misaligned one; the handle forms; and stores that can become visible, of the own
L0, of a page of the pool that is clean, and of the second tier when it has arrived. -/
theorem witness_scalar_stores :
    let shows (s : State) (e : Store) (key : Nat) : Prop := Memory.wf s.mem = true ∧ s.st = .c ∧ s.about.k = 0 ∧ s.about.rid ≠ 2 ∧
      s.about.isLoad = false ∧ (s.core s.me).cStores = [e] ∧ e.pieces = [(key, [1])] ∧ e.remote = false ∧ e.log = false ∧
      isHub key = false ∧ s.cReady s.me 0 = true ∧ (s.ctx (s.slotOf s.me)).held = []
    (∃ s : State, (s.core s.me).cStores.length < 16 ∧ s.place s.me 0x7FFF0 (offOf 0x7FFF0 + 8) 8 8 = .ok (keyL0 0 0x7FFF8)) ∧
    (∃ s : State, (s.core s.me).cStores.length < 16 ∧ s.place s.me 0x7FFF0 (offOf 0x7FFF0) 16 16 = .ok (keyL0 0 0x7FFF0)) ∧
    (∃ (s : State) (t : Trap), (s.core s.me).cStores.length < 16 ∧ s.place s.me 0x7FFF8 (offOf 0x7FFF8) 16 16 = .error t) ∧
    (∃ (s : State) (t : Trap), (s.core s.me).cStores.length < 16 ∧ s.place s.me 0x7FFF8 (offOf 0x7FFF8 + 8) 8 8 = .error t) ∧
    (∃ (s u : State) (t : Trans), (s.core s.me).cStores.length < 16 ∧
      (s.atVa 3 0xFFF8).handleUse 3 0xFFF8 8 1 = .key 0x100000000FFF8 t u) ∧
    (∃ (s u : State) (t : Trans), (s.core s.me).cStores.length < 16 ∧ (s.atVa 3 0).handleUse 3 0 16 1 = .key 0x1000000000000 t u) ∧
    (∃ s e, shows s e (keyL0 0 0x7FFFF) ∧ farKey s.me (keyL0 0 0x7FFFF) = false ∧ s.pool = []) ∧
    (∃ s e, shows s e 0x1000000000000 ∧ farKey s.me 0x1000000000000 = false ∧ ∃ x ∈ s.pool, x.2.soils 0x1000000000000 = true) ∧
    ∃ s e, shows s e 0x10000000 ∧ placeOfKey 0x10000000 = none ∧ e.arrived = true :=
  let e (key : Nat) (a : Bool) : Store := { pieces := [(key, [1])], arrived := a }
  let buffers (e : Store) : State := onCore (fun k => { k with cStores := [e] }) (base .c)
  ⟨⟨base .c, by decide, ok_of (by decide +kernel)⟩, ⟨base .c, by decide, ok_of (by decide +kernel)⟩,
    have ⟨t, h⟩ := error_of (e := (base .c).place (base .c).me 0x7FFF8 (offOf 0x7FFF8) 16 16) (by decide +kernel)
    ⟨base .c, t, by decide, h⟩,
    have ⟨t, h⟩ := error_of (e := (base .c).place (base .c).me 0x7FFF8 (offOf 0x7FFF8 + 8) 8 8) (by decide +kernel)
    ⟨base .c, t, by decide, h⟩,
    have ⟨t, u, h⟩ := key_of (show isKey (((withHandle (base .c)).atVa 3 0xFFF8).handleUse 3 0xFFF8 8 1) 0x100000000FFF8 = true
      by decide +kernel)
    ⟨withHandle (base .c), u, t, by decide, h⟩,
    have ⟨t, u, h⟩ := key_of (show isKey (((withHandle (base .c)).atVa 3 0).handleUse 3 0 16 1) 0x1000000000000 = true
      by decide +kernel)
    ⟨withHandle (base .c), u, t, by decide, h⟩,
    ⟨buffers (e (keyL0 0 0x7FFFF) false), e (keyL0 0 0x7FFFF) false, by decide +kernel⟩,
    ⟨{ buffers (e 0x1000000000000 false) with pool := [(0, { st := .resident, pa := 0x1000000000000 })] }, e 0x1000000000000 false,
      by decide +kernel⟩,
    ⟨buffers (e 0x10000000 true), e 0x10000000 true, by decide +kernel⟩⟩

/-- The last 4 and the last 8 bytes of the own L0, the last 8 of a page, and an atomic on 8 bytes. -/
theorem witness_atomics :
    (∃ s : State, (s.core s.me).cReads.length < 16 ∧ s.place s.me 0x7FFFC (offOf 0x7FFFC) 4 4 = .ok (keyL0 0 0x7FFFC)) ∧
    (∃ s : State, (s.core s.me).cReads.length < 16 ∧ s.place s.me 0x7FFF8 (offOf 0x7FFF8) 8 8 = .ok (keyL0 0 0x7FFF8)) ∧
    (∃ (s u : State) (t : Trans), (s.core s.me).cReads.length < 16 ∧
      (s.atVa 3 0xFFF8).handleUse 3 0xFFF8 8 2 = .key 0x100000000FFF8 t u) ∧
    ∃ (s : State) (r : Read) (a : Atom), Memory.wf s.mem = true ∧ r.atom = some a ∧ r.pieces = [(keyL0 0 0, 8)] ∧ r.log = false ∧
      noHole s (keyL0 0 0) 8 = true ∧ poisonIn s (keyL0 0 0) 8 = none :=
  ⟨⟨base .c, by decide, ok_of (by decide +kernel)⟩, ⟨base .c, by decide, ok_of (by decide +kernel)⟩,
    have ⟨t, u, h⟩ := key_of (show isKey (((withHandle (base .c)).atVa 3 0xFFF8).handleUse 3 0xFFF8 8 2) 0x100000000FFF8 = true
      by decide +kernel)
    ⟨withHandle (base .c), u, t, by decide, h⟩,
    ⟨base .c, { atom := some ⟨2, 1, 0⟩, pieces := [(keyL0 0 0, 8)] }, ⟨2, 1, 0⟩, by decide +kernel⟩⟩

/-- Fences that complete and that wait, for loads, for stores and for a fence that loads have passed; a fence.d of each stream that completes and
that waits, that has no token to pop, that pops one, whose queue is empty, and that has popped and whose stores were visible before, with room for its
push and without; an lfence with a store before it and without, and one whose stores are visible, with room for its token and without, and one
whose stores are not; and a stalled fence, which issues again or, of a release, is passed. -/
theorem witness_fences :
    (∃ s : State, (∀ r ∈ (s.core s.me).cReads, r.value.isSome = true) ∧
      ∀ e ∈ (s.core s.me).cStores, s.storeIn s.me 3 e = false) ∧
    (∃ s : State, ¬ ∀ r ∈ (s.core s.me).cReads, r.value.isSome = true) ∧
    (∃ s : State, ¬ ∀ e ∈ (s.core s.me).cStores, s.storeIn s.me 3 e = false) ∧
    (∃ s : State, ∀ f ∈ (s.core s.me).rels, (s.core s.me).accNo < f.2 ∨ s.relOver s.me f = true) ∧
    (∃ s : State, ¬ ∀ f ∈ (s.core s.me).rels, (s.core s.me).accNo < f.2 ∨ s.relOver s.me f = true) ∧
    (∃ s : State, s.st = .l ∧ (∀ r ∈ (s.core s.me).lReads, r.value.isSome = true) ∧ (s.core s.me).tokRoom s.st 1 = true) ∧
    (∃ s : State, s.st = .l ∧ (s.seq s.me s.st).met = false ∧ ¬ ∀ r ∈ (s.core s.me).lReads, r.value.isSome = true) ∧
    (∃ s : State, s.st = .s ∧ (∀ e ∈ (s.core s.me).sStores, s.storeIn s.me 3 e = false) ∧ (s.core s.me).tokRoom s.st 1 = false) ∧
    (∃ s : State, s.tokWait ⟨0, 0⟩ false = none ∧ (s.core s.me).sStores = []) ∧
    (∃ s : State, s.st = .s ∧ (s.seq s.me s.st).met = false ∧ ¬ (∀ e ∈ (s.core s.me).sStores, s.storeIn s.me 3 e = false)) ∧
    (∃ s : State, s.st = .s ∧ (s.seq s.me s.st).met = true ∧ (s.seq s.me s.st).popped = some (0, 7)) ∧
    (∃ s : State, s.st = .s ∧ (s.seq s.me s.st).popped = none ∧ (s.core s.me).tq (tokOther s.st 1) s.st.num = 7 :: [] ∧
      s.popWait s.me (tokOther s.st 1) s.st.num = none) ∧
    (∃ (s : State) (w : Why), s.st = .s ∧ (s.seq s.me s.st).popped = none ∧ s.popWait s.me (tokOther s.st 1) s.st.num = some w) ∧
    (∃ s : State, s.tokWait ⟨0, 1⟩ true = none ∧ (s.core s.me).sStores ≠ []) ∧
    (∃ s : State, (s.core s.me).lfences[s.about.k]? = some (0, 1, 0) ∧ (∀ e ∈ (s.core s.me).sStores, 0 ≤ e.no) ∧
      (s.core s.me).tokRoom .s 1 = false) ∧
    (∃ s : State, (s.core s.me).lfences[s.about.k]? = some (0, 0, 0) ∧ (∀ e ∈ (s.core s.me).sStores, 0 ≤ e.no) ∧
      (s.core s.me).tokRoom .s 0 = true) ∧
    (∃ s : State, (s.core s.me).lfences[s.about.k]? = some (1, 0, 0) ∧ ∃ e ∈ (s.core s.me).sStores, e.no < 1) ∧
    (∃ s : State, (s.seq s.me s.st).stall = some { why := .fence }) ∧
    (∃ s : State, (s.seq s.me s.st).stall = some { why := .rel 1 } ∧ s.about.yes = false) ∧
    ∃ s : State, (s.seq s.me s.st).stall = some { why := .rel 1 } ∧ s.about.yes = true ∧ s.st = .c ∧ s.mayIssue s.me .c = true ∧
      s.safeStop s.me .c = none :=
  let e : Store := { pieces := [(keyL0 0 0, [1])] }
  let rel : State := onSeq .c fun q => { q with stall := some { why := .rel 1 } }
  ⟨⟨base .c, by decide⟩, ⟨onCore (fun k => { k with cReads := [{}] }) (base .c), by decide⟩,
    ⟨onCore (fun k => { k with cStores := [e] }) (base .c), by decide +kernel⟩, ⟨base .c, by decide⟩,
    ⟨onCore (fun k => { k with rels := [(3, 1)], accNo := 1, cStores := [e] }) (base .c), by decide +kernel⟩, ⟨base .l, by decide +kernel⟩,
    ⟨onCore (fun k => { k with lReads := [{}] }) (base .l), by decide +kernel⟩,
    ⟨onCore (fun k => k.setTq 3 0 (List.replicate 15 0)) (base .s), by decide +kernel⟩, ⟨base .s, by decide +kernel⟩,
    ⟨onCore (fun k => { k with sStores := [e] }) (base .s), by decide +kernel⟩,
    ⟨onSeq .s fun q => { q with met := true, popped := some (0, 7) }, by decide +kernel⟩,
    ⟨onCore (fun k => k.setTq 0 3 [7]) (base .s), by decide +kernel⟩, ⟨base .s, .token 0 3, by decide +kernel⟩,
    ⟨onCore (fun k => { k with sStores := [e] }) (base .s), by decide +kernel⟩,
    ⟨onCore (fun k => { k.setTq 3 0 (List.replicate 15 0) with lfences := [(0, 1, 0)] }) (base .s), by decide +kernel⟩,
    ⟨onCore (fun k => { k with lfences := [(0, 0, 0)], sStores := [e] }) (base .s), by decide +kernel⟩,
    ⟨onCore (fun k => { k with lfences := [(1, 0, 0)], sStores := [e] }) (base .s), by decide +kernel⟩,
    ⟨onSeq .c fun q => { q with stall := some { why := .fence } }, by decide⟩, ⟨rel, by decide +kernel⟩,
    ⟨{ rel with about := { rel.about with yes := true } }, by decide +kernel⟩⟩

/-- A task at P1 and one at P0, VSTAT with and without A-stream writes under way, and the number after the last that Table 6.11 has
below 0x010. -/
theorem witness_csr_reads :
    (∃ s : State, (s.core s.me).aPend = [] ∧ (s.core s.me).mmas = []) ∧
    (∃ s : State, ¬ ((s.core s.me).aPend = [] ∧ (s.core s.me).mmas = [])) ∧ (∃ s : State, s.isP1 s.me = true) ∧
    (∃ s : State, s.isP1 s.me = false) ∧ (0x006 : BitVec 12) ∉ ([0x000, 0x001, 0x002, 0x003, 0x004, 0x005, 0x010, 0x011, 0x012, 0x013,
      0x014, 0x015, 0x016, 0x040, 0x020, 0x021, 0x022, 0x030, 0x031, 0x032, 0x033, 0x034] : List (BitVec 12)) :=
  ⟨⟨base .c, by decide⟩, ⟨onCore (fun k => { k with aPend := [{ wr := .row 0 0 }] }) (base .c), by decide⟩,
    ⟨base .c, by decide⟩, ⟨atP0 (base .c), by decide⟩, by decide⟩

/-- P1 and P0, and a SLOTMAP that waits for its frame boundary, at one, between two, and at one in its own cycle. -/
theorem witness_csr_writes : (∃ s : State, s.isP1 s.me = true ∧ (s.core s.me).task = some 0) ∧ (∃ s : State, s.isP1 s.me = false) ∧
    (∃ s : State, (s.core s.me).slotmapNext = some 1 ∧ s.cycle % 8 = 0 ∧ (s.core s.me).slotmapAt + 1 = s.cycle) ∧
    (∃ s : State, (s.core s.me).slotmapNext = some 1 ∧ s.cycle % 8 ≠ 0) ∧
    ∃ s : State, (s.core s.me).slotmapNext = some 1 ∧ s.cycle % 8 = 0 ∧ (s.core s.me).slotmapAt = s.cycle :=
  let s (at_ n : Nat) : State := { onCore (fun k => { k with slotmapNext := some 1, slotmapAt := at_ }) (base .c) with cycle := n }
  ⟨⟨base .c, by decide⟩, ⟨atP0 (base .c), by decide⟩, ⟨s 7 8, by decide⟩, ⟨s 0 7, by decide⟩, ⟨s 8 8, by decide⟩⟩

/-- DBGCTL.EN of 0 and 1, a delay slot, a task at each privilege that is no handler, and a core without a task. -/
theorem witness_system_instructions :
    (∃ s : State, (s.ctx (s.slotOf s.me)).dbgctl = 0) ∧ (∃ s : State, (s.ctx (s.slotOf s.me)).dbgctl = 1) ∧
    (∃ s : State, s.inSlot = true) ∧ (∃ s : State, s.inSlot = false ∧ s.isP1 s.me = false) ∧
    (∃ s : State, s.inSlot = false ∧ s.isP1 s.me = true ∧ (s.taskOf s.me).bind (·.handler) = none ∧ (s.core s.me).task = some 0 ∧
      (s.about.core, 0) ∉ s.outWhenIdle) ∧ ∃ s : State, s.inSlot = false ∧ s.isP1 s.me = true ∧ (s.core s.me).task = none :=
  ⟨⟨base .c, by decide⟩, ⟨onCtx (fun k => { k with dbgctl := 1 }) (base .c), by decide⟩, ⟨inDelaySlot .c, by decide⟩,
    ⟨atP0 (base .c), by decide⟩, ⟨base .c, by decide +kernel⟩, ⟨onCore (fun k => { k with task := none }) (base .c), by decide +kernel⟩⟩

/-- A handler task with nothing under way and with a store under way; a member that is the last to end, and one that is not. -/
theorem witness_ends_and_returns :
    (∃ s : State, s.inSlot = false ∧ (s.core s.me).task = some 0 ∧ (s.taskOf s.me).bind (·.handler) = some (1, 0) ∧
      s.members.all s.spent = true) ∧
    (∃ s : State, s.inSlot = false ∧ (s.core s.me).task = some 0 ∧ (s.taskOf s.me).bind (·.handler) = some (1, 0) ∧
      s.members.all s.spent = false) ∧
    (∃ (s : State) (x : Task), (s.core 0).task = some 0 ∧ look 0 s.tasks = some x ∧ x.st = .running ∧ x.wire = false ∧
      (s.core 0).ended = false ∧ (s.core 0).allStopped = true ∧ s.spent 0 = true ∧
      ∃ e ∈ s.cores, e.1 ≠ 0 ∧ look e.1 s.cores = some e.2 ∧ e.2.task = some 0 ∧ e.2.ended = false ∧ e.2.gsyncIn = false) ∧
    ∃ (s : State) (x : Task), (s.core 0).task = some 0 ∧ look 0 s.tasks = some x ∧ x.st = .running ∧ x.wire = false ∧
      (s.core 0).ended = false ∧ (s.core 0).allStopped = true ∧ s.spent 0 = true ∧
      ∀ n ∈ s.coresOf 0, n ≠ 0 → (s.core n).ended = true :=
  let s := onTask (fun t => { t with handler := some (1, 0) }) (base .c)
  let q := onSeq .c fun q => { q with stopped := true }
  ⟨⟨s, by decide +kernel⟩, ⟨onCore (fun k => { k with cStores := [{}] }) s, by decide +kernel⟩,
    ⟨q.setCore 1 { task := some 0 }, { st := .running }, by decide +kernel, by decide +kernel, by decide +kernel, by decide +kernel,
      by decide +kernel, by decide +kernel, by decide +kernel, (1, { task := some 0 }), by decide +kernel⟩, ⟨q, { st := .running }, by decide +kernel⟩⟩

/-- A store under way, lengths of 0 and 1, a READY register whose last buffer line is hit and one just beyond, and a word of each kind. -/
theorem witness_iinv_and_illegal_words :
    (∃ s : State, s.fenceRel 3 = false) ∧ (∃ s : State, s.fenceRel 3 = true ∧ (s.x 2).toNat = 0) ∧
    (∃ s : State, s.fenceRel 3 = true ∧ (s.x 2).toNat = 1 ∧ (s.x 1).toNat = 255 ∧ (s.steer s.me .c 1).st = .ready ∧
      (s.steer s.me .c 1).target = 0) ∧
    (∃ s : State, s.fenceRel 3 = true ∧ (s.x 2).toNat = 1 ∧ (s.x 1).toNat = 256 ∧ (s.steer s.me .c 1).st = .ready ∧
      (s.steer s.me .c 1).target = 0) ∧
    (∃ s : State, s.fetch s.me s.st = .word 0 ∧ s.mayIssue s.me s.st = true ∧ decode s.st 0 = none) ∧
    ∃ s : State, s.fetch s.me s.st = .word 0xFC000000 ∧ s.mayIssue s.me s.st = true ∧ decode s.st 0xFC000000 ≠ none :=
  let r := steer1 .c { st := .ready }
  ⟨⟨onCore (fun k => { k with cStores := [{ pieces := [(keyL0 0 0, [1])] }] }) (base .c), by decide +kernel⟩, ⟨base .c, by decide +kernel⟩,
    ⟨setReg 1 255 (setReg 2 1 r), by decide +kernel⟩, ⟨setReg 1 256 (setReg 2 1 r), by decide +kernel⟩,
    ⟨base .c, by decide +kernel⟩, ⟨onSeq .c fun q => { q with pc := 0x400084 }, by decide +kernel⟩⟩

/-- A trap of an instruction that has popped no token, and of one that has. -/
theorem witness_taking_a_trap :
    (∃ (s : State) (x : Task), (s.core s.me).task = some 0 ∧ look 0 s.tasks = some x ∧ (s.seq s.me s.st).popped = none) ∧
    ∃ (s : State) (x : Task), (s.core s.me).task = some 0 ∧ look 0 s.tasks = some x ∧ (s.seq s.me s.st).popped = some (0, 7) ∧
      4 * 0 + s.st.num < 16 :=
  ⟨⟨base .c, { st := .running }, by decide +kernel⟩,
    ⟨onSeq .s fun q => { q with popped := some (0, 7) }, { st := .running }, by decide +kernel⟩⟩

/-- An instruction that is ready, one that waits for the register of a load, a word that is no instruction, and an event. -/
theorem witness_step_runs_decoded :
    let a (s : State) : State := { s with agenda := [], about := { core := 0, stream := .c } }
    let b (s : State) (w : IWord) : State := { ((a s).fillFetch 0 ((a s).seq 0 .c).pc).keepLine 0 .c with word := w }
    let ok (s : State) (w : IWord) : Prop := s.agenda = [.issue 0 .c] ∧ (a s).mayIssue 0 .c = true ∧ (a s).safeStop 0 .c = none ∧
      (a s).fetch 0 .c = .word w
    (∃ s : State, ok s 0xFC000000 ∧ decode .c 0xFC000000 = some .nop ∧ ((b s 0xFC000000).core 0).readyFor .c .nop = true) ∧
    (∃ s : State, ok s 0x18800064 ∧ decode .c 0x18800064 = some (.addi 4 0 100) ∧
      ((b s 0x18800064).core 0).readyFor .c (.addi 4 0 100) = false) ∧
    (∃ s : State, ok s 0 ∧ decode .c 0 = none) ∧
    (∃ s : State, s.agenda = [.event .gscAdvance {}] ∧ s.hub.ready = true) ∧
    ∃ s : State, s.agenda = [.event .moduleReset {}] ∧ s.hub.ready = false ∧ actsUnready .moduleReset = true :=
  let p (w : IWord) := State.reset.placeWord w .c
  ⟨⟨p 0xFC000000, by decide +kernel⟩,
    ⟨onCore (fun k => { k with cReads := [{ dst := .x 4 8 false }] }) (p 0x18800064), by decide +kernel⟩,
    ⟨p 0, by decide +kernel⟩, ⟨{ p 0 with agenda := [.event .gscAdvance {}] }, by decide +kernel⟩,
    ⟨{ State.reset with agenda := [.event .moduleReset {}] }, by decide +kernel⟩⟩
/-- The last row that a load of the own L0 reaches and one byte-line beyond it, directed and gathered accesses, and the scale queue with
room for one entry and full. -/
theorem witness_row_loads :
    let ok (s : State) : Prop := s.tokWait ⟨0, 0⟩ true = none ∧ s.lHold = none
    (∃ s : State, ok s ∧ s.place s.me 0x7FE40 (offOf 0x7FE40) 448 64 = .ok (keyL0 0 0x7FE40)) ∧
    (∃ (s : State) (t : Trap), ok s ∧ s.place s.me 0x7FE80 (offOf 0x7FE80) 448 64 = .error t) ∧
    (∃ (s : State) (ps : List (Nat × Nat)), ok s ∧ s.dirWords 0 (offOf 0 + 512) 0 = .ok ps) ∧
    (∃ (s : State) (ps : List (Nat × Nat)), ok s ∧ s.dirWords 0 (offOf 0 + 504) 1 = .ok ps) ∧
    (∃ (s : State) (ps : List (Nat × Nat)), ok s ∧ s.gather 0x7FFF8 5 = .ok ps) ∧
    (∃ s : State, ok s ∧ (s.core s.me).scaleCount = 15 ∧ s.place s.me 0x7FFC0 (offOf 0x7FFC0) 64 64 = .ok (keyL0 0 0x7FFC0)) ∧
    (∃ s : State, s.tokWait ⟨0, 0⟩ true = none ∧ (s.core s.me).scaleCount = 16) ∧
    (∃ s : State, s.placeCheck s.me 0 512 (8 * 63 + 8) true = .ok (0, 0)) ∧
    (∃ s : State, s.placeCheck s.me 0 504 (512 * 63 + 8) true = .ok (0, 0)) ∧ ¬ ((8 : Int) % 512 = 0) ∧
      ¬ ((512 : Int) % 8 = 0 ∧ (512 : Int) / 512 % 64 = 0) :=
  let scales (n : Nat) := onCore (fun k => { k with scales := List.replicate n 0 }) (base .l)
  ⟨⟨base .l, by decide +kernel, ok_of (by decide +kernel)⟩,
    have ⟨t, h⟩ := error_of (e := (base .l).place (base .l).me 0x7FE80 (offOf 0x7FE80) 448 64) (by decide +kernel)
    ⟨base .l, t, by decide +kernel, h⟩,
    have ⟨t, h⟩ := passes_of (e := (base .l).dirWords 0 (offOf 0 + 512) 0) (by decide +kernel)
    ⟨base .l, t, by decide +kernel, h⟩,
    have ⟨t, h⟩ := passes_of (e := (base .l).dirWords 0 (offOf 0 + 504) 1) (by decide +kernel)
    ⟨base .l, t, by decide +kernel, h⟩,
    have ⟨t, h⟩ := passes_of (e := (base .l).gather 0x7FFF8 5) (by decide +kernel)
    ⟨base .l, t, by decide +kernel, h⟩,
    ⟨scales 15, by decide +kernel, by decide +kernel, ok_of (by decide +kernel)⟩, ⟨scales 16, by decide +kernel⟩,
    ⟨base .l, ok_of (by decide +kernel)⟩, ⟨base .l, ok_of (by decide +kernel)⟩, by decide, by decide⟩

/-- A load of the own column; reads that cross the mesh, of the L-stream and of the C-stream: not yet injected, held back by their order, by an
earlier flit or by a store that waits at the target, and free to be performed; a read that crosses nothing; and stores on the mesh that may
enter the queue of their target and that may not, and a store that is not on the mesh. -/
theorem witness_rows_arrive :
    let loads (s : State) (st : Stream) (r : Read) : Prop := s.about.isLoad = true ∧ s.st = st ∧ r.no = s.about.k ∧ r.value = none
    let row (s : State) (r : Read) (f : Flit) : Prop := loads s .l r ∧ (s.core s.me).lReads = [r] ∧ flitIn s.mesh s.me s.st true r.no = some f
    let read (s : State) (r : Read) : Prop := loads s .c r ∧ (s.core s.me).cReads = [r] ∧ r.remote = false ∧ r.atom = none ∧
      (∀ p ∈ r.pieces, isHub p.1 = false)
    let crosses (s : State) (r : Read) : Prop := read s r ∧ s.readReady s.me r = true ∧ r.forwarded = false ∧
      ∃ p ∈ r.pieces, (meshTo s.me p.1).isSome = true
    let store (s : State) (f : Flit) : Prop := s.about.isLoad = false ∧ flitIn s.mesh s.me s.st false s.about.k = some f
    (∃ s : State, (s.core s.me).lReads = [] ∧ farKey s.me (keyL0 0 0x7FE40) = false ∧ noHole s (keyL0 0 0x7FE40) 448 = true ∧
      poisonIn s (keyL0 0 0x7FE40) 448 = none ∧ (s.core s.me).tokRoom .l 1 = true ∧ s.l0Then = []) ∧
    (∃ s r f, row s r f ∧ s.readArrives f = true) ∧ (∃ s r f, row s r f ∧ s.readArrives f = false) ∧
    (∃ s r, read s r ∧ s.readReady s.me r = false) ∧ (∃ s r, crosses s r ∧ flitIn s.mesh s.me .c true s.about.k = none) ∧
    (∃ s r f, crosses s r ∧ flitIn s.mesh s.me .c true s.about.k = some f ∧ s.readArrives f = false) ∧
    (∃ s r f, crosses s r ∧ flitIn s.mesh s.me .c true s.about.k = some f ∧ s.readArrives f = true) ∧
    (∃ s r, read s r ∧ s.readReady s.me r = true ∧ ∀ p ∈ r.pieces, meshTo s.me p.1 = none) ∧
    (∃ s f, store s f ∧ s.mayArrive f = true) ∧ (∃ s f, store s f ∧ s.mayArrive f = false) ∧
    (∃ s : State, s.about.isLoad = false ∧ flitIn s.mesh s.me s.st false s.about.k = none ∧ s.st = .s) ∧
    ∃ s : State, s.about.isLoad = false ∧ flitIn s.mesh s.me s.st false s.about.k = none ∧ s.st = .c :=
  let r (key : Nat) : Read := { pieces := [(key, 8)] }
  let far := r (keyL0 1 0)
  let near := r (keyL0 0 0)
  let flit (st : Stream) (isLoad : Bool) (no : Nat) : Flit := { core := 0, stream := st, isLoad := isLoad, no := no, col := 1, l0 := true }
  let load (s : State) : State := { s with about := { s.about with isLoad := true } }
  let rows (l q : List Flit) : State := load { onCore (fun k => { k with lReads := [far] }) (base .l) with mesh := l, fifo := q }
  let reads (r : Read) (l q : List Flit) : State := load { onCore (fun k => { k with cReads := [r] }) (base .c) with mesh := l, fifo := q }
  let stores (l : List Flit) : State := { base .s with mesh := l }
  ⟨⟨base .l, by decide +kernel⟩, ⟨rows [flit .l true 0] [], far, flit .l true 0, by decide +kernel⟩,
    ⟨rows [flit .l true 0] [flit .s false 0], far, flit .l true 0, by decide +kernel⟩,
    ⟨{ reads near [] [] with l0Then := [(keyL0 0 7, 0)] }, near, by decide +kernel⟩,
    ⟨reads far [] [], far, by decide +kernel, by decide +kernel⟩,
    ⟨reads far [flit .s false 0, flit .c true 0] [], far, flit .c true 0, by decide +kernel, by decide +kernel, by decide +kernel⟩,
    ⟨reads far [flit .c true 0] [], far, flit .c true 0, by decide +kernel, by decide +kernel, by decide +kernel⟩,
    ⟨reads near [] [], near, by decide +kernel⟩, ⟨stores [flit .s false 0], flit .s false 0, by decide +kernel⟩,
    ⟨stores [flit .c false 7, flit .s false 0], flit .s false 0, by decide +kernel⟩, ⟨base .s, by decide⟩, ⟨base .c, by decide⟩⟩

/-- The last row that a store of the own L0 reaches and one beyond it, the other forms, two lanes that name one word, and one event of a
store: its last piece, one of two, a raised word, and a piece that has crossed the mesh. -/
theorem witness_row_stores :
    let ok (s : State) : Prop := s.tokWait ⟨0, 0⟩ false = none ∧ s.sHold {} = false
    let event (s : State) (e : Store) (key : Nat) : Prop := Memory.wf s.mem = true ∧ s.st = .s ∧ s.about.n = 0 ∧ s.about.rid ≠ 2 ∧
      s.about.isLoad = false ∧ (s.core s.me).sStores = [e] ∧ e.events[0]? = some (key, [1]) ∧ e.log = false ∧
      (s.ctx (s.slotOf s.me)).held = []
    let own (s : State) (e : Store) : Prop := event s e (keyL0 0 0) ∧ ∀ p ∈ e.pieces, farKey s.me p.1 = false
    let words : List (Nat × List Byte) := [(8, [1]), (8, [2])]
    (∃ s : State, ok s ∧ s.place s.me 0x7FE40 (offOf 0x7FE40) 448 64 = .ok (keyL0 0 0x7FE40)) ∧
    (∃ (s : State) (t : Trap), ok s ∧ s.place s.me 0x7FE80 (offOf 0x7FE80) 448 64 = .error t) ∧
    (∃ (s : State) (ps : List (Nat × Nat)), ok s ∧ s.dirWords 0 (offOf 0 + 504) 1 = .ok ps) ∧
    (∃ (s : State) (ps : List (Nat × Nat)), ok s ∧ s.gather 0x7FFF8 5 = .ok ps) ∧
    (∃ s : State, ok s ∧ s.place s.me 0x7FFF8 (offOf 0x7FFF8) 8 8 = .ok (keyL0 0 0x7FFF8)) ∧
    (∃ s e, own s e ∧ e.addOne = false ∧ e.events.eraseIdx 0 = []) ∧ (∃ s e, own s e ∧ e.addOne = false ∧ e.events.eraseIdx 0 ≠ []) ∧
    (∃ s e, own s e ∧ e.addOne = true ∧ noHole s (keyL0 0 0) 8 = true) ∧
    (∃ s e f, event s e (keyL0 1 0) ∧ (∃ p ∈ e.pieces, (meshTo s.me p.1).isSome = true) ∧ flitIn s.fifo s.me .s false e.no = some f ∧
      s.mayEnter f = true) ∧
    (∃ i : Nat, words[i]? = some (8, [2]) ∧ ∀ (j : Nat) (b : Nat × List Byte), i < j → words[j]? = some b → b.1 ≠ 8) :=
  let one (e : Store) : State := { onCore (fun k => { k with sStores := [e] }) (base .s) with about := { core := 0, stream := .s, n := 0 } }
  let e1 : Store := { pieces := [(keyL0 0 0, [1])] }
  let e2 : Store := { pieces := [(keyL0 0 0, [1]), (keyL0 0 512, [1])] }
  let e3 : Store := { e1 with addOne := true, note := true }
  let e4 : Store := { pieces := [(keyL0 1 0, [1])] }
  let f : Flit := { core := 0, stream := .s, isLoad := false, no := 0, col := 1, l0 := true }
  ⟨⟨base .s, by decide +kernel, ok_of (by decide +kernel)⟩,
    have ⟨t, h⟩ := error_of (e := (base .s).place (base .s).me 0x7FE80 (offOf 0x7FE80) 448 64) (by decide +kernel)
    ⟨base .s, t, by decide +kernel, h⟩,
    have ⟨t, h⟩ := passes_of (e := (base .s).dirWords 0 (offOf 0 + 504) 1) (by decide +kernel)
    ⟨base .s, t, by decide +kernel, h⟩,
    have ⟨t, h⟩ := passes_of (e := (base .s).gather 0x7FFF8 5) (by decide +kernel)
    ⟨base .s, t, by decide +kernel, h⟩,
    ⟨base .s, by decide +kernel, ok_of (by decide +kernel)⟩, ⟨one e1, e1, by decide +kernel⟩, ⟨one e2, e2, by decide +kernel⟩,
    ⟨one e3, e3, by decide +kernel⟩,
    ⟨{ one e4 with fifo := [f] }, e4, f, by decide +kernel, ⟨_, List.mem_singleton_self _, by decide +kernel⟩, by decide +kernel⟩,
    ⟨1, rfl, fun j b h e => by match j, h with | k + 2, _ => simp at e⟩⟩

/-- A word that has reached its value and one that has not, with a payload and without, with room for the push and without; a word that was
there before and whose push had no room; a word behind what its column has sent there, and a poisoned one; marks at each bound of their count. -/
theorem witness_address_wait_marks :
    let at1 (s : State) (tok : Tok) (k : Nat) : Prop := s.tokWait tok true = none ∧ (s.st = .l ∨ s.st = .s) ∧ (s.st = .l → s.lHold = none) ∧
      (s.seq s.me s.st).met = false ∧
      s.place s.me ((s.core s.me).aReg s.st 2) (offOf ((s.core s.me).aReg s.st 2)) 8 8 = .ok k
    let at_ (s : State) (tok : Tok) : Prop := at1 s tok (keyL0 0 0)
    let ok (s : State) (tok : Tok) : Prop := at_ s tok ∧ s.clearTo s.me (keyL0 0 0) = true ∧ poisonIn s (keyL0 0 0) 8 = none ∧
      noHole s (keyL0 0 0) 8 = true ∧ s.l0Then = []
    let room (s : State) : Bool := (s.core s.me).tokRoom s.st 1
    (∃ s : State, ok s ⟨0, 1⟩ ∧ s.payload ⟨0, 1⟩ = none ∧ rdNat s.mem (keyL0 0 0) 8 ≠ 0 ∧ room s = true) ∧
    (∃ s : State, ok s ⟨0, 1⟩ ∧ s.payload ⟨0, 1⟩ = none ∧ rdNat s.mem (keyL0 0 0) 8 ≠ 0 ∧ room s = false) ∧
    (∃ s : State, s.tokWait ⟨0, 1⟩ true = none ∧ s.st = .s ∧ (s.seq s.me s.st).met = true ∧ room s = true) ∧
    (∃ s : State, s.tokWait ⟨0, 1⟩ true = none ∧ s.st = .s ∧ (s.seq s.me s.st).met = true ∧ room s = false) ∧
    (∃ s : State, at1 s ⟨0, 0⟩ (keyL0 1 0) ∧ s.clearTo s.me (keyL0 1 0) = false) ∧
    (∃ s : State, at_ s ⟨0, 0⟩ ∧ s.clearTo s.me (keyL0 0 0) = true ∧ (poisonIn s (keyL0 0 0) 8).isSome = true) ∧
    (∃ s : State, ok s ⟨0, 0⟩ ∧ s.payload ⟨0, 0⟩ = none ∧ rdNat s.mem (keyL0 0 0) 8 = 0) ∧
    (∃ s : State, ok s ⟨1, 0⟩ ∧ s.payload ⟨1, 0⟩ = some 1 ∧ rdNat s.mem (keyL0 0 0) 8 = 1) ∧
    (∃ s : State, ok s ⟨1, 0⟩ ∧ s.payload ⟨1, 0⟩ = some 2 ∧ rdNat s.mem (keyL0 0 0) 8 = 1) ∧
    (∃ s : State, s.tokWait ⟨0, 0⟩ false = none ∧ s.st = .l ∧ vget (s.core s.me).marks 1 0 = -14 ∧ vget (s.core s.me).markS 1 [] = []) ∧
    (∃ s : State, s.tokWait ⟨0, 0⟩ false = none ∧ s.st = .l ∧ vget (s.core s.me).marks 1 0 = 1 ∧ vget (s.core s.me).markS 1 [] = [3]) ∧
    (∃ s : State, s.tokWait ⟨0, 0⟩ false = none ∧ s.st = .l ∧ vget (s.core s.me).marks 1 0 = -15) ∧
    (∃ s : State, s.tokWait ⟨0, 0⟩ false = none ∧ s.st = .s ∧ vget (s.core s.me).marks 1 0 = 14) ∧
    (∃ s : State, s.tokWait ⟨0, 0⟩ false = none ∧ s.st = .s ∧ vget (s.core s.me).marks 1 0 = -1 ∧ 1 ∈ (s.core s.me).markOpen) ∧
    ∃ s : State, s.tokWait ⟨0, 0⟩ false = none ∧ s.st = .s ∧ vget (s.core s.me).marks 1 0 = 15 :=
  let one : State := { base .s with mem := [(keyL0 0 0, 1)] }
  let pops (v : X64) := onCore (fun k => k.setTq 0 3 [v]) one
  let marks (st : Stream) (n : Int) := onCore (fun k => { k with marks := vset k.marks 1 n }) (base st)
  let full (s : State) : State := onCore (fun k => k.setTq 3 0 (List.replicate 15 0)) s
  let met : State := onSeq .s fun q => { q with met := true }
  let flit : Flit := { core := 0, stream := .s, isLoad := false, no := 0, col := 1, l0 := true }
  ⟨⟨one, ⟨⟨by decide +kernel, by decide, by decide, by decide +kernel, ok_of (by decide +kernel)⟩, by decide +kernel⟩, by decide +kernel⟩,
    ⟨full one, ⟨⟨by decide +kernel, by decide, by decide, by decide +kernel, ok_of (by decide +kernel)⟩, by decide +kernel⟩, by decide +kernel⟩,
    ⟨met, by decide +kernel⟩, ⟨full met, by decide +kernel⟩,
    ⟨onCore (fun k => { k with aS := vset k.aS 2 0x80000 }) { base .s with mesh := [flit] }, ⟨by decide +kernel, by decide, by decide, by decide +kernel, ok_of (by decide +kernel)⟩, by decide +kernel⟩,
    ⟨{ base .s with poison := [keyL0 0 0 / 64] },
      ⟨by decide +kernel, by decide, by decide, by decide +kernel, ok_of (by decide +kernel)⟩, by decide +kernel⟩,
    ⟨base .s, ⟨⟨by decide +kernel, by decide, by decide, by decide +kernel, ok_of (by decide +kernel)⟩, by decide +kernel⟩, by decide +kernel⟩,
    ⟨pops 1, ⟨⟨by decide +kernel, by decide, by decide, by decide +kernel, ok_of (by decide +kernel)⟩, by decide +kernel⟩, by decide +kernel⟩,
    ⟨pops 2, ⟨⟨by decide +kernel, by decide, by decide, by decide +kernel, ok_of (by decide +kernel)⟩, by decide +kernel⟩, by decide +kernel⟩,
    ⟨marks .l (-14), by decide +kernel⟩, ⟨onCore (fun k => { k with markS := vset k.markS 1 [3] }) (marks .l 1), by decide +kernel⟩,
    ⟨marks .l (-15), by decide +kernel⟩, ⟨marks .s 14, by decide +kernel⟩,
    ⟨onCore (fun k => { k with markOpen := [1] }) (marks .s (-1)), by decide +kernel⟩, ⟨marks .s 15, by decide +kernel⟩⟩

/-- Every kind of stall at its limit and a cycle before it, of a group that runs and of one that is frozen, a late push at its limit, and a
stream before READY. -/
theorem witness_stalls_and_freezes :
    let stalled (s : State) (w : Why) (n : Nat) : Prop := (s.seq s.me s.st).stall = some { why := w, cycles := n }
    let runs (s : State) : Bool := s.counts (s.core s.me)
    let late (s : State) (w : Why) : Prop := runs s = true ∧ stalled s w (s.stallLimit s.me)
    let need (s : State) : Nat := (if isMx (s.core s.me).fmtA.toNat then 4 else 0) + (if isMx (s.core s.me).wAct.fmt.toNat then 8 else 0)
    (∃ s, late s (.token 0 1) ∧ (s.seq s.me s.st).due = [] ∧ s.tokenGo s.me s.st (.token 0 1) = false) ∧
    (∃ s, late s (.mark 15) ∧ s.stands s.me s.st (.mark 15) = true) ∧
    (∃ s, late s .scaleFull ∧ 16 ≤ (s.core s.me).scaleCount) ∧ (∃ s, late s .scaleShort ∧ (s.core s.me).scales.length < need s) ∧
    (∃ s, late s .scaleShort ∧ need s ≤ (s.core s.me).scales.length) ∧ (∃ s, late s (.serialCap 1 0)) ∧ (∃ s, late s .gsync ∧ s.st = .c) ∧
    (∃ (s : State) (d : Due), runs s = true ∧ (s.seq s.me s.st).due = [d] ∧ (s.core s.me).tqFull s.st.num d.dst = true ∧
      (s.core s.me).allStopped = false ∧ d.cycles = s.stallLimit s.me) ∧
    (∃ (s : State) (n : Nat), n + 1 = s.stallLimit s.me ∧ s.st = .c ∧ stalled s .gsync n) ∧
    (∃ s : State, runs s = false ∧ stalled s (.mark 15) (s.stallLimit s.me)) ∧
    (∃ s : State, runs s = true ∧ s.st = .c ∧ stalled s (.wait 256 0 256) 256) ∧ (∃ s : State, s.st = .c ∧ stalled s (.wait 256 0 256) 255) ∧
    (∃ s : State, runs s = true ∧ s.st = .s ∧ stalled s (.wait 256 0 256) 256) ∧
    (∃ (s : State) (x : Task), s.agenda = [.issue 0 .c] ∧ s.taskOf 0 = some x ∧ x.wire = true) ∧
    (∃ s : State, s.agenda = [.issue 0 .c] ∧ s.hub.ready = false) ∧ actsUnready .walkEnd = false :=
  let at_ (st : Stream) (w : Why) (n : Nat) : State := onSeq st fun q => { q with stall := some { why := w, cycles := n } }
  let full (q : Nat) (s : State) : State := onCore (fun k => k.setTq q (1 - q) (List.replicate 15 0)) s
  let scales (n : Nat) (s : State) : State := onCore (fun k => { k with fmtA := 0x14, scales := List.replicate n 0 }) s
  ⟨⟨full 0 (at_ .c (.token 0 1) 256), by decide +kernel⟩,
    ⟨onCore (fun k => { k with marks := vset k.marks 15 (-15) }) (at_ .l (.mark 15) 256), by decide +kernel⟩,
    ⟨scales 16 (at_ .l .scaleFull 256), by decide +kernel⟩, ⟨scales 3 (at_ .a .scaleShort 256), by decide +kernel⟩,
    ⟨scales 4 (at_ .a .scaleShort 256), by decide +kernel⟩,
    ⟨at_ .c (.serialCap 1 0) 256, by decide +kernel⟩, ⟨at_ .c .gsync 256, by decide +kernel⟩,
    ⟨full 1 (onSeq .l fun q => { q with due := [{ pc := 0x400080, dst := 0, cycles := 256 }] }), { pc := 0x400080, dst := 0, cycles := 256 },
      by decide +kernel⟩,
    ⟨at_ .c .gsync 255, 255, by decide +kernel⟩,
    ⟨onTask (fun t => { t with wire := true }) (at_ .l (.mark 15) 256), by decide +kernel⟩,
    ⟨at_ .c (.wait 256 0 256) 256, by decide +kernel⟩,
    ⟨at_ .c (.wait 256 0 256) 255, by decide +kernel⟩, ⟨at_ .s (.wait 256 0 256) 256, by decide +kernel⟩,
    ⟨onTask (fun t => { t with wire := true }) (base .c), { st := .running, wire := true }, by decide +kernel⟩,
    ⟨{ base .c with hub := {} }, by decide +kernel⟩, by decide⟩
theorem witness_vector_integers : (∃ s : State, s.tokWait ⟨0, 0⟩ false = none) ∧ ∃ s : State, s.tokWait ⟨1, 2⟩ false = none :=
  ⟨⟨base .a, by decide⟩, ⟨onCore (fun k => k.setTq 0 2 [0]) (base .a), by decide +kernel⟩⟩

/-- VT at a format of floating point and at an integer one, and formats of the same, a smaller and a greater width. -/
theorem witness_vector_floats : (∃ (s : State) (ff : FFmt), floatFmt (s.core s.me).fmt = some ff) ∧
    (∃ s : State, floatFmt (s.core s.me).fmt = none) ∧ (∃ s : State, laneBits 0x11 = (s.core s.me).w) ∧
    (∃ s : State, laneBits 0x10 < (s.core s.me).w) ∧ ∃ s : State, (s.core s.me).w < laneBits 0x12 :=
  ⟨⟨base .a, fmtF32, by decide⟩, ⟨onCore (fun k => { k with vt := 4 }) (base .a), by decide⟩, ⟨base .a, by decide⟩,
    ⟨base .a, by decide⟩, ⟨base .a, by decide⟩⟩

theorem witness_predicates_and_types : (∃ s : State, s.tokWait ⟨0, 0⟩ false = none ∧ (floatFmt (s.core s.me).fmt).isSome = true) ∧
    ∃ s : State, s.tokWait ⟨0, 0⟩ false = none ∧ floatFmt (s.core s.me).fmt = none :=
  ⟨⟨base .a, by decide⟩, ⟨onCore (fun k => { k with vt := 4 }) (base .a), by decide⟩⟩

/-- Core 0 runs these words in its A-stream, from its program counter on. -/
def laneProgram (ws : List IWord) : State :=
  { base .a with copies := put 0 { image := 0x400000, flags := 6, secs := Vector.ofFn fun i =>
    if i.val = 2 then { off := 0x80, words := ws } else {} } [] }

/-- The target word of a rep is the instruction `i`. -/
def isTarget (t : Target) (i : Instr) : Bool := match t with | .instr j => decide (j = i) | _ => false

theorem target_of {t : Target} {i : Instr} (h : isTarget t i = true) : t = .instr i := by
  cases t with
  | instr j => rw [of_decide_eq_true h]
  | _ => cases h

/-- A row write that is due, with room for its token and without, the end of a window, and a rep: in a delay slot, at the end of its section, over rows that stay in range up to
row 63 and over rows that leave it, with a count of 0, and at its last repetition and before. -/
theorem witness_row_writes_and_rep :
    let add (a : BitVec 6) : Instr := .vadd ⟨1, a, 3, 0, 0, ⟨0, 0⟩⟩
    let rows (a : BitVec 6) := repRows { active := true, sa := 1, count := 4 } (add a)
    let starts (s : State) (a : BitVec 6) : Prop := s.inSlot = false ∧ (s.seq s.me .a).pc + 4 ≠ s.sectionEnd s.me .a ∧
      s.tokWait ⟨0, 0⟩ false = none ∧ (∃ x, repOf (add a) = some x) ∧ s.repTarget s.me = .instr (add a)
    let repeats (s : State) (n : BitVec 7) : Prop := s.mayRepeat s.me = true ∧ (s.core s.me).reps.popped = true ∧
      (s.core s.me).reps.done = n ∧ (s.core s.me).reps.count = 2 ∧ (s.core s.me).aReadyFor (add 60) = true
    let due (s : State) (p : APend) : Prop := p.at_ + p.lat ≤ s.cycle + 1 ∧ ∀ q ∈ (s.core s.me).aPend.take s.about.k, p.lat < q.lat
    (∃ (s : State) (p : APend), (s.core s.me).aPend[s.about.k]? = some p ∧ p.wr = .row 63 1 ∧ due s p ∧ (s.core s.me).tokRoom .a p.push = true) ∧
    (∃ (s : State) (p : APend), (s.core s.me).aPend[s.about.k]? = some p ∧ p.wr = .transient 63 1 ∧ due s p ∧
      (s.core s.me).tokRoom .a p.push = true) ∧
    (∃ (s : State) (p : APend), (s.core s.me).aPend[s.about.k]? = some p ∧ p.at_ + p.lat = s.cycle + 2) ∧
    (∃ (s : State) (p : APend), (s.core s.me).aPend[s.about.k]? = some p ∧ due s p ∧ (s.core s.me).tokRoom .a p.push = false) ∧
    (∃ (s : State) (b : Bypass), (s.core s.me).bypass[s.about.k]? = some b ∧ b.left = 0) ∧
    (∃ (s : State) (b : Bypass), (s.core s.me).bypass[s.about.k]? = some b ∧ b.left ≠ 0) ∧
    (∃ s : State, s.inSlot = true) ∧ (∃ s : State, (s.seq s.me .a).pc + 4 = s.sectionEnd s.me .a) ∧
    (∃ s : State, starts s 60 ∧ s.repCheck s.me (rows 60) 4 = none) ∧
    (∃ s : State, starts s 61 ∧ s.repCheck s.me (rows 61) 4 = some (3, 1)) ∧ (∃ s : State, repeats s 0) ∧ ∃ s : State, repeats s 1 :=
  let pend : APend := { wr := .row 63 1, lat := 2 }
  let pends (p : APend) : State := { onCore (fun k => { k with aPend := [p] }) (base .a) with cycle := 1 }
  let rep (a : BitVec 6) := laneProgram [encode (.rep 4 0 1 0), encode (.vadd ⟨1, a, 3, 0, 0, ⟨0, 0⟩⟩), 0xFC000000]
  let at_ (n : BitVec 7) := onCore (fun k => { k with reps := { active := true, popped := true, sa := 1, count := 2, done := n } }) (rep 60)
  ⟨⟨pends pend, pend, by decide +kernel⟩, ⟨pends { pend with wr := .transient 63 1 }, { pend with wr := .transient 63 1 }, by decide +kernel⟩,
    ⟨{ pends pend with cycle := 0 }, pend, by decide +kernel⟩,
    ⟨onCore (fun k => k.setTq 2 0 (List.replicate 15 0)) (pends { pend with push := 1 }), { pend with push := 1 }, by decide +kernel⟩,
    ⟨onCore (fun k => { k with bypass := [⟨1, 0, 0⟩] }) (base .a), ⟨1, 0, 0⟩, by decide +kernel⟩,
    ⟨onCore (fun k => { k with bypass := [⟨1, 0, 3⟩] }) (base .a), ⟨1, 0, 3⟩, by decide +kernel⟩, ⟨inDelaySlot .a, by decide⟩,
    ⟨onSeq .a fun q => { q with pc := 0x400088 }, by decide +kernel⟩,
    ⟨rep 60, ⟨by decide, by decide +kernel, by decide, ⟨_, rfl⟩, target_of (by decide +kernel)⟩, by decide +kernel⟩,
    ⟨rep 61, ⟨by decide, by decide +kernel, by decide, ⟨_, rfl⟩, target_of (by decide +kernel)⟩, by decide +kernel⟩,
    ⟨at_ 0, by decide +kernel⟩, ⟨at_ 1, by decide +kernel⟩⟩

/-- A descriptor: KLEN, stride in 512 bytes, and L0 offset. -/
def descOf (klen stride off : Nat) : X64 := BitVec.ofNat 64 (klen * 2 ^ 32 + stride * 2 ^ 20 + off)

/-- The A-stream whose next token from the C-stream is the descriptor `d`, with element formats `fa` and `fb`. -/
def withDesc (d : X64) (fa fb : BitVec 5) : State :=
  onCore (fun k => { k.setTq 0 2 [d] with fmtA := fa, fmtB := fb, wAct := { k.wAct with fmt := fb } }) (base .a)

/-- A descriptor that holds and ones that break each rule, shadow weights that load, that wait for an exchange and that do neither, formats
that mix and formats of each kind, depths of 0, 1, 256 and 257, scales that suffice and that do not, and an array that is free, that
streams, and that waits for an exchange. -/
theorem witness_matrix_words :
    let d (s : State) : X64 := (s.payload ⟨1, 0⟩).getD 0
    let begins (s : State) : Prop := s.tokWait ⟨1, 0⟩ false = none
    let issues (s : State) : Prop := s.tokWait ⟨1, 0⟩ true = none
    let ok (s : State) : Prop := issues s ∧ s.declared s.me 0 = true
    let weights (s : State) := s.descCheck s.me (d s) (tileBytes (elemFmt (s.core s.me).fmtB.toNat)) 4
    let busy (s : State) : Prop := (s.core s.me).shst = 1 ∨ (s.core s.me).swpend.isSome = true
    let checks (s : State) := s.descCheck s.me (d s) (tileBytes (elemFmt (s.core s.me).fmtA.toNat)) (aTiles (dKlen (d s)))
    let a (s : State) : Bool := isMx (s.core s.me).fmtA.toNat
    let b (s : State) : Bool := isMx (s.core s.me).wAct.fmt.toNat
    let mix (s : State) : Bool := isInt (s.core s.me).fmtA.toNat != isInt (s.core s.me).wAct.fmt.toNat
    let sound (s : State) : Prop := ok s ∧ 0 < dKlen (d s) ∧ dKlen (d s) ≤ 256 ∧ mix s = false ∧ checks s = none
    let free (s : State) : Prop := sound s ∧ (s.core s.me).arrayFree ≤ s.gscNow s.me ∧ (s.core s.me).swpend = none
    let still (s : State) : Prop := ok s ∧ (s.core s.me).swpend = none
    (∃ s : State, begins s ∧ s.declared s.me 0 = true) ∧ (∃ s : State, begins s ∧ s.declared s.me 0 = false) ∧
    (∃ s : State, issues s ∧ s.declared s.me 0 = false ∧ (s.core s.me).swpend = none) ∧
    (∃ s : State, issues s ∧ weights s = none ∧ ¬ busy s ∧ (s.core s.me).mwls = []) ∧
    (∃ s : State, issues s ∧ weights s = none ∧ (s.core s.me).shst = 1) ∧
    (∃ s : State, issues s ∧ weights s = none ∧ ¬ busy s ∧ (s.core s.me).mwls ≠ []) ∧
    (∃ s : State, issues s ∧ (s.core s.me).shst ≠ 1 ∧ (s.core s.me).swpend.isSome = true) ∧
    (∃ s : State, issues s ∧ weights s = some (s.illegal true)) ∧
    (∃ s : State, free s ∧ dKlen (d s) = 1 ∧ a s = false ∧ b s = false ∧ (s.core s.me).arrayFree = s.gscNow s.me) ∧
    (∃ s : State, free s ∧ dKlen (d s) = 256 ∧ a s = true ∧ b s = true ∧ (s.core s.me).scales.length = 12) ∧
    (∃ s : State, free s ∧ dKlen (d s) = 256 ∧ a s = true ∧ b s = true ∧ (s.core s.me).scales.length = 11) ∧
    (∃ s : State, sound s ∧ a s = false ∧ (s.core s.me).arrayFree = s.gscNow s.me + 1 ∧ (s.core s.me).swpend = none) ∧
    (∃ s : State, sound s ∧ a s = true ∧ (s.core s.me).arrayFree = s.gscNow s.me + 1 ∧ (s.core s.me).swpend = none) ∧
    (∃ s : State, still s ∧ mix s = true) ∧ (∃ s : State, still s ∧ a s = true) ∧ (∃ s : State, still s ∧ a s = false ∧ b s = false) ∧
    (∃ s : State, still s ∧ mix s = false ∧ dKlen (d s) = 0) ∧ (∃ s : State, still s ∧ mix s = false ∧ 256 < dKlen (d s)) ∧
    ∃ s : State, still s ∧ 0 < dKlen (d s) ∧ dKlen (d s) ≤ 256 ∧ mix s = false ∧ (checks s).isSome = true :=
  let bf := withDesc (descOf 1 18 0) 0x0F 0x0F
  let mx := withDesc (descOf 256 40 512) 0x14 0x18
  let scaled (n : Nat) := onCore (fun k => { k with scales := List.replicate n 0 }) mx
  let load : Mwl := { desc := 0, fmt := 0x0F, item := some 0 }
  ⟨⟨bf, by decide +kernel⟩, ⟨{ bf with copies := [] }, by decide +kernel⟩, ⟨{ bf with copies := [] }, by decide +kernel⟩,
    ⟨bf, by decide +kernel⟩, ⟨onCore (fun k => { k with shst := 1 }) bf, by decide +kernel⟩,
    ⟨onCore (fun k => { k with mwls := [load] }) bf, by decide +kernel⟩, ⟨onCore (fun k => { k with swpend := some (0, 0) }) bf, by decide +kernel⟩,
    ⟨withDesc (descOf 1 0 0) 0x0F 0x0F, by decide +kernel⟩, ⟨bf, by decide +kernel⟩, ⟨scaled 12, by decide +kernel⟩,
    ⟨scaled 11, by decide +kernel⟩, ⟨onCore (fun k => { k with arrayFree := 1 }) bf, by decide +kernel⟩,
    ⟨onCore (fun k => { k with arrayFree := 1 }) mx, by decide +kernel⟩, ⟨withDesc (descOf 1 18 0) 0x0F 4, by decide +kernel⟩,
    ⟨mx, by decide +kernel⟩, ⟨bf, by decide +kernel⟩, ⟨withDesc (descOf 0 18 0) 0x0F 0x0F, by decide +kernel⟩,
    ⟨withDesc (descOf 257 18 0) 0x0F 0x0F, by decide +kernel⟩, ⟨withDesc (descOf 1 18 8) 0x0F 0x0F, by decide +kernel⟩⟩

/-- A group that is frozen and one that is not, with an MMA whose last piece is still to be read, in the first and the last of its streaming
cycles and beside them, one that is early, one whose write cycle has come, with room for its token and without; an exchange before and in
the array free cycle; an MWL whose last piece is still to be read, one that is early, one that has loaded, with room and without, and one
that follows a copy. -/
theorem witness_matrix_events :
    let x : Mma := { tile := 1, half := 0, klen := 1, fa := 0x0F, fb := 0x0F, a := Vector.replicate 4 0, w := Vector.replicate 4 0
                     sa := none, sb := none, push := 1, pc := 0x400080 }
    let last := x.at_ + 32 * (planeP (elemFmt x.fa.toNat) * planeP (elemFmt x.fb.toNat))
    let early (s : State) : Prop := s.gscNow s.me < last + 3
    let runs (s : State) : Prop := s.frozenCore s.me = false ∧ (s.core s.me).mmas = [x]
    let loads (s : State) (w : Mwl) : Prop := s.frozenCore s.me = false ∧ (s.core s.me).mwls = [w] ∧ (s.core s.me).shst = 1
    let tp (f : BitVec 5) := tileBytes (elemFmt f.toNat) / 16
    let piece (s : State) : Prop := runs s ∧ s.about.isLoad = true ∧ s.about.k = 0 ∧ s.about.n ∉ x.took ∧
      s.about.n + 1 = aTiles x.klen * tp x.fa
    let loaded (w : Mwl) : Nat := w.at_ + tp w.fmt
    (∃ s : State, s.frozenCore s.me = true) ∧
    (∃ s : State, piece s ∧ x.at_ + 1 = s.gscNow s.me ∧ s.gscNow s.me ≤ last) ∧
    (∃ s : State, piece s ∧ x.at_ < s.gscNow s.me ∧ s.gscNow s.me = last) ∧
    (∃ s : State, piece s ∧ s.gscNow s.me = x.at_) ∧ (∃ s : State, piece s ∧ s.gscNow s.me = last + 1) ∧
    (∃ s : State, runs s ∧ s.about.isLoad = false ∧ early s) ∧
    (∃ s : State, runs s ∧ s.about.isLoad = false ∧ ¬ early s ∧ (s.core s.me).tokRoom .a x.push = false) ∧
    (∃ s : State, runs s ∧ s.about.isLoad = false ∧ ¬ early s ∧ (s.core s.me).tokRoom .a x.push = true) ∧
    (∃ s : State, s.frozenCore s.me = false ∧ (s.core s.me).swpend = some (1, 0x400080) ∧ s.gscNow s.me + 1 = (s.core s.me).arrayFree) ∧
    (∃ s : State, s.frozenCore s.me = false ∧ (s.core s.me).swpend = some (1, 0x400080) ∧ (s.core s.me).arrayFree = s.gscNow s.me ∧
      (s.core s.me).tokRoom .a 1 = true) ∧
    (∃ (s : State) (w : Mwl), loads s w ∧ s.about.isLoad = true ∧ s.about.n ∉ w.took ∧ s.about.n + 1 = 4 * tp w.fmt ∧
      w.at_ < s.gscNow s.me ∧ s.gscNow s.me = loaded w) ∧
    (∃ (s : State) (w : Mwl), loads s w ∧ s.about.isLoad = false ∧ s.gscNow s.me + 1 = loaded w) ∧
    (∃ (s : State) (w : Mwl), loads s w ∧ s.about.isLoad = false ∧ s.gscNow s.me = loaded w ∧ (s.core s.me).tokRoom .a w.push = false) ∧
    (∃ (s : State) (w : Mwl), loads s w ∧ s.about.isLoad = false ∧ s.gscNow s.me = loaded w ∧ (s.core s.me).tokRoom .a w.push = true ∧
      w.item = none) ∧
    ∃ (s : State) (w : Mwl), s.frozenCore s.me = false ∧ (s.core s.me).mwls = [w] ∧ w.item.isSome = true ∧ (s.core s.me).shst ≠ 1 ∧
      (s.core s.me).swpend = none :=
  let x : Mma := { tile := 1, half := 0, klen := 1, fa := 0x0F, fb := 0x0F, a := Vector.replicate 4 0, w := Vector.replicate 4 0
                   sa := none, sb := none, push := 1, pc := 0x400080 }
  let at_ (gsc n : Nat) (load : Bool) (s : State) : State :=
    onTask (fun t => { t with gsc := gsc }) { s with about := { s.about with isLoad := load, n := n } }
  let mma := onCore (fun k => { k with mmas := [x] }) (base .a)
  let swap := onCore (fun k => { k with swpend := some (1, 0x400080), arrayFree := 7 }) (base .a)
  let w : Mwl := { desc := 0, fmt := 0x0F, push := 1 }
  let full (s : State) : State := onCore (fun k => k.setTq 2 0 (List.replicate 15 0)) s
  let mwl := onCore (fun k => { k with mwls := [w], shst := 1 }) (base .a)
  ⟨⟨onTask (fun t => { t with wire := true }) (base .a), by decide +kernel⟩, ⟨at_ 1 575 true mma, by decide +kernel⟩,
    ⟨at_ 128 575 true mma, by decide +kernel⟩, ⟨at_ 0 575 true mma, by decide +kernel⟩, ⟨at_ 129 575 true mma, by decide +kernel⟩,
    ⟨at_ 130 0 false mma, by decide +kernel⟩,
    ⟨at_ 131 0 false (full mma), by decide +kernel⟩, ⟨at_ 131 0 false mma, by decide +kernel⟩,
    ⟨at_ 6 0 false swap, by decide +kernel⟩, ⟨at_ 7 0 false swap, by decide +kernel⟩, ⟨at_ 576 2303 true mwl, w, by decide +kernel⟩,
    ⟨at_ 575 0 false mwl, w, by decide +kernel⟩, ⟨at_ 576 0 false (full mwl), w, by decide +kernel⟩, ⟨at_ 576 0 false mwl, w, by decide +kernel⟩,
    ⟨onCore (fun k => { k with mwls := [{ desc := 0, fmt := 0x0F, item := some 0 }] }) (base .a), _, by decide +kernel, rfl,
      by decide +kernel⟩⟩

/-- The checks of the object address `v`, an absolute one, pass. -/
def placed (s : State) (v : X64) (size key : Nat) : Bool :=
  let o := ObjAddr.of v
  decide (o.off % size = 0) && objForm v && o.abs && (s.allot (s.desc s.me) o.level o.col o.off size).isNone &&
    decide (keyPlace o.level o.col o.off = key)

theorem object_of {s : State} {v : X64} {size kind key : Nat} (h : placed s v size key = true) : s.object v size kind = .key key {} s := by
  simp only [placed, Bool.and_eq_true, decide_eq_true_eq, Option.isNone_iff_eq_none] at h
  obtain ⟨⟨⟨⟨h1, h2⟩, h3⟩, h4⟩, h5⟩ := h
  simp [State.object, h1, h2, h3, h4, h5]

/-- The object address of byte `off` of layer T1 of column 0, and its key. -/
def objAt (off : Nat) : X64 := BitVec.ofNat 64 (2 ^ 63 + 2 ^ 29 + off)

/-- Core 0 with x1 the address of an object at the start of T1 of column 0, x2 `b`, x3 `c`, and the object `v`. -/
def withObject (v : Nat) (b c : X64) : State :=
  setReg 1 (objAt 0) (setReg 2 b (setReg 3 c ((base .c).write 0x1000000000000 (natBytes v 16))))

/-- A barrier that expects one arrival, its numbers of pending bytes and arrivals, and whether it notifies. -/
def barrierOf (pend arr note : Nat) : Nat :=
  (Barrier.mk 0 (BitVec.ofNat 1 note) 0 5 (BitVec.ofNat 16 arr) 1 (BitVec.ofNat 48 pend)).bits.toNat

/-- A barrier whose changes go below 0, to 2^48, past its arrivals, to the end of its phase with and without a notification, and stay inside
it; a counter at its greatest value and past it; waits whose condition holds and does not, with a limit and without; an earlier acquire
load that is not performed; an object behind what the column has sent to its column; and a store before it that is not visible. -/
theorem witness_objects :
    let key := 0x1000000000000
    let far := keyPlace 1 1 0
    let changes (s : State) (n : Nat) : Prop := s.object (s.x 1) n 2 = .key key {} s ∧ s.fenceRel 5 = true ∧ s.clearTo s.me key = true ∧ poisonIn s key n = none ∧
      ({} : Trans).log = false ∧ s.plogKey (s.slotOf s.me) key = false
    let seen (s : State) (n : Nat) : Prop := s.object (s.x 1) n 0 = .key key {} s ∧ (s.core s.me).cStores = [] ∧
      (s.core s.me).cReads = [] ∧ s.l0Then = [] ∧ noHole s key n = true ∧ poisonIn s key n = none ∧ s.clearTo s.me key = true
    let held (s : State) (n : Nat) : Prop := s.object (s.x 1) n 0 = .key key {} s ∧ ∃ r ∈ (s.core s.me).cReads, r.acq = true ∧
      r.value = none ∧ r.no + 1 = (s.core s.me).accNo
    let p (s : State) : Int := (s.barrier key).pend.toNat + (s.x 2).toInt
    let m (s : State) : Nat := (s.barrier key).arr.toNat + (s.x 2).toNat
    (∃ s : State, changes s 16 ∧ p s = -1) ∧ (∃ s : State, changes s 16 ∧ p s = 2 ^ 48) ∧
    (∃ s : State, changes s 16 ∧ m s = 2 ∧ (s.barrier key).exp = 1) ∧
    (∃ s : State, changes s 16 ∧ p s = 0 ∧ (s.barrier key).arr = 1 ∧ (s.barrier key).exp = 1 ∧ (s.barrier key).note = 1) ∧
    (∃ s : State, changes s 16 ∧ (s.barrier key).pend = 0 ∧ m s = 1 ∧ (s.barrier key).exp = 1 ∧ (s.barrier key).note = 0) ∧
    (∃ s : State, changes s 16 ∧ p s = 2 ^ 48 - 1) ∧
    (∃ s : State, changes s 8 ∧ rdNat s.mem key 8 + (s.x 2).toNat = 2 ^ 64 - 1) ∧
    (∃ s : State, changes s 8 ∧ rdNat s.mem key 8 + (s.x 2).toNat = 2 ^ 64) ∧
    (∃ s : State, seen s 16 ∧ (s.barrier key).phase = fld (s.x 2) 0 1) ∧
    (∃ s : State, seen s 16 ∧ (s.barrier key).phase ≠ fld (s.x 2) 0 1 ∧ bitsNat (s.x 2) 27 8 = 1) ∧
    (∃ s : State, seen s 16 ∧ (s.barrier key).phase ≠ fld (s.x 2) 0 1 ∧ bitsNat (s.x 2) 27 8 = 0) ∧
    (∃ s : State, seen s 8 ∧ (s.x 2).toNat = rdNat s.mem key 8) ∧
    (∃ s : State, seen s 8 ∧ rdNat s.mem key 8 < (s.x 2).toNat ∧ bitsNat (s.x 3) 19 0 = 1) ∧
    (∃ s : State, seen s 8 ∧ rdNat s.mem key 8 < (s.x 2).toNat ∧ bitsNat (s.x 3) 19 0 = 0) ∧
    (∃ s : State, held s 16) ∧ (∃ s : State, held s 8) ∧
    (∃ s : State, s.object (s.x 1) 16 2 = .key far {} s ∧ s.fenceRel 5 = true ∧ s.clearTo s.me far = false) ∧
    ∃ s : State, s.object (s.x 1) 16 2 = .key key {} s ∧ s.fenceRel 5 = false :=
  let r : Read := { acq := true }
  let waits := onCore (fun k => { k with cReads := [r], accNo := 1 }) (withObject 0 0 0)
  ⟨⟨withObject (barrierOf 0 0 0) (-1) 0, ⟨object_of (by decide +kernel), by decide +kernel⟩, by decide +kernel⟩,
    ⟨withObject (barrierOf 1 0 0) (2 ^ 48 - 1) 0, ⟨object_of (by decide +kernel), by decide +kernel⟩, by decide +kernel⟩,
    ⟨withObject (barrierOf 1 1 0) 1 0, ⟨object_of (by decide +kernel), by decide +kernel⟩, by decide +kernel⟩,
    ⟨withObject (barrierOf 1 1 1) (-1) 0, ⟨object_of (by decide +kernel), by decide +kernel⟩, by decide +kernel⟩,
    ⟨withObject (barrierOf 0 0 0) 1 0, ⟨object_of (by decide +kernel), by decide +kernel⟩, by decide +kernel⟩,
    ⟨withObject (barrierOf 0 0 0) (2 ^ 48 - 1) 0, ⟨object_of (by decide +kernel), by decide +kernel⟩, by decide +kernel⟩,
    ⟨withObject 0 (2 ^ 64 - 1) 0, ⟨object_of (by decide +kernel), by decide +kernel⟩, by decide +kernel⟩,
    ⟨withObject 1 (2 ^ 64 - 1) 0, ⟨object_of (by decide +kernel), by decide +kernel⟩, by decide +kernel⟩,
    ⟨withObject (barrierOf 0 0 0) 0 0, ⟨object_of (by decide +kernel), by decide +kernel⟩, by decide +kernel⟩,
    ⟨withObject (barrierOf 0 0 0) 0x101 0, ⟨object_of (by decide +kernel), by decide +kernel⟩, by decide +kernel⟩,
    ⟨withObject (barrierOf 0 0 0) 1 0, ⟨object_of (by decide +kernel), by decide +kernel⟩, by decide +kernel⟩,
    ⟨withObject 7 7 1, ⟨object_of (by decide +kernel), by decide +kernel⟩, by decide +kernel⟩,
    ⟨withObject 7 8 1, ⟨object_of (by decide +kernel), by decide +kernel⟩, by decide +kernel⟩,
    ⟨withObject 7 8 0, ⟨object_of (by decide +kernel), by decide +kernel⟩, by decide +kernel⟩,
    ⟨waits, object_of (by decide +kernel), r, by decide +kernel⟩, ⟨waits, object_of (by decide +kernel), r, by decide +kernel⟩,
    ⟨setReg 1 (objAt (2 ^ 32)) { base .c with mesh := [{ core := 0, stream := .s, isLoad := false, no := 0, col := 1, l0 := false }] },
      object_of (by decide +kernel), by decide +kernel⟩,
    ⟨onCore (fun k => { k with cStores := [{ pieces := [(keyL0 0 0, [1])] }] }) (withObject 0 0 0), object_of (by decide +kernel),
      by decide +kernel⟩⟩

/-- The machine with a READY kernel 0 and one task that is ready, with a queue that lets it start and energy for it. -/
def readyTask : State :=
  let s := base .c
  { s with cores := [], agenda := [], kernels := [(0, { st := 2, copy := 0 })], queues := [(0, { st := .enabled })]
           hub := { s.hub with budget := Vector.replicate 4 409600 }
           tasks := [(0, { st := .ready, homeCol := some 0, card := { prio := 0 } })] }

/-- A group of one, of two with the other member arrived and not, and a core without a task; a running task; a notification for a condition
that then holds, and for one registered after it was sent; a task that a round starts, and a core of its
group and one outside it; a task that ages and one that has not; a wire to release, after a freeze while it ran and after one before its first cycle, and one that is
held. -/
theorem witness_groups_and_dispatch :
    let mine (k : Core) : Prop := k.task = some 0 ∧ k.ended = false
    let all (s : State) : Prop :=
      ∀ e ∈ (s.modCore s.me fun k => { k with gsyncIn := true }).cores, mine e.2 → e.2.gsyncIn = true
    let phase (x : Task) := (if x.freezeAt < x.start then x.start else x.freezeAt) % 8
    let round (s : State) : State := { s with roundAt := some s.cycle }
    (∃ s : State, s.inSlot = true) ∧
    (∃ s : State, s.inSlot = false ∧ s.st = .c ∧ mine (s.core s.me) ∧ all s ∧ mine (s.core 1)) ∧
    (∃ s : State, s.inSlot = false ∧ s.st = .c ∧ mine (s.core s.me) ∧ all s ∧ ¬ mine (s.core 1)) ∧
    (∃ s : State, s.inSlot = false ∧ mine (s.core s.me) ∧ ¬ all s) ∧
    (∃ s : State, s.inSlot = false ∧ s.st = .c ∧ (s.core s.me).task = none) ∧
    (∃ (s : State) (x : Task), (s.core s.me).task = some 0 ∧ look 0 s.tasks = some x) ∧ (∃ s : State, (s.core s.me).task = none) ∧
    (∃ (s : State) (x : Task), s.notes[s.about.k]? = some (5, 3) ∧ (∀ e ∈ s.notes.take s.about.k, e.1 ≠ 5) ∧ look 0 s.tasks = some x ∧
      x.st = .waiting ∧ x.waits = [⟨5, 2, 3, false, 0⟩]) ∧
    (∃ (s : State) (x : Task), s.notes[s.about.k]? = some (5, 3) ∧ (∀ e ∈ s.notes.take s.about.k, e.1 ≠ 5) ∧ look 0 s.tasks = some x ∧
      x.st = .waiting ∧ x.waits = [⟨5, 2, 3, false, 1⟩]) ∧
    (∃ (s : State) (x : Task), s.notes[s.about.k]? = some (5, 3) ∧ (∀ e ∈ s.notes.take s.about.k, e.1 ≠ 5) ∧ look 0 s.tasks = some x ∧
      x.st ≠ .waiting) ∧
    (∃ s : State, s.hub.ready = true ∧ s.cycle % 8 = 0 ∧ s.roundAt ≠ some s.cycle ∧ s.tasks = []) ∧
    (∃ (s : State) (x : Task), s.hub.ready = true ∧ s.cycle % 8 = 0 ∧ s.roundAt ≠ some s.cycle ∧ s.tasks = [(0, x)] ∧ x.saved = none ∧
      x.bound = false ∧ x.home < 4 ∧ x.homeCol.isSome = true ∧ (round s).isAged x = false ∧ (round s).mayStart x = true ∧
      (round s).place1 x.home 0 x = some 0 ∧ (round s).admits x.home 0 x = true ∧ (round s).kernelFault x = none ∧
      (rectCores 0 x.card.w x.card.h)[0]? = some 0 ∧ 1 ∉ rectCores 0 x.card.w x.card.h) ∧
    (∃ (s : State) (x : Task), look s.about.k s.tasks = some x ∧ x.st = .ready ∧ s.cycle = x.readyAt + s.hub.ageiv.toNat) ∧
    (∃ (s : State) (x : Task), look s.about.k s.tasks = some x ∧ s.cycle + 1 = x.readyAt + s.hub.ageiv.toNat) ∧
    (∃ (s : State) (x : Task), look s.about.k s.tasks = some x ∧ x.wire = true ∧ x.frozen = [] ∧ x.freezeAt ≤ s.cycle ∧ x.thawAt < s.cycle ∧
      s.cycle % 8 = phase x ∧ x.start ≤ x.freezeAt) ∧
    (∃ (s : State) (x : Task), look s.about.k s.tasks = some x ∧ x.wire = true ∧ x.frozen = [] ∧ x.freezeAt ≤ s.cycle ∧ x.thawAt < s.cycle ∧
      s.cycle % 8 = phase x ∧ x.freezeAt < x.start) ∧
    (∃ (s : State) (x : Task), look s.about.k s.tasks = some x ∧ s.cycle % 8 ≠ phase x) ∧
    (∃ (s : State) (x : Task), look s.about.k s.tasks = some x ∧ x.frozen ≠ []) ∧
    (∃ s : State, (s.core s.about.core.toNat).task = none) ∧ ∃ s : State, (s.core s.about.core.toNat).task ≠ none :=
  let w (skip : Nat) : Task := { st := .waiting, waits := [⟨5, 2, 3, false, skip⟩] }
  let r : Task := { st := .ready, homeCol := some 0, card := { prio := 0 } }
  let f : Task := { wire := true, freezeAt := 3 }
  let early : Task := { wire := true, freezeAt := 3, start := 8 }
  ⟨⟨inDelaySlot .c, by decide⟩, ⟨(base .c).setCore 1 { task := some 0, gsyncIn := true }, by decide +kernel⟩, ⟨base .c, by decide +kernel⟩,
    ⟨(base .c).setCore 1 { task := some 0 }, by decide +kernel⟩, ⟨{ base .c with cores := [] }, by decide +kernel⟩,
    ⟨base .c, { st := .running }, by decide +kernel⟩, ⟨State.reset, by decide +kernel⟩,
    ⟨{ State.reset with notes := [(5, 3)], tasks := [(0, w 0)] }, w 0, by decide +kernel⟩,
    ⟨{ State.reset with notes := [(5, 3)], tasks := [(0, w 1)] }, w 1, by decide +kernel⟩,
    ⟨{ State.reset with notes := [(5, 3)], tasks := [(0, r)] }, r, by decide +kernel⟩,
    ⟨{ State.reset with hub := { ready := true } }, by decide +kernel⟩, ⟨readyTask, r, by decide +kernel⟩,
    ⟨{ readyTask with cycle := 70000 }, r, by decide +kernel⟩, ⟨{ readyTask with cycle := 69999 }, r, by decide +kernel⟩,
    ⟨{ State.reset with tasks := [(0, f)], cycle := 11 }, f, by decide +kernel⟩,
    ⟨{ State.reset with tasks := [(0, early)], cycle := 8 }, early, by decide +kernel⟩,
    ⟨{ State.reset with tasks := [(0, f)], cycle := 12 }, f, by decide +kernel⟩,
    ⟨{ State.reset with tasks := [(0, { f with frozen := [.context] })] }, { f with frozen := [.context] }, by decide +kernel⟩,
    ⟨State.reset, by decide +kernel⟩,
    ⟨base .c, by decide +kernel⟩⟩

/-- Virtual addresses below 256 MiB of context 0 are the second tier's from 256 MiB on. -/
def mapped (s : State) : State := (s.write 0 (natBytes 0x8001 8)).write 0x8000 (natBytes 0x1000001F 8)

/-- Byte `a` of the mapped page. -/
def phys (a : Nat) : Nat := 0x10000000 + a

/-- The smallest kernel image: one word of the C-stream, at the virtual address 0x1000. -/
def imageBytes : List Byte :=
  [0x47, 0x4B, 0x52, 0x4E] ++ natBytes 1 2 ++ natBytes 0 2 ++ natBytes 132 4 ++ natBytes 0 4 ++ natBytes 128 4 ++ natBytes 4 4

/-- One KINV with command `cmd`, of an earlier cycle, waits at the hub, of a kernel in state `st`. -/
def kinvOf (cmd : Nat) (st : BitVec 8) : State :=
  let s := onCore (fun k => { k with cmd := some .kinv }) (mapped (base .c))
  { s.write (phys 0x1000) imageBytes with
    kernels := [(0, { st := st })]
    cycle := 1
    kinvs := [{ core := 0, id := 0, desc := BitVec.ofNat 512 (0x1000 + cmd * 2 ^ 72), task := some 0 }] }

/-- One task that has been accepted and has not started, for each of `n`. -/
def tasksOf (n q : Nat) : List (Nat × Task) := (List.range n).map fun i => (i, { queue := q, st := .ready })

/-- A KINV that traps and one that does not; one that waits, and one in the cycle of its acceptance; each command in each state; a card with 255 and with 256 unstarted before it, with a
bad field and without; and a kick of the last queue of the map, of one that is not bound to the task, and of a free one, in a cycle in which another
core has kicked before and in one in which a later core has. -/
theorem witness_kernels_and_spawn :
    let d (s : State) : BitVec 512 := BitVec.ofNat 512 (s.get (s.hub.ktbase.toNat + 64 * (fld (s.x 1) 0 16).toNat) 64)
    let hub (s : State) : Prop := (s.core 0).cmd = some .kinv ∧ (s.seq 0 .c).slot = false ∧ s.about.yes = false ∧
      ∀ r ∈ s.kinvs, r.at_ + 1 = s.cycle ∧ r.begun = false ∧ r.task.isSome = true ∧ (s.core r.core.toNat).task = r.task
    let img (s : State) := ({ s with kinvs := [] } : State).loadChecks 0 0x1000 0
    let card (s : State) : Prop := s.place s.me 0 (offOf 0) 128 128 = .ok (keyL0 0 0) ∧ s.fenceRel 3 = true ∧ poisonIn s (keyL0 0 0) 128 = none
    let fault (s : State) := (s.hubRead (keyL0 0 0)).cardFault (s.slotOf s.me) (BitVec.ofNat 1024 (s.get (keyL0 0 0) 128))
    (∃ s : State, (s.core s.me).cmd ≠ some .kinv ∧ s.fenceRel 5 = true ∧ s.kinvPriv 0 (d s) = true) ∧
    (∃ s : State, (s.core s.me).cmd ≠ some .kinv ∧ s.fenceRel 5 = true ∧ s.kinvPriv 0 (d s) = false) ∧
    (∃ s : State, (s.core s.me).cmd = some .kinv) ∧
    (∃ (s : State) (r : KinvReq), s.kinvs = [r] ∧ s.cycle = r.at_) ∧
    (∃ (s : State) (r : KinvReq), s.kinvs = [r] ∧ hub s ∧ kCmd r.desc = 0) ∧
    (∃ (s : State) (r : KinvReq), s.kinvs = [r] ∧ hub s ∧ kCmd r.desc = 1 ∧ (s.kernel r.id).st = 2) ∧
    (∃ (s : State) (r : KinvReq) (e : BitVec 8), s.kinvs = [r] ∧ hub s ∧ kCmd r.desc = 1 ∧ (s.kernel r.id).st ≠ 2 ∧ img s = .error e) ∧
    (∃ (s : State) (r : KinvReq) (k : Copy), s.kinvs = [r] ∧ hub s ∧ kCmd r.desc = 1 ∧ (s.kernel r.id).st ≠ 2 ∧ img s = .ok k) ∧
    (∃ (s : State) (r : KinvReq), s.kinvs = [r] ∧ hub s ∧ kCmd r.desc = 2 ∧ (s.kernel r.id).st ≠ 2) ∧
    (∃ (s : State) (r : KinvReq), s.kinvs = [r] ∧ hub s ∧ kCmd r.desc = 2 ∧ (s.kernel r.id).st = 2) ∧
    (∃ (s : State) (r : KinvReq), s.kinvs = [r] ∧ hub s ∧ kCmd r.desc = 3 ∧ (s.kernel r.id).st = 2) ∧
    (∃ (s : State) (r : KinvReq), s.kinvs = [r] ∧ hub s ∧ kCmd r.desc = 3 ∧ (s.kernel r.id).st = 0) ∧
    (∃ (s : State) (r : KinvReq), s.kinvs = [r] ∧ hub s ∧ kCmd r.desc = 4) ∧
    (∃ s : State, card s ∧ s.queueCount 131072 = 256) ∧
    (∃ s : State, card s ∧ s.queueCount 131072 = 255 ∧ fault s = none ∧ s.poolCount < poolSize) ∧
    (∃ s : State, card s ∧ s.queueCount 131072 < 256 ∧ fault s = some 1) ∧
    (∃ s : State, s.fenceRel 5 = true ∧ s.isP1 s.me = false ∧ bitsNat (s.x 1) 17 0 = 131328) ∧
    (∃ s : State, s.fenceRel 5 = true ∧ s.isP1 s.me = false ∧ bitsNat (s.x 1) 17 0 = 131072 ∧ (s.queue 131072).ctx = s.slotOf s.me ∧
      s.kickTurn (s.me + 1) = true) ∧
    (∃ s : State, s.fenceRel 5 = true ∧ s.isP1 s.me = true ∧ s.kickAt.1 = s.cycle ∧ s.kickAt.2 = s.me + 1) ∧
    (∃ s : State, s.fenceRel 5 = true ∧ s.isP1 s.me = true ∧ s.kickAt.1 = s.cycle ∧ s.kickAt.2 = s.me + 2) ∧
    (∃ s : State, s.fenceRel 5 = true ∧ s.isP1 s.me = false ∧ bitsNat (s.x 1) 17 0 = 1 ∧ look 1 s.queues = none) ∧
    ∃ s : State, s.fenceRel 5 = false :=
  let cmd1 : State := { (base .c).write 9 [1] with hub := { (base .c).hub with ktbase := 0 } }
  let req (n : Nat) : KinvReq := { core := 0, id := 0, desc := BitVec.ofNat 512 (0x1000 + n * 2 ^ 72), task := some 0 }
  ⟨⟨atP0 cmd1, by decide +kernel⟩, ⟨cmd1, by decide +kernel⟩, ⟨kinvOf 0 0, by decide +kernel⟩,
    ⟨{ kinvOf 0 0 with cycle := 0 }, req 0, by decide +kernel⟩, ⟨kinvOf 0 0, req 0, by decide +kernel⟩,
    ⟨kinvOf 1 2, req 1, by decide +kernel⟩,
    have ⟨e, h⟩ := error_of (e := ({ { kinvOf 1 0 with mem := [] } with kinvs := [] } : State).loadChecks 0 0x1000 0) (by decide +kernel)
    ⟨{ kinvOf 1 0 with mem := [] }, req 1, e, by decide +kernel, by decide +kernel, by decide +kernel, by decide +kernel, h⟩,
    have ⟨k, h⟩ := passes_of (e := ({ kinvOf 1 0 with kinvs := [] } : State).loadChecks 0 0x1000 0) (by decide +kernel)
    ⟨kinvOf 1 0, req 1, k, by decide +kernel, by decide +kernel, by decide +kernel, by decide +kernel, h⟩,
    ⟨kinvOf 2 0, req 2, by decide +kernel⟩, ⟨kinvOf 2 2, req 2, by decide +kernel⟩, ⟨kinvOf 3 2, req 3, by decide +kernel⟩, ⟨kinvOf 3 0, req 3, by decide +kernel⟩,
    ⟨kinvOf 4 0, req 4, by decide +kernel⟩,
    ⟨{ base .c with tasks := tasksOf 256 131072 }, ⟨ok_of (by decide +kernel), by decide +kernel⟩, by decide +kernel⟩,
    ⟨{ base .c with tasks := tasksOf 255 131072 }, ⟨ok_of (by decide +kernel), by decide +kernel⟩, by decide +kernel⟩,
    ⟨(base .c).write (keyL0 0 2) [3], ⟨ok_of (by decide +kernel), by decide +kernel⟩, by decide +kernel⟩,
    ⟨atP0 (setReg 1 131328 (base .c)), by decide +kernel⟩, ⟨atP0 (setReg 1 131072 (base .c)), by decide +kernel⟩,
    ⟨{ base .c with kickAt := (0, 1) }, by decide +kernel⟩, ⟨{ base .c with kickAt := (0, 2) }, by decide +kernel⟩,
    ⟨atP0 (setReg 1 1 (base .c)), by decide +kernel⟩,
    ⟨onCore (fun k => { k with cStores := [{ pieces := [(keyL0 0 0, [1])] }] }) (base .c), by decide +kernel⟩⟩

/-- Queue 0 with ring at the virtual address 0x2000, and what its state cache holds. -/
def queueOf (k : Queue) (w0 : X64) : State :=
  { mapped (base .c) with queues := [(0, { k with ring := 0x2000 })], about := { k := 0, w0 := w0 } }

/-- A replay of graph slot 1, with no patch table. -/
def replay1 : Replay := { slot := 1 }

/-- Hub storage with another image at its limits and one byte more than that leaves, and hub storage with no image. -/
theorem graph_without_room {s : State} {g : Graph} {l : List (BitVec 1024)} (k : s.about.k = 0) (h : s.graphs = [(5, { nodes := l })])
    (n : Config.graphStore + graphMost < l.length) : s.graphRoom s.about.k g = false := by
  unfold State.graphRoom
  rw [h, k]
  have e : ∀ m : Nat, Config.graphStore + graphMost < m → ¬ (g.bytes + 128 * m ≤ Config.graphStore + graphMost) := by omega
  simpa [Graph.bytes] using e _ n

theorem graph_with_room {s : State} {g : Graph} (h : s.graphs = []) (n : g.bytes ≤ graphMost) : s.graphRoom s.about.k g = true := by
  unfold State.graphRoom
  rw [h]
  exact decide_eq_true (Nat.le_trans n (Nat.le_add_left ..))

/-- One graph more than hub storage has room for. -/
def manyNodes : List (BitVec 1024) := List.replicate (Config.graphStore + graphMost + 1) 0

theorem many_nodes : Config.graphStore + graphMost < manyNodes.length :=
  Nat.lt_of_lt_of_eq (Nat.lt_add_one (Config.graphStore + graphMost)) List.length_replicate.symm

/-- What a LOAD of the graph slot finds. -/
def imageAt (s : State) : Except (BitVec 8) Graph :=
  s.graphImage (fld (BitVec.ofNat 256 (s.get (s.hub.gtbase.toNat + 32 * s.about.k) 32)) 0 56)
    (fld (BitVec.ofNat 256 (s.get (s.hub.gtbase.toNat + 32 * s.about.k) 32)) 64 8)

theorem image_at {s : State} {e : Except (BitVec 8) Graph} (h : imageAt s = e) :
    s.graphImage (fld (BitVec.ofNat 256 (s.get (s.hub.gtbase.toNat + 32 * s.about.k) 32)) 0 56)
      (fld (BitVec.ofNat 256 (s.get (s.hub.gtbase.toNat + 32 * s.about.k) 32)) 64 8) = e := h

/-- Tails at the greatest distance that a queue of 16 cards takes, with and without a held replay; a tail with a reserved bit; the 64th replay of
a halted queue; a disabled queue, one with a good descriptor and one with order 3; a card that cannot be read, one with a bad field and a good
one; a replay of a slot that is not loaded and of one that is; every command in the states it acts in; a graph slot to load, with room and
without, and to unload; and the kicks of the host port before and after one of a core. -/
theorem witness_queue_events :
    let k (s : State) : Queue := s.queue s.about.k
    let kicks (s : State) : Prop := s.kickTurn 0 = true ∧ s.about.k < 131072 ∧ (k s).st = .enabled ∧ s.about.w0.getLsbD 63 = false
    let good (s : State) : Prop :=
      let d : BitVec 512 := BitVec.ofNat 512 (s.get (s.hub.qtbase.toNat + 64 * s.about.k) 64)
      4 ≤ bitsNat d 71 64 ∧ bitsNat d 71 64 ≤ 16 ∧ bitsNat d 6 0 = 0 ∧ bitsNat d 63 56 = 0 ∧ (s.ctx (fld d 72 8)).st.usable = true
    let next (s : State) : Prop := s.accepting (k s) = true ∧ s.poolCount < poolSize
    let image (s : State) := s.graphImage (fld (BitVec.ofNat 256 (s.get (s.hub.gtbase.toNat + 32 * s.about.k) 32)) 0 56)
      (fld (BitVec.ofNat 256 (s.get (s.hub.gtbase.toNat + 32 * s.about.k) 32)) 64 8)
    (∃ s : State, kicks s ∧ bitsNat s.about.w0 62 32 = 0 ∧ (fld s.about.w0 0 32 - (k s).lastTail : BitVec 32).toNat < 2 ^ 31 ∧
      (fld s.about.w0 0 32 - (k s).head : BitVec 32).toNat = 2 ^ (k s).order ∧ (k s).replays = []) ∧
    (∃ s : State, kicks s ∧ bitsNat s.about.w0 62 32 = 0 ∧ (fld s.about.w0 0 32 - (k s).lastTail : BitVec 32).toNat < 2 ^ 31 ∧
      (fld s.about.w0 0 32 - (k s).head : BitVec 32).toNat ≤ 2 ^ (k s).order ∧ (k s).replays = [] ++ [replay1]) ∧
    (∃ s : State, kicks s ∧ bitsNat s.about.w0 62 32 ≠ 0) ∧
    (∃ s : State, (k s).st = .halted ∧ s.about.w0.getLsbD 63 = true ∧ (k s).replays.length = 63) ∧
    (∃ s : State, (k s).st = .disabled ∧ good s) ∧ (∃ s : State, (k s).st = .disabled ∧ ¬ good s) ∧
    (∃ s : State, next s ∧ (k s).head ≠ (k s).tail ∧ s.ringCard (k s) = none) ∧
    (∃ (s : State) (b : BitVec 1024), next s ∧ (k s).head ≠ (k s).tail ∧ s.ringCard (k s) = some b ∧ s.cardFault (k s).ctx b = some 1) ∧
    (∃ (s : State) (b : BitVec 1024), next s ∧ (k s).head ≠ (k s).tail ∧ s.ringCard (k s) = some b ∧ s.cardFault (k s).ctx b = none) ∧
    (∃ s : State, next s ∧ (k s).head = (k s).tail ∧ (k s).replays = [replay1] ∧ s.replayBehind replay1 = false ∧
      fails (s.replayCards (k s).ctx replay1) = true) ∧
    (∃ s : State, next s ∧ (k s).head = (k s).tail ∧ (k s).replays = [replay1] ∧ s.replayBehind replay1 = false ∧
      fails (s.replayCards (k s).ctx replay1) = false) ∧
    (∃ s : State, (k s).st = .enabled ∧ (k s).closed = false ∧ (k s).head = (k s).tail ∧ (k s).replays = []) ∧
    (∃ s : State, (k s).st = .halted) ∧ (∃ s : State, (k s).st = .faulted ∧ (k s).rereads = true ∧ (k s).head ≠ (k s).tail) ∧
    (∃ s : State, (k s).st = .faulted ∧ (k s).rereads = true ∧ (k s).head = (k s).tail ∧ (k s).replays = [replay1]) ∧
    (∃ s : State, (k s).st ≠ .disabled ∧ ∀ e ∈ s.tasks, e.2.queue = s.about.k → e.2.unstarted = true) ∧
    (∃ (s : State) (g : Graph), image s = .ok g ∧ s.graphRoom s.about.k g = false) ∧
    (∃ (s : State) (g : Graph), image s = .ok g ∧ s.graphRoom s.about.k g = true) ∧
    (∃ s : State, fails (image s) = true) ∧ (∃ s : State, s.kickTurn 0 = false) ∧ (∃ s : State, s.kickTurn 0 = true ∧ (k s).st = .disabled) ∧
    (∃ s : State, (s.graph s.about.k).loaded = true ∧ s.graphHeld s.about.k = true) ∧
    ∃ s : State, (s.graph s.about.k).loaded = true ∧ s.graphHeld s.about.k = false :=
  let q (k : Queue) (w0 : X64) := queueOf { k with st := .enabled } w0
  let enables (order : Nat) : State :=
    { (queueOf {} 0).write 0x100008 (natBytes order 1) with hub := { (base .c).hub with qtbase := 0x100000 } }
  let loaded (k : Queue) : State := { q k 0 with graphs := [(1, { loaded := true })] }
  let header : List Byte := [0x47, 0x47, 0x52, 0x46] ++ natBytes 1 4 ++ natBytes 0 8 ++ natBytes 64 4 ++ natBytes 0 8 ++ natBytes 192 4
  let graph : State := { (queueOf {} 0).write 0x200000 (natBytes 0x3000 8) with hub := { (base .c).hub with gtbase := 0x200000 } }
  let good : State := graph.write (phys 0x3000) header
  let full : State := { good with graphs := [(5, { nodes := manyNodes })] }
  ⟨⟨q {} 16, by decide +kernel⟩, ⟨q { replays := [replay1] } 16, by decide +kernel⟩, ⟨q {} (2 ^ 32), by decide +kernel⟩,
    ⟨queueOf { st := .halted, replays := List.replicate 63 replay1 } (2 ^ 63), by decide +kernel⟩,
    ⟨enables 4, by decide +kernel⟩, ⟨enables 3, by decide +kernel⟩,
    ⟨{ q { tail := 1 } 0 with mem := [] }, by decide +kernel⟩, ⟨(q { tail := 1 } 0).write (phys 0x2002) [3], 3 * 2 ^ 16, by decide +kernel⟩,
    ⟨q { tail := 1 } 0, 0, by decide +kernel⟩,
    ⟨q { replays := [replay1] } 0, by decide +kernel⟩, ⟨loaded { replays := [replay1] }, by decide +kernel⟩,
    ⟨q {} 0, by decide +kernel⟩, ⟨queueOf { st := .halted } 0, by decide +kernel⟩,
    ⟨queueOf { st := .faulted, rereads := true, tail := 1 } 0, by decide +kernel⟩,
    ⟨queueOf { st := .faulted, rereads := true, replays := [replay1] } 0, by decide +kernel⟩,
    ⟨{ q {} 0 with tasks := tasksOf 1 0 }, by decide +kernel⟩,
    have ⟨g, h⟩ := passes_of (e := imageAt full) (by decide +kernel)
    ⟨full, g, image_at h, graph_without_room (by decide +kernel) rfl many_nodes⟩,
    have ⟨g, h, n⟩ := ok_with (e := imageAt good) (f := fun g => decide (g.bytes ≤ graphMost)) (by decide +kernel)
    ⟨good, g, image_at h, graph_with_room (by decide +kernel) (of_decide_eq_true n)⟩,
    ⟨graph, by decide +kernel⟩, ⟨{ base .c with kickAt := (0, 1) }, by decide +kernel⟩, ⟨queueOf {} 0, by decide +kernel⟩,
    ⟨{ loaded { replays := [replay1] } with about := { k := 1 } }, by decide +kernel⟩, ⟨{ loaded {} with about := { k := 1 } }, by decide +kernel⟩⟩

/-- A block of bytes with the given values at the given byte offsets. -/
def blockOf (l : List (Nat × Nat)) : BitVec 1024 := BitVec.ofNat 1024 (l.foldl (fun n e => n + e.2 * 2 ^ (8 * e.1)) 0)

/-- The machine with one engine item, which the event is about. -/
def itemIn (i : Item) (s : State) : State := { s with items := [{ i with id := 0 }], nextId := 1, about := { s.about with k := 0 } }

/-- The same with its engine having started it. -/
def runs (fn : Nat) (l : List (Nat × Nat)) : Item := { fn := fn, engine := engineOf fn, st := .running, block := blockOf l }

/-- The source bytes of `Moves` and the state that it leaves, if there is one. -/
def movesTo (s : State) (i : Item) (x : Xfer) : Option (List DByte × State) :=
  match s.resolve i 0 x.src [] with
  | .ok sp v => match v.resolve i 1 x.dst [] with
    | .ok dp w =>
      let l := w.sourceBytes i x sp dp
      if i.phase = 0 ∧ i.moved = none ∧ (∀ p ∈ sp ++ dp, p = .mem (match p with | .mem k _ _ => k | .rem .. => 0) p.bytes
          (match p with | .mem _ _ l => l | .rem .. => false)) ∧ w.tooFresh sp = false ∧ w.partsClear i (sp ++ dp) = true ∧
          w.sickLine i sp x.consumes = none ∧ (w.touchParts sp).barredLine dp (x.f l) = none then
        match (w.touchParts sp).putParts i 0 dp (x.f l) with
        | .ok t => some (l, t)
        | _ => none
      else none
    | _ => none
  | _ => none

/-- `Moves` takes place, from source bytes of which `f` holds. -/
def movesIf (s : State) (i : Item) (x : Xfer) (f : List DByte → Bool) : Bool := (movesTo s i x).any fun r => f r.1

theorem moves_of {s : State} {i : Item} {x : Xfer} {f : List DByte → Bool} (h : movesIf s i x f = true) :
    ∃ l t, Moves s i x l t ∧ f l = true := by
  unfold movesIf movesTo at h
  split at h
  · rename_i sp v e1
    split at h
    · rename_i dp w e2
      simp only at h
      split at h
      · rename_i c
        split at h
        · rename_i t e3
          exact ⟨_, t, ⟨sp, dp, v, w, c.1, c.2.1, e1, e2, fun p hp => ⟨_, _, _, c.2.2.1 p hp⟩, c.2.2.2.1, c.2.2.2.2.1, c.2.2.2.2.2.1, rfl,
            c.2.2.2.2.2.2, e3⟩, h⟩
        · cases h
      · cases h
    · cases h
  · cases h

/-- A read of L0 whose last byte is written in this cycle and one none of whose bytes is; reads of 1, 8 and 16 bytes, with a poisoned line and
without. -/
theorem witness_loads_complete :
    let issues (s : State) (r : Read) : Prop := (s.core s.me).cReads = [] ∧ (s.core s.me).cStores = [] ∧ r.pieces = [(keyL0 0 0, 8)] ∧
      r.atom = none ∧ r.value = none ∧ farKey s.me (keyL0 0 0) = false ∧ noHole s (keyL0 0 0) 8 = true ∧ poisonIn s (keyL0 0 0) 8 = none
    let one (s : State) (r : Read) : Prop := s.st = .c ∧ s.about.n = 0 ∧ (s.core s.me).cReads = [r] ∧ r.no = s.about.k ∧ r.value = some 255 ∧
      r.poison = none ∧ r.remote = false
    (∃ s r, issues s r ∧ s.l0Then = []) ∧ (∃ s r, issues s r ∧ s.l0Then = [(keyL0 0 7, 0)]) ∧
    (∃ (s : State) (r : Read), one s r ∧ r.dst = .x 1 1 true) ∧ (∃ (s : State) (r : Read), one s r ∧ r.dst = .x 0 8 false) ∧
    (∃ (s : State) (r : Read), one s r ∧ r.dst = .xPair 30) ∧
    ∃ (s : State) (r : Read), s.st = .c ∧ s.about.n = 0 ∧ (s.core s.me).read s.about.k = some r ∧ r.value ≠ none ∧ r.poison = some 64 ∧ r.remote = false ∧
      ((s.core s.me).seq .c).halted = false :=
  let r (d : ReadDst) (p : Option X64) : Read := { dst := d, value := some 255, poison := p }
  let w (r : Read) : State := onCore (fun k => { k with cReads := [r] }) (base .c)
  let l : Read := { pieces := [(keyL0 0 0, 8)] }
  ⟨⟨base .c, l, by decide +kernel⟩, ⟨{ base .c with l0Then := [(keyL0 0 7, 0)] }, l, by decide +kernel⟩, ⟨w (r (.x 1 1 true) none), r (.x 1 1 true) none, by decide +kernel⟩,
    ⟨w (r (.x 0 8 false) none), r (.x 0 8 false) none, by decide +kernel⟩, ⟨w (r (.xPair 30) none), r (.xPair 30) none, by decide +kernel⟩,
    ⟨w (r (.x 1 1 true) (some 64)), r (.x 1 1 true) (some 64), by decide +kernel⟩⟩

/-- A use of a block comes to a block of which `f` holds. -/
def blockIs (u : BlockUse) (f : State → Nat → X64 → Bool) : Bool := match u with | .at k a _ _ t => f t k a | .stop _ => false

theorem block_of {u : BlockUse} {f : State → Nat → X64 → Bool} (h : blockIs u f = true) :
    ∃ k a p g t, u = .at k a p g t ∧ f t k a = true := by
  unfold blockIs at h; split at h
  · exact ⟨_, _, _, _, _, rfl, h⟩
  · cases h

/-- The machine whose `n` bytes at the key `k` are those of `v`, written in an earlier cycle. -/
def withBytes (k n v : Nat) : State := { (base .c).write k (natBytes v n) with l0Then := [] }

/-- The items `i` `n` times. -/
def copiesOf (i : Item) (n : Nat) : List Item := (List.range n).map fun k => { i with id := k }

/-- The item that a copy command makes. -/
def copyItem (u : State) (fn key : Nat) (addr : X64) : Item :=
  { u.newItem fn 0 key addr [] with block := BitVec.ofNat 1024 (u.get key (blockBytes fn)), st := .accepted }

/-- A copy whose head fails, one whose length is 0, one of a byte with its queue full and with one place left; a command of the other engines
in its two forms, with the queue full and with room; and a command that waits for its edge. -/
theorem witness_engine_commands :
    let ready (u : State) (fn key : Nat) : Prop := u.fenceRel 0 = true ∧ poisonIn u key (blockBytes fn) = none
    let full (u : State) (k e : Nat) (i : Item) : Bool := (u.touch k false).queueFull { i with engine := e }
    (∃ s : State, blockIs (s.placeBlock 1 0) (fun u k a => decide (ready u 0 k ∧ (u.headCheck (copyItem u 0 k a)).isSome = true)) = true) ∧
    (∃ s : State, blockIs (s.placeBlock 1 0) (fun u k a => decide (ready u 0 k ∧ u.headCheck (copyItem u 0 k a) = none ∧
      fails (u.copyCheck (copyItem u 0 k a)) = true)) = true) ∧
    (∃ s : State, blockIs (s.placeBlock 1 0) (fun u k a => decide (ready u 0 k ∧ u.headCheck (copyItem u 0 k a) = none ∧
      isOk (u.copyCheck (copyItem u 0 k a)) 0 = true ∧ full u k 0 (copyItem u 0 k a) = true)) = true) ∧
    (∃ s : State, blockIs (s.placeBlock 1 0) (fun u k a => decide (ready u 0 k ∧ u.headCheck (copyItem u 0 k a) = none ∧
      isOk (u.copyCheck (copyItem u 0 k a)) 0 = true ∧ full u k 0 (copyItem u 0 k a) = false)) = true) ∧
    (∃ s : State, blockIs (s.handleBlock 3 1) (fun u k a => decide (ready u 1 k ∧ u.headCheck (copyItem u 1 k a) = none ∧
      isOk (u.copyCheck (copyItem u 1 k a)) 1 = true ∧ full u k 1 (copyItem u 1 k a) = false)) = true) ∧
    (∃ s : State, blockIs (s.placeBlock 1 2) (fun u k a => decide (ready u 2 k ∧ u.headCheck (copyItem u 2 k a) = none ∧
      isOk (u.copyCheck (copyItem u 2 k a)) 0 = true ∧ full u k 0 (copyItem u 2 k a) = false)) = true) ∧
    (∃ s : State, blockIs (s.handleBlock 3 1) (fun u k a => u.fenceRel 0 && !u.queueFull (u.newItem 8 12 k a [])) = true) ∧
    (∃ s : State, blockIs (s.placeBlock 1 4) (fun u k a => u.fenceRel 0 && u.queueFull (u.newItem 4 9 k a [])) = true) ∧
    (∃ s : State, blockIs (s.placeBlock 1 4) (fun u k a => u.fenceRel 0 && !u.queueFull (u.newItem 4 9 k a [])) = true) ∧
    ∃ s : State, blockIs (s.placeBlock 1 0) (fun u _ _ => !u.fenceRel 0) = true :=
  let withBlock (b : BitVec 1024) : State := withBytes (keyL0 0 0) 128 b.toNat
  let good := blockOf [(0x28, 0x7FFFF), (0x30, 1)]
  let index := blockOf [(0x28, 0x20000000), (0x30, 4), (0x34, 1)]
  let cpym := blockOf [(0x30, 1), (0x3D, 4), (0x40, 0x100000)]
  let atHandle (b : BitVec 1024) : State := withHandle (withBytes 0x1000000000000 128 b.toNat)
  ⟨⟨withBlock (2 ^ 20), by decide +kernel⟩, ⟨withBlock 0, by decide +kernel⟩,
    ⟨{ withBlock good with items := copiesOf { st := .accepted } 16 }, by decide +kernel⟩,
    ⟨{ withBlock good with items := copiesOf { st := .accepted } 15 }, by decide +kernel⟩,
    ⟨atHandle index, by decide +kernel⟩, ⟨withBlock cpym, by decide +kernel⟩,
    ⟨withHandle (base .c), by decide +kernel⟩, ⟨{ base .c with items := copiesOf { fn := 4, engine := 9 } 8 }, by decide +kernel⟩,
    ⟨{ base .c with items := copiesOf { fn := 4, engine := 9 } 7 }, by decide +kernel⟩,
    ⟨onCore (fun k => { k with cStores := [{ pieces := [(keyL0 0 0, [1])] }] }) (base .c), by decide +kernel⟩⟩
/-- The machine with core 0's engine item `i`, which the event is about; a second tile of bytes stands in its L0. -/
def withItem (i : Item) : State := itemIn i (withBytes (keyL0 0 0) 8 0x0807060504030201)

/-- An item that is accepted with its block. -/
def accepted (fn : Nat) (l : List (Nat × Nat)) : Item := { runs fn l with st := .accepted }

/-- An item whose block, at the key 0x1000000000000, its engine has not read. -/
def unread (fn : Nat) : Item := { fn := fn, engine := engineOf fn, blockKey := 0x1000000000000 }

/-- The machine with that item and its block. -/
def queued (fn : Nat) (l : List (Nat × Nat)) : State :=
  itemIn (unread fn) (withBytes 0x1000000000000 128 (blockOf l).toNat)

/-- The parts of some ranges are all in memory, and `f` holds of them. -/
def resolves (r : Resolved) (f : State → List EPiece → Bool) : Bool := match r with
  | .ok sp v => (sp.all fun p => match p with | .mem .. => true | .rem .. => false) && f v sp
  | _ => false

theorem resolved_of {r : Resolved} {f : State → List EPiece → Bool} (h : resolves r f = true) :
    ∃ sp v, r = .ok sp v ∧ (∀ p ∈ sp, ∃ k n l, p = EPiece.mem k n l) ∧ f v sp = true := by
  unfold resolves at h; split at h
  · rename_i sp v
    rw [Bool.and_eq_true, List.all_eq_true] at h
    refine ⟨sp, v, rfl, fun p hp => ?_, h.2⟩
    have := h.1 p hp
    cases p with
    | mem k n l => exact ⟨k, n, l, rfl⟩
    | rem => cases this
  · cases h

/-- The event starts piece `about.n` of a copy. -/
def startsPiece (s : State) (i : Item) : Bool := match s.resolve i 0 i.copyXfer.src [] with
  | .ok sp v => match v.resolve i 1 i.copyXfer.dst [] with
    | .ok _ z => !z.tooFresh sp && (match (partPieces sp 0)[s.about.n]? with
      | some p => z.itemClear i p.1
      | none => false)
    | _ => false
  | _ => false

/-- A Scarab stream of one literal byte. -/
def scarab1 : Nat := 0x31535447 + 1 * 2 ^ 32 + 2 * 2 ^ 64 + 5 * 2 ^ 96 + 0x0500 * 2 ^ 128

/-- An index copy moves its bytes by the records that its list names. -/
theorem index_moves {s : State} {i : Item}
    (h : ((s.indexXfer (i.takeRange s i.indexKey (4 * cPitch i.block))).any fun m =>
      movesIf (s.modItem i.id fun y => { y with took := (i.takeRange s i.indexKey (4 * cPitch i.block)).took })
        (i.takeRange s i.indexKey (4 * cPitch i.block)) m fun _ => true) = true) :
    let j := i.takeRange s i.indexKey (4 * cPitch i.block)
    ∃ m l t, s.indexXfer j = some m ∧ Moves (s.modItem i.id fun y => { y with took := j.took }) j m l t := by
  simp only
  cases e : s.indexXfer (i.takeRange s i.indexKey (4 * cPitch i.block)) with
  | none => rw [e] at h; cases h
  | some m =>
    rw [e] at h
    obtain ⟨l, t, h, -⟩ := moves_of (f := fun _ => true) h
    exact ⟨m, l, t, rfl, h⟩

/-- Some bytes are stored whole. -/
def stored (d : Done) : Bool := match d with | .ok _ => true | _ => false

/-- Items that are too new, accepted, of each kind, and refused, with a poisoned block and with their port contained; that start and do not,
with a barrier and without, one whose barrier is poisoned, one that has moved its bytes, and one piece of a copy that starts; at their wait
limit and a cycle before it, with the phase shown and not. -/
theorem witness_engine_items :
    let read (s : State) (i : Item) : Item := { i with block := BitVec.ofNat 1024 (s.get i.blockKey (blockBytes i.fn)) }
    let checks (s : State) (i : Item) := (s.headCheck (read s i)).orElse fun _ => s.bodyCheck (read s i)
    let turn (s : State) (i : Item) : Prop := s.item s.about.k = some i ∧ i.st = .queued ∧ i.at_ < s.cycle ∧ ∀ e ∈ s.earlier i, e.st ≠ .queued
    let sound (s : State) (i : Item) : Prop := poisonIn s i.blockKey (blockBytes i.fn) = none
    let reads (s : State) (i : Item) : Prop := turn s i ∧ sound s i ∧ s.portHeld (read s i) = false
    let starts (s : State) (i : Item) : Prop := s.item s.about.k = some i ∧ i.st = .accepted ∧ (∀ e ∈ s.earlier i, e.inQueue = false) ∧
      bWt i.block = true ∧ s.itemFrozen i = false
    let bar (i : Item) := placeKey i.core.toNat (bWbar i.block)
    (∃ (s : State) (i : Item), s.item s.about.k = some i ∧ i.st = .queued ∧ i.at_ = s.cycle) ∧
    (∃ s i, turn s i ∧ (poisonIn s i.blockKey (blockBytes i.fn)).isSome = true) ∧ (∃ s i, turn s i ∧ sound s i ∧ s.portHeld (read s i) = true) ∧
    (∃ s i, reads s i ∧ checks s i = none ∧ i.fn = 4) ∧ (∃ s i, reads s i ∧ checks s i = none ∧ i.fn = 5) ∧
    (∃ s i, reads s i ∧ checks s i = none ∧ i.fn = 7) ∧ (∃ s i, reads s i ∧ (checks s i).isSome = true) ∧
    (∃ s i, starts s i ∧ poisonIn s (bar i) 16 = none ∧ s.phaseShown i = true) ∧
    (∃ s i, starts s i ∧ poisonIn s (bar i) 16 = none ∧ s.phaseShown i = false) ∧
    (∃ s i, starts s i ∧ (poisonIn s (bar i) 16).isSome = true) ∧
    (∃ (s : State) (i : Item), s.item s.about.k = some i ∧ i.st = .accepted ∧ (∀ e ∈ s.earlier i, e.inQueue = false) ∧ bWt i.block = false) ∧
    (∃ (s : State) (i : Item), s.item s.about.k = some i ∧ i.st = .running ∧ i.moved.isSome = true) ∧
    (∃ (s : State) (i : Item), s.item s.about.k = some i ∧ i.st = .running ∧ i.moved = none ∧ i.fn = 0 ∧ i.phase = 0 ∧ s.about.yes = false ∧
      startsPiece s i = true) ∧
    (∃ s i, starts s i ∧ i.waited = 256 * bWlim i.block ∧ s.phaseShown i = false) ∧
    (∃ s i, starts s i ∧ i.waited = 256 * bWlim i.block ∧ s.phaseShown i = true) ∧
    ∃ s i, starts s i ∧ i.waited + 1 = 256 * bWlim i.block :=
  let wt (n : Nat) : Item := { accepted 0 [(0, 2 ^ 18), (0x18, 1)] with waited := n }
  let wp (n : Nat) : Item := { accepted 0 [(0, 2 ^ 18 + 2 ^ 19), (0x18, 1)] with waited := n }
  let copy : Item := runs 0 [(0x28, 8), (0x30, 8)]
  let ported (c : Bool) (s : State) : State :=
    { s with hub := { s.hub with ports := vset s.hub.ports 0 { present := true, contained := c, spaces := [(1, 512)] } } }
  let later (s : State) : State := { s with cycle := 1 }
  let window := onCtx fun k => { k with desc := { k.desc with win := vset k.desc.win 0 (2 ^ 128 + 2 ^ 32 + 2 ^ 8) } }
  let sweep : State := queued 4 [(0x24, 64), (0x28, 1), (0x2C, 0x0F0F)]
  let drive (c : Bool) : State := later (window (ported c (queued 7 [(0x20, 0x20000000), (0x30, 1), (0x38, 1)])))
  ⟨⟨sweep, unread 4, by decide +kernel⟩, ⟨{ later sweep with poison := [0x1000000000000 / 64] }, unread 4, by decide +kernel⟩,
    ⟨drive true, unread 7, by decide +kernel⟩, ⟨later sweep, unread 4, by decide +kernel⟩,
    ⟨later ((queued 5 [(0x28, 64), (0x2C, 1), (0x38, 18)]).write (keyL0 0 0) (natBytes scarab1 18)), unread 5, by decide +kernel⟩,
    ⟨drive false, unread 7, by decide +kernel⟩, ⟨later (queued 4 [(0x2C, 0x0F0F)]), unread 4, by decide +kernel⟩,
    ⟨withItem (wt 0), wt 0, by decide +kernel⟩, ⟨withItem (wp 0), wp 0, by decide +kernel⟩,
    ⟨{ withItem (wt 0) with poison := [keyL0 0 0 / 64] }, wt 0, by decide +kernel⟩, ⟨withItem (accepted 0 []), accepted 0 [], by decide +kernel⟩,
    ⟨withItem { copy with moved := some 8 }, { copy with moved := some 8 }, by decide +kernel⟩, ⟨withItem copy, copy, by decide +kernel⟩,
    ⟨withItem (wp 256), wp 256, by decide +kernel⟩, ⟨withItem (wt 256), wt 256, by decide +kernel⟩, ⟨withItem (wp 255), wp 255, by decide +kernel⟩⟩

/-- Each kind that runs and moves its bytes, a copy whose source ends where its destination begins among them, an index list that is poisoned
and one that names no record, one that has moved its bytes, one that waits behind another; a stream that decodes and one that does not; an
NVMe command that ends well and not, with a status word and without, and with a poisoned source; a port with a command on it; a CRED in each
of its phases, at rank 0 and at another, with a reference that agrees and one that does not, and at its limit. -/
theorem witness_engine_events :
    let runs (s : State) (i : Item) (fn : Nat) : Prop := s.item s.about.k = some i ∧ s.canRun i = true ∧ i.fn = fn ∧ i.st ≠ .mwl
    let live (s : State) (i : Item) (fn : Nat) : Prop := runs s i fn ∧ i.phase = 0 ∧ i.moved = none
    let list (i : Item) : List EPiece := [.mem i.indexKey (4 * cPitch i.block) false]
    let listed (s : State) (i : Item) : Prop := live s i 1 ∧ s.tooFresh (list i) = false ∧ s.partsClear i (list i) = true
    let sick (s : State) (i : Item) := s.sickLine i (list i) (4 * cPitch i.block)
    let took (s : State) (i : Item) : Item := i.takeRange s i.indexKey (4 * cPitch i.block)
    let drive (s : State) (i : Item) (fn : Nat) : Prop := s.item s.about.k = some i ∧ s.nvRuns i = true ∧ i.moved = none ∧
      s.tooFresh i.bufParts = false ∧ s.nvClear i = true ∧ i.fn = fn ∧ i.parts ≠ []
    let read (s : State) (i : Item) : List DByte := (List.range (s.nvBytes i.block)).map fun j => match s.about.bytes[j]? with
      | some v => ({ v := v } : DByte)
      | none => { hole := true }
    let word (s : State) (i : Item) : Bool := (s.commit i.ctx (s.plogKey i.ctx (placeKey i.core.toNat (nStw i.block)))
      (placeKey i.core.toNat (nStw i.block)) (natBytes 0 8 ++ natBytes (nNlb i.block) 8)).isSome
    let out (s : State) (i : Item) : List DByte := credBytes i (i.heard.getD (s.about.ranks, s.about.nats)).1 (i.heard.getD (s.about.ranks, s.about.nats)).2
    (∃ s i l t, live s i 0 ∧ Moves s i i.copyXfer l t) ∧ (∃ s i l t, live s i 2 ∧ Moves s i i.copyXfer l t) ∧
    (∃ s i m l t, listed s i ∧ sick s i = none ∧ s.indexXfer (took s i) = some m ∧
      Moves (s.modItem i.id fun y => { y with took := (took s i).took }) (took s i) m l t) ∧
    (∃ s i, listed s i ∧ sick s i = none ∧ (s.indexXfer (took s i)).isNone = true) ∧ (∃ s i, listed s i ∧ (sick s i).isSome = true) ∧
    (∃ s i l t, live s i 3 ∧ Moves s i i.strmXfer l t) ∧ (∃ s i l t, live s i 4 ∧ Moves s i i.fexXfer l t) ∧
    (∃ s i l t, live s i 5 ∧ Moves s i i.scrbXfer l t ∧ headerOk i.block ((l.take (rSlen i.block)).map (·.v)) = true ∧
      (scarabDecode ((l.drop (rSlen i.block)).map (·.v)) ((l.take (rSlen i.block)).map (·.v))).2 = true) ∧
    (∃ s i l t, live s i 5 ∧ Moves s i i.scrbXfer l t ∧ headerOk i.block ((l.take (rSlen i.block)).map (·.v)) = false) ∧
    (∃ s i, live s i 0 ∧ Memory.wf s.mem = true ∧ cConv i.block = 0 ∧ cSmem i.block = false ∧ cDmem i.block = false ∧ bCk i.block = 0 ∧
      bCw i.block = false ∧ bSd i.block = false ∧ i.took = [] ∧ i.wrote = [] ∧ s.pool = [] ∧ s.l0Then = [] ∧
      (let from' := placeKey i.core.toNat (BitVec.ofNat 32 (cSrc i.block))
       let dest := placeKey i.core.toNat (BitVec.ofNat 32 (cDst i.block))
       s.offMap from' = false ∧ s.offMap (from' + cLen i.block - 1) = false ∧ s.offMap dest = false ∧
        s.offMap (dest + cLen i.block - 1) = false ∧ s.itemClear i from' = true ∧ s.itemClear i dest = true ∧ s.plogKey i.ctx dest = false ∧
        inPackage dest = true ∧ from' + cLen i.block = dest ∧ ∀ j, j < cLen i.block → s.poolHole (from' + j) = false)) ∧
    (∃ s i, runs s i 0 ∧ i.moved.isSome = true) ∧ (∃ s i, runs s i 8 ∧ i.moved.isSome = true ∧ s.about.yes = false) ∧
    (∃ s i, runs s i 7 ∧ i.moved.isSome = true ∧ s.nvRuns i = true) ∧
    (∃ (s : State) (i : Item), s.item s.about.k = some i ∧ s.canRun i = false ∧ i.st ≠ .mwl) ∧
    (∃ s i, drive s i 6 ∧ stored (s.putParts i 0 i.bufParts (read s i)) = true) ∧
    (∃ s i, drive s i 7 ∧ s.sickLine i i.bufParts (s.nvBytes i.block) = none ∧ nStw i.block = 0 ∧ natBits (bitsNat s.about.w0 15 0) 11 1 = 0) ∧
    (∃ s i, drive s i 7 ∧ s.sickLine i i.bufParts (s.nvBytes i.block) = none ∧ nStw i.block = 0 ∧ natBits (bitsNat s.about.w0 15 0) 11 1 = 1) ∧
    (∃ s i, drive s i 7 ∧ s.sickLine i i.bufParts (s.nvBytes i.block) = none ∧ nStw i.block ≠ 0 ∧ word s i = true) ∧
    (∃ s i, drive s i 7 ∧ (s.sickLine i i.bufParts (s.nvBytes i.block)).isSome = true) ∧
    (∃ s i, runs s i 7 ∧ (vget s.hub.ports (nPort i.block) {}).contained = true ∧ i.aborted = false) ∧
    (∃ s i, drive s i 7 ∧ i.aborted = true ∧ (vget s.hub.ports (nPort i.block) {}).contained = true) ∧
    (∃ (s : State) (i : Item), (vget s.hub.ports s.about.n {}).present = true ∧ (vget s.hub.ports s.about.n {}).contained = false ∧
      s.item 0 = some i ∧ i.fn = 7 ∧ i.live = true ∧ i.moved = none ∧ nPort i.block = s.about.n) ∧
    (∃ s i, live s i 8 ∧ s.about.yes = true ∧ kRank i.block = 0) ∧
    (∃ s i, live s i 8 ∧ s.about.yes = true ∧ kRank i.block = 1 ∧ s.about.bytes = credRef i.block (s.kNodeList i)) ∧
    (∃ s i, live s i 8 ∧ s.about.yes = true ∧ kRank i.block = 1 ∧ s.about.bytes ≠ credRef i.block (s.kNodeList i)) ∧
    (∃ s i, live s i 8 ∧ s.about.yes = false ∧
      resolves (s.resolve i 0 [(i.loc (kSmem i.block) (kSrc i.block), kIn i.block)] []) (fun _ _ => true) = true) ∧
    (∃ s i, runs s i 8 ∧ i.moved = none ∧ s.about.yes = false ∧ i.phase = 3 ∧ kRank i.block = 1 ∧ i.refOk = false) ∧
    (∃ s i, runs s i 8 ∧ i.moved = none ∧ i.phase = 3 ∧ s.itemWaits i.id = false ∧ i.todo = [] ∧ kRank i.block = 1 ∧ i.refOk = true ∧
      s.about.yes = false ∧ resolves ((s.keepHeard i).resolve i 1 [(i.loc (kDmem i.block) (kDst i.block), kOut i.block)] []) (fun v sp =>
        v.partsClear i sp && (v.barredLine sp (out s i)).isNone && stored (v.putParts i 0 sp (out s i))) = true) ∧
    (∃ (s : State) (i : Item), s.item s.about.k = some i ∧ i.fn = 8 ∧ i.st ≠ .queued ∧ s.itemFrozen i = false ∧ i.waited = 256 * bWlim i.block) ∧
    ∃ (s : State) (i : Item), s.item s.about.k = some i ∧ i.fn = 8 ∧ i.st ≠ .queued ∧ s.itemFrozen i = false ∧
      i.waited + 1 = 256 * bWlim i.block :=
  let copy : Item := runs 0 [(0x28, 8), (0x30, 8)]
  let index : Item := runs 1 [(0x28, 64), (0x30, 4), (0x34, 1), (0x38, 8)]
  let cpym : Item := runs 2 [(0x28, 64), (0x30, 8), (0x3D, 4), (0x40, 0x100000)]
  let strm : Item := runs 3 [(0, 1), (0x20, 0x40), (0x28, 0), (0x38, 8)]
  let fex : Item := runs 4 [(0x24, 64), (0x28, 1), (0x2C, 0x0F0F)]
  let nvrd : Item := runs 6 [(0x20, 0x20000000), (0x30, 1), (0x38, 1)]
  let scrb : Item := runs 5 [(0x28, 64), (0x2C, 1), (0x38, 18)]
  let port (c : Bool) (s : State) : State :=
    { s with hub := { s.hub with ports := vset s.hub.ports 0 { present := true, contained := c, spaces := [(1, 512)] } } }
  let buf : List (Nat × Nat × Bool) := [(keyL0 0 64, 512, false)]
  let rd : Item := { nvrd with parts := buf }
  let wr : Item := { rd with fn := 7 }
  let stw : Item := { runs 7 [(0x20, 0x20000000), (0x30, 1), (0x38, 1), (0x3C, 0x100)] with parts := buf }
  let cred (n : Nat) : Item := { runs 8 [(0x18, 1), (0x30, 2)] with waited := n }
  let rank1 : Item := runs 8 [(0x18, 1), (0x30, 2), (0x38, 1), (0x3A, 2)]
  let all8 (i : Item) : Item := { i with moved := some 8 }
  let nowhere : State := itemIn index (withBytes (keyL0 0 8) 4 (2 ^ 32 - 1))
  ⟨
    have ⟨l, t, h, _⟩ := moves_of (s := withItem copy) (i := copy) (x := copy.copyXfer) (f := fun _ => true) (by decide +kernel)
    ⟨withItem copy, copy, l, t, by decide +kernel, h⟩,
    have ⟨l, t, h, _⟩ := moves_of (s := withItem cpym) (i := cpym) (x := cpym.copyXfer) (f := fun _ => true) (by decide +kernel)
    ⟨withItem cpym, cpym, l, t, by decide +kernel, h⟩,
    have ⟨m, l, t, e, h⟩ := index_moves (s := withItem index) (i := index) (by decide +kernel)
    ⟨withItem index, index, m, l, t, by decide +kernel, by decide +kernel, e, h⟩,
    ⟨nowhere, index, by decide +kernel⟩, ⟨{ withItem index with poison := [keyL0 0 0 / 64] }, index, by decide +kernel⟩,
    have ⟨l, t, h, _⟩ := moves_of (s := mapped (withItem strm)) (i := strm) (x := strm.strmXfer) (f := fun _ => true) (by decide +kernel)
    ⟨mapped (withItem strm), strm, l, t, by decide +kernel, h⟩,
    have ⟨l, t, h, _⟩ := moves_of (s := withItem fex) (i := fex) (x := fex.fexXfer) (f := fun _ => true) (by decide +kernel)
    ⟨withItem fex, fex, l, t, by decide +kernel, h⟩,
    have ⟨l, t, h, f⟩ := moves_of (s := itemIn scrb (withBytes (keyL0 0 0) 18 scarab1)) (i := scrb) (x := scrb.scrbXfer)
      (f := fun l => headerOk scrb.block ((l.take (rSlen scrb.block)).map (·.v)) &&
        (scarabDecode ((l.drop (rSlen scrb.block)).map (·.v)) ((l.take (rSlen scrb.block)).map (·.v))).2) (by decide +kernel)
    ⟨_, scrb, l, t, by decide +kernel, h, (Bool.and_eq_true _ _ ▸ f).1, (Bool.and_eq_true _ _ ▸ f).2⟩,
    have ⟨l, t, h, f⟩ := moves_of (s := withItem scrb) (i := scrb) (x := scrb.scrbXfer)
      (f := fun l => !headerOk scrb.block ((l.take (rSlen scrb.block)).map (·.v))) (by decide +kernel)
    ⟨_, scrb, l, t, by decide +kernel, h, by simpa using f⟩,
    ⟨withItem copy, copy, by decide +kernel⟩, ⟨withItem (all8 copy), all8 copy, by decide +kernel⟩,
    ⟨withItem (all8 rank1), all8 rank1, by decide +kernel⟩, ⟨port false (withItem (all8 wr)), all8 wr, by decide +kernel⟩,
    ⟨withItem (accepted 0 [(0, 2 ^ 18)]), accepted 0 [(0, 2 ^ 18)], by decide +kernel⟩,
    ⟨port false (withItem rd), rd, by decide +kernel⟩, ⟨port false (withItem wr), wr, by decide +kernel⟩,
    ⟨{ port false (withItem wr) with about := { w0 := 2 } }, wr, by decide +kernel⟩, ⟨port false (withItem stw), stw, by decide +kernel⟩,
    ⟨{ port false (withItem wr) with poison := [keyL0 0 64 / 64] }, wr, by decide +kernel⟩, ⟨port true (withItem wr), wr, by decide +kernel⟩,
    ⟨port true (withItem { wr with aborted := true }), { wr with aborted := true }, by decide +kernel⟩,
    ⟨port false (withItem wr), wr, by decide +kernel⟩,
    ⟨{ withItem (cred 0) with about := { yes := true } }, cred 0, by decide +kernel⟩,
    ⟨{ withItem rank1 with about := { yes := true, bytes := credRef rank1.block ((withItem rank1).kNodeList rank1) } }, rank1, by decide +kernel⟩,
    ⟨{ withItem rank1 with about := { yes := true } }, rank1, by decide +kernel⟩, ⟨withItem (cred 0), cred 0, by decide +kernel⟩,
    ⟨withItem { rank1 with phase := 3 }, { rank1 with phase := 3 }, by decide +kernel⟩,
    ⟨withItem { rank1 with phase := 3, refOk := true }, { rank1 with phase := 3, refOk := true }, by decide +kernel⟩,
    ⟨withItem (cred 256), cred 256, by decide +kernel⟩, ⟨withItem (cred 255), cred 255, by decide +kernel⟩⟩

/-- An item with no completion action; with each one; a barrier that goes below 0 and one that ends at 0; a counter at 2^64 − 2. -/
theorem witness_completion_actions :
    let b (i : Item) := i.block
    let ck (i : Item) := placeKey i.core.toNat (bCbar i.block)
    let sane (i : Item) : Prop := bSd i.block = true → bitsNat (bCval i.block) 1 0 = 0
    (∃ i : Item, sane i ∧ bCw (b i) = false ∧ bCk (b i) = 0 ∧ bSd (b i) = true) ∧
    (∃ (s : State) (i : Item), sane i ∧ bCw (b i) = true ∧ bCk (b i) = 0 ∧ s.plogKey i.ctx (placeKey i.core.toNat (bCword i.block)) = false) ∧
    (∃ (s : State) (i : Item), sane i ∧ bCw (b i) = false ∧ bCk (b i) = 1 ∧ s.plogKey i.ctx (ck i) = false ∧
      (s.barUpdate (ck i) (-8) 0).isSome = true) ∧
    (∃ (s : State) (i : Item), sane i ∧ bCw (b i) = false ∧ bCk (b i) = 1 ∧ s.plogKey i.ctx (ck i) = false ∧
      (s.barUpdate (ck i) (-9) 0).isNone = true) ∧
    ∃ (s : State) (i : Item), sane i ∧ bCw (b i) = false ∧ bCk (b i) = 2 ∧ s.plogKey i.ctx (ck i) = false ∧ (s.seqAdd (ck i) 1).2 = false :=
  let bar : State := withBytes (keyL0 0 0) 16 (barrierOf 8 1 0)
  ⟨⟨runs 0 [(0, 2 ^ 11), (16, 4)], by decide +kernel⟩, ⟨base .c, runs 0 [(0, 2 ^ 10)], by decide +kernel⟩,
    ⟨bar, runs 0 [(0, 2 ^ 8)], by decide +kernel⟩, ⟨bar, runs 0 [(0, 2 ^ 8)], by decide +kernel⟩,
    ⟨withBytes (keyL0 0 0) 8 (2 ^ 64 - 2), runs 0 [(0, 2 ^ 9)], by decide +kernel⟩⟩
/-- Core 0 with a walk of the virtual address `va` for its handle h3. -/
def walking (va : VAddr) (twice : Bool) (s : State) : State :=
  { s.setHandle 0 3 { st := .pending, va := va, walk := 0 } with
    walks := [{ id := 0, core := 0, slot := 0, va := va, handle := 3, overlapped := twice }], about := { core := 0, stream := .c, k := 0 } }

/-- Task 0 frozen on the page fault 0 of virtual address `va`, which `who` met. -/
def faulted (va : X64) (who : Faulter) : State :=
  { mapped (onTask (fun t => { t with wire := true, frozen := [.pageFault 0] }) (base .c)) with
    faults := [{ fid := 0, va := va, acc := va, ctx := 0, kind := 0, core := 0, task := 0, who := who }], about := { k := 0 } }

/-- A cached translation and none; walks that end valid, overlapped or not, and absent, of a handle that is made and of one that is used
again, while a fault of its core is unanswered and not; the last page entry before a table, a leaf and not; a range to shoot that is
misaligned, empty, new, and one that waits for an item, for one that has not read its block, for a load, and for none; faults answered. -/
theorem witness_pages_and_handles :
    let va (s : State) : VAddr := fld (s.x 1) 0 56
    let hit (s : State) := s.cached (stackOf s.me) (s.slotOf s.me) (va s)
    let walks (s : State) (w : Walk) : Prop := s.walks.find? (fun v => v.id = s.about.k) = some w ∧
      (vget (s.core w.core.toNat).h w.handle.toNat {}).walk = w.id ∧ (vget (s.core w.core.toNat).h w.handle.toNat {}).st = .pending
    let used (s : State) (w : Walk) : Prop := s.walks.find? (fun v => v.id = s.about.k) = some w ∧ w.use = some (1, 0x1008)
    let again (s : State) (w : Walk) : Prop := used s w ∧ s.faults = [] ∧
      (vget (s.core w.core.toNat).h w.handle.toNat {}).walk = w.id ∧ (vget (s.core w.core.toNat).h w.handle.toNat {}).st = .stale
    let valid (s : State) (slot : Slot) (a : VAddr) : Bool := match s.walk slot a with | .valid _ => true | _ => false
    let e (s : State) : Nat := bitsNat (s.x 2) 51 3 * 8
    let t (s : State) : Nat := bitsNat (s.x 3) 51 9 * 512
    let splits (s : State) : Prop := s.isP1 s.me = true ∧ s.fenceRel 5 = true ∧ physKey s.layeravail (e s) = some (e s) ∧
      physKey s.layeravail (t s) = some (t s) ∧ poisonIn s (e s) 8 = none ∧ noHole s (e s) 8 = true ∧ Memory.wf s.mem = true ∧
      s.plogKey (s.slotOf s.me) (e s) = false ∧
      s.plogKey (s.slotOf s.me) (t s) = false ∧ e s + 8 = t s ∧ s.pool = []
    let shoots (s : State) : Prop := s.isP1 s.me = true ∧ bitsNat (s.x 1) 55 0 % 0x10000 = 0 ∧ bitsNat (s.x 2) 47 16 ≠ 0
    let fault (s : State) (f : PFault) (x : Task) : Prop := s.faults.find? (fun g => g.fid = s.about.k) = some f ∧ look f.task s.tasks = some x
    (∃ s r, hit s = some r) ∧ (∃ s, hit s = none) ∧ (∃ s w, walks s w ∧ w.overlapped = false ∧ valid s w.slot w.va = true) ∧
    (∃ s w, walks s w ∧ w.overlapped = true ∧ valid s w.slot w.va = true) ∧ (∃ s w, walks s w ∧ valid s w.slot w.va = false) ∧
    (∃ s w, again s w ∧ w.overlapped = false ∧ valid s w.slot w.va = true) ∧ (∃ s w, again s w ∧ valid s w.slot w.va = false) ∧
    (∃ s w, used s w ∧ (∃ g ∈ s.faults, g.core = w.core) ∧ valid s w.slot w.va = false) ∧
    (∃ s : State, s.isP1 s.me = false) ∧ (∃ s, splits s ∧ rdNat s.mem (e s) 8 % 4 = 3) ∧ (∃ s, splits s ∧ rdNat s.mem (e s) 8 % 4 = 1) ∧
    (∃ s : State, s.isP1 s.me = true ∧ bitsNat (s.x 1) 55 0 % 0x10000 = 0xFFFF) ∧
    (∃ s : State, s.isP1 s.me = true ∧ bitsNat (s.x 1) 55 0 % 0x10000 = 0 ∧ bitsNat (s.x 2) 47 16 = 0) ∧
    (∃ s, shoots s ∧ (s.core s.me).cmd = none ∧ s.fenceRel 5 = true) ∧
    (∃ s, shoots s ∧ (s.core s.me).cmd = some (.hshoot [7] [] []) ∧ ∃ i ∈ s.items, i.id ∈ [7]) ∧
    (∃ s, shoots s ∧ (s.core s.me).cmd = some (.hshoot [] [7] []) ∧ ∃ i ∈ s.items, i.st = .queued ∧ i.id ∈ [7]) ∧
    (∃ s, shoots s ∧ (s.core s.me).cmd = some (.hshoot [] [] [(0, 1)]) ∧ s.items = [] ∧ (s.core 0).usesRange 1 0x10000 0x10000 = true) ∧
    (∃ s, shoots s ∧ (s.core s.me).cmd = some (.hshoot [7] [] []) ∧ s.items = []) ∧
    (∃ s f x, fault s f x ∧ valid s f.ctx (fld f.va 0 56) = true ∧ f.who = .handle 3 ∧
      (vget (s.core f.core.toNat).h 3 {}).va = fld f.va 0 56 ∧ (vget (s.core f.core.toNat).h 3 {}).st = .stale) ∧
    (∃ s f x, fault s f x ∧ valid s f.ctx (fld f.va 0 56) = true ∧ f.who = .item 7 ∧ s.items = [{ id := 7, st := .running }]) ∧
    (∃ s f x, fault s f x ∧ f.who = .fetch .a) ∧ ∃ s f x, fault s f x ∧ f.who = .handle 3 :=
  let hits : State := { base .c with tlb := [{ stack := 0, slot := 0, page := 0, tr := page }] }
  let split (v : Nat) : State := setReg 2 0x100001F8 (setReg 3 0x10000200 (withBytes 0x100001F8 8 v))
  let shot (s : State) : State := setReg 1 0x10000 (setReg 2 0x10000 s)
  let waits (i b : List Nat) (m : List (Nat × Nat)) : State := shot (onCore (fun k => { k with cmd := some (.hshoot i b m) }) (base .c))
  let x : Task := (look 0 (faulted 0x1000 (.fetch .a)).tasks).getD {}
  let f (w : Faulter) : PFault := { fid := 0, va := 0x1000, acc := 0x1000, ctx := 0, kind := 0, core := 0, task := 0, who := w }
  let w (o : Bool) (v : VAddr) : Walk := { id := 0, core := 0, slot := 0, va := v, handle := 3, overlapped := o }
  let used (v : VAddr) : Walk := { w false v with use := some (1, 0x1008) }
  let uses (v : VAddr) (s : State) : State :=
    { s.setHandle 0 3 { st := .stale, va := v, walk := 0 } with walks := [used v], about := { core := 0, stream := .c, k := 0 } }
  ⟨⟨hits, page, by decide +kernel⟩, ⟨base .c, by decide +kernel⟩,
    ⟨walking 0x1000 false (mapped (base .c)), w false 0x1000, by decide +kernel⟩,
    ⟨walking 0x1000 true (mapped (base .c)), w true 0x1000, by decide +kernel⟩,
    ⟨walking 0x10000000 true (mapped (base .c)), w true 0x10000000, by decide +kernel⟩,
    ⟨uses 0x1000 (mapped (base .c)), used 0x1000, by decide +kernel⟩,
    ⟨uses 0x10000000 (mapped (base .c)), used 0x10000000, by decide +kernel⟩,
    ⟨{ uses 0x10000000 (mapped (base .c)) with faults := [f (.handle 4)] }, used 0x10000000, by decide +kernel, ⟨f (.handle 4), by decide +kernel⟩,
      by decide +kernel⟩, ⟨atP0 (base .c), by decide +kernel⟩,
    ⟨split 0x10000003, by decide +kernel⟩, ⟨split 0x10000001, by decide +kernel⟩, ⟨setReg 1 0xFFFF (base .c), by decide +kernel⟩,
    ⟨base .c, by decide +kernel⟩, ⟨shot (base .c), by decide +kernel⟩,
    ⟨{ waits [7] [] [] with items := [{ id := 7 }] }, by decide +kernel, by decide +kernel, { id := 7 }, by decide +kernel⟩,
    ⟨{ waits [] [7] [] with items := [{ id := 7 }] }, by decide +kernel, by decide +kernel, { id := 7 }, by decide +kernel⟩,
    ⟨onCore (fun k => { k with cReads := [{ va := 0x1FFFF, span := 0x10000 }] }) (waits [] [] [(0, 1)]), by decide +kernel⟩,
    ⟨waits [7] [] [], by decide +kernel⟩,
    ⟨(faulted 0x1000 (.handle 3)).setHandle 0 3 { st := .stale, va := 0x1000 }, f (.handle 3), x, by decide +kernel⟩,
    ⟨{ faulted 0x1000 (.item 7) with items := [{ id := 7, st := .running }] }, f (.item 7), x, by decide +kernel⟩,
    ⟨faulted 0x1000 (.fetch .a), f (.fetch .a), x, by decide +kernel⟩, ⟨faulted 0x1000 (.handle 3), f (.handle 3), x, by decide +kernel⟩⟩

/-- The hub with one slot of the pool, whose entry stands at 0x20000000. -/
def poolOf (x : PoolSlot) (pa back : Nat) : State :=
  let s := setReg 1 0 (base .c)
  { (s.write 0x20000000 (natBytes pa 8)).write 0x20000008 (natBytes back 8) with
    pool := [(0, { x with pa := pa, back := back })], hub := { s.hub with plbase := 0x20000000, plcount := 1 } }

/-- Every byte of a page of the second tier's first module lies in that module. -/
theorem second_tier {a n : Nat} (h : a + n < 0x5000000000) : ∀ i, i < n → ∃ k, regionOf (a + i) = .second k := by
  intro i hi
  refine ⟨(a + i) / 0x5000000000, ?_⟩
  unfold regionOf
  rw [if_pos (by omega)]

/-- The last slot of the table and the one after it; a slot in each of its states that moves up or down, with a replica, and pinned; a scan;
a fill and a drain that end, of pages that do not meet their table; the last cycle of 100 µs and the first after it. -/
theorem witness_shared_pool :
    let n (s : State) : Nat := bitsNat (s.x 1) 14 0
    let up (s : State) (p : PState) : Prop := s.isP1 s.me = true ∧ n s + 1 = s.hub.plcount.toNat ∧ s.x 4 = 0 ∧ s.fenceRel 0 = true ∧
      (s.poolSlot (n s)).st = p
    let m (s : State) : Nat := Nat.min 64 (bitsNat (s.x 1) 39 32)
    let ends (s : State) (x : PoolSlot) : Prop := look s.about.k s.pool = some x ∧ Memory.wf s.mem = true ∧ x.pa % 65536 = 0 ∧ x.back % 65536 = 0 ∧
      x.pa ≠ x.back ∧ (x.pa + 65536 ≤ s.hub.plbase.toNat + 25 ∨ s.hub.plbase.toNat + 27 ≤ x.pa) ∧
      (x.back + 65536 ≤ s.hub.plbase.toNat + 25 ∨ s.hub.plbase.toNat + 27 ≤ x.back) ∧ s.poison = [] ∧ s.blurred = [] ∧
      (∀ i, i < 1024 → s.backed (x.pa + 64 * i) = true) ∧ (∀ v ∈ s.pool, v.2.soils (s.hub.plbase.toNat + 25) = false) ∧
      x.back + 65536 < 0x5000000000 ∧ (∀ i ∈ s.about.nats, 1024 ≤ i) ∧
      ∀ i, i < 1024 → s.lineLost (x.pa / 64 + i) = false
    (∃ s : State, s.isP1 s.me = false) ∧ (∃ s : State, s.isP1 s.me = true ∧ s.hub.plcount.toNat = n s) ∧
    (∃ s, up s .empty ∧ regionOf (s.poolSlot (n s)).pa = .tower 1 0 0 ∧ s.backed (s.poolSlot (n s)).pa = true ∧ regionOf (s.poolSlot (n s)).back = .second 0) ∧
    (∃ s, up s .filling) ∧ (∃ s, up s .resident ∧ (s.poolSlot (n s)).pinned = false) ∧ (∃ s, up s .draining) ∧
    (∃ s, up s .poisoned ∧ (s.poolSlot (n s)).repl ≠ 0 ∧ (s.poolSlot (n s)).pinned = false) ∧
    (∃ s, up s .resident ∧ (s.poolSlot (n s)).pinned = true) ∧
    (∃ s : State, s.isP1 s.me = true ∧ s.place s.me (fld (s.x 1) 0 32) (offOf (fld (s.x 1) 0 32)) (4 * m s) 64 = .ok (keyL0 0 0) ∧
      s.fenceRel 0 = true ∧ s.poolNamed.plogKey (s.slotOf s.me) (keyL0 0 0) = false ∧ s.poolNamed.poolOldest (m s) = [0]) ∧
    (∃ s x, ends s x ∧ x.st = .filling ∧ x.ctrs = [] ∧ x.evict = false) ∧ (∃ s x, ends s x ∧ x.st = .draining ∧ x.moveup = none ∧ x.dirty = true) ∧
    (∃ s x, ends s x ∧ x.st = .draining ∧ x.moveup = none ∧ x.dirty = false) ∧
    (∃ s : State, s.cycle = 69999 ∧ s.cycle / 70000 ≤ s.poolAges) ∧ ∃ s : State, s.cycle = 70000 ∧ s.poolAges < s.cycle / 70000 :=
  let p (st : PState) : State := poolOf { st := st } 0x1000000000000 0x10000000
  let x (st : PState) (d : Bool) : PoolSlot := { st := st, dirty := d, pa := 0x1000000000000, back := 0x10000000 }
  ⟨⟨atP0 (p .empty), by decide +kernel⟩, ⟨setReg 1 1 (p .empty), by decide +kernel⟩,
    ⟨p .empty, by decide +kernel⟩, ⟨p .filling, by decide +kernel⟩, ⟨p .resident, by decide +kernel⟩,
    ⟨p .draining, by decide +kernel⟩, ⟨(p .poisoned).write 0x20000010 [1], by decide +kernel⟩,
    ⟨(p .resident).write 0x20000018 [1], by decide +kernel⟩,
    ⟨setReg 1 0x100000000 (p .resident), by decide +kernel, ok_of (by decide +kernel), by decide +kernel⟩,
    ⟨p .filling, x .filling false, by decide +kernel⟩,
    ⟨poolOf { st := .draining, dirty := true } 0x1000000000000 0x10000000, x .draining true, by decide +kernel⟩,
    ⟨p .draining, x .draining false, by decide +kernel⟩, ⟨{ base .c with cycle := 69999 }, by decide⟩,
    ⟨{ base .c with cycle := 70000 }, by decide⟩⟩

/-- Slot 1 in the state `k`, with CTBASE at 0x30000000, and the event about it and its record 1. -/
def slot1 (k : Ctx) : State :=
  let s := mapped (base .c)
  { s.setCtx 1 k with hub := { s.hub with ctbase := 0x30000000 }, about := { slot := 1, rid := 1 } }

/-- A trap record of slot 1, which task 0 waits on. -/
def postedTrap (nr : Bool) : Posted := { rid := 1, item := .trap { cause := 1, nr := nr }, task := some (0, 1) }

theorem copy_tasks (s : State) (slot : Slot) (p : Posted) : (s.copyRec slot p).tasks = s.tasks := by
  unfold State.copyRec
  dsimp only
  generalize natBytes (s.itemBits p.item p.rid).toNat 64 = b
  generalize s.walk slot (fld (s.ctx slot).desc.hrec 0 56) = w
  cases w with
  | valid t =>
    dsimp only
    generalize (if t.rem = true then none else physKey s.layeravail (t.pa (fld (s.ctx slot).desc.hrec 0 56))) = o
    cases o with
    | none => rfl
    | some key => exact (hubPut_recordOnly s key b).tasks
  | _ => rfl

theorem many_tasks (n : Nat) :
    ((List.replicate n ((7, { st := .ready }) : Nat × Task)).filter fun e => e.2.unstarted).length = n := by
  rw [List.filter_replicate_of_pos (by decide), List.length_replicate]

/-- The pool of a hub that holds as many tasks as it can is full while a record is copied for its handler. -/
theorem full_pool {s : State} {slot : Slot} {p : Posted} {f : Ctx → Ctx} {n : Nat} (h : s.tasks = List.replicate n (7, { st := .ready })) :
    n ≤ ((s.copyRec slot p).modCtx slot f).poolCount := by
  have e : ((s.copyRec slot p).modCtx slot f).tasks = s.tasks := copy_tasks s slot p
  unfold State.poolCount
  rw [e, h]
  exact Nat.le_of_eq (many_tasks n).symm

/-- A command for the slot of its own writer; each command where it acts and where it does not; a descriptor that LOAD takes and one with TQORDER 3;
a rollback of interval 1 and of none; and a record that is unanswered and one that is not, with and without a handler, with room in the pool and
without, and in a context that rolls back. -/
theorem witness_context_commands :
    let k (s : State) : Ctx := s.ctx s.about.slot
    let load (s : State) := (s.reread s.about.slot).loadStatus (s.readDesc s.about.slot)
    let rid (s : State) := s.trapRec s.about.slot s.about.rid.toNat
    let at_ (s : State) (c : CState) : Prop := s.ownCmd = false ∧ (k s).st = c
    let v (s : State) (p : Posted) := (s.copyRec s.about.slot p).modCtx s.about.slot fun l =>
      { l with handlers := l.handlers.filter (· != p.rid) ++ [p.rid] }
    let asks (s : State) (p : Posted) : Prop := s.ownCmd = false ∧ rid s = some p
    let rolls (s : State) : Prop := ((k s).st = .running ∨ (k s).st = .frozen) ∧ 1 ≤ (k s).openIv ∧ (k s).noroll = false
    (∃ s : State, s.ownCmd = true) ∧ (∃ s, at_ s .destroyed) ∧ (∃ s, at_ s .created ∧ load s = none) ∧ (∃ s, at_ s .created ∧ load s = some 2) ∧
    (∃ s, at_ s .loaded) ∧ (∃ s x, at_ s .running ∧ look 0 s.tasks = some x ∧ x.ctx = s.about.slot ∧ x.st = .running) ∧ (∃ s, at_ s .frozen) ∧
    (∃ s, at_ s .rollingBack) ∧ (∃ s, at_ s .dead ∧ s.ctxAddr s.about.slot + 512 ≤ 2 ^ 48 ∧ s.pool = []) ∧
    (∃ s, at_ s .running ∧ (k s).openIv = 0) ∧ (∃ s, at_ s .running ∧ (k s).openIv = 1 ∧ (k s).noroll = false) ∧
    (∃ s, s.ownCmd = false ∧ rid s = none) ∧ (∃ s, s.ownCmd = false ∧ rid s = some (postedTrap true)) ∧
    (∃ s x, s.ownCmd = false ∧ rid s = some (postedTrap false) ∧ look 0 s.tasks = some x ∧ x.frozen = [.trap 1]) ∧
    (∃ s, s.ownCmd = false ∧ rid s = some (postedTrap false) ∧ (k s).desc.hcard = 0) ∧
    (∃ s b, asks s (postedTrap false) ∧ (k s).desc.hcard ≠ 0 ∧ (v s (postedTrap false)).poolCount < poolSize ∧
      (v s (postedTrap false)).handlerCard s.about.slot 1 = some b ∧ (v s (postedTrap false)).queueCount 131073 < 256 ∧
      (v s (postedTrap false)).cardFault s.about.slot b = none) ∧
    (∃ s, asks s (postedTrap false) ∧ (k s).desc.hcard ≠ 0 ∧ poolSize ≤ (v s (postedTrap false)).poolCount) ∧
    (∃ s, asks s (postedTrap false) ∧ rolls s) ∧ ∃ s, asks s (postedTrap false) ∧ ¬ rolls s :=
  let order (n : Nat) : State := (slot1 { st := .created }).write 0x300002C8 (natBytes n 1)
  let post (nr : Bool) (hcard : X64) : State := slot1 { st := .running, posted := [postedTrap nr], desc := { hcard := hcard } }
  let frozen : Task := { frozen := [.trap 1] }
  let full : State := { post false 0x2000 with tasks := List.replicate poolSize (7, { st := .ready }) }
  let x : Task := { ctx := 1, st := .running }
  ⟨⟨{ slot1 {} with about := { slot := 1, k := 1, yes := true } }, by decide +kernel⟩, ⟨slot1 {}, by decide +kernel⟩,
    ⟨order 4, by decide +kernel⟩, ⟨order 3, by decide +kernel⟩, ⟨slot1 { st := .loaded }, by decide +kernel⟩,
    ⟨{ slot1 { st := .running } with tasks := [(0, x)] }, x, by decide +kernel⟩, ⟨slot1 { st := .frozen }, by decide +kernel⟩,
    ⟨slot1 { st := .rollingBack }, by decide +kernel⟩, ⟨slot1 { st := .dead }, by decide +kernel⟩,
    ⟨slot1 { st := .running }, by decide +kernel⟩, ⟨slot1 { st := .running, openIv := 1 }, by decide +kernel⟩,
    ⟨slot1 {}, by decide +kernel⟩, ⟨post true 0, by decide +kernel⟩,
    ⟨{ post false 0 with tasks := [(0, frozen)] }, frozen, by decide +kernel⟩, ⟨post false 0, by decide +kernel⟩,
    ⟨post false 0x2000, 1 * 2 ^ 192, by decide +kernel⟩, ⟨full, by decide +kernel, by decide +kernel, full_pool rfl⟩,
    ⟨slot1 { st := .running, posted := [postedTrap false], openIv := 1 }, by decide +kernel⟩, ⟨post false 0, by decide +kernel⟩⟩

/-- Core 0 with the save of slot 1 asked for in x1, slot 1 in the state `k`, and a task of slot 1. -/
def saving1 (k : Ctx) (t : TaskSt) : State :=
  let s := setReg 1 1 ((base .c).setCtx 1 k)
  { s with tasks := put 1 { ctx := 1, st := t } s.tasks }

/-- Task 0 in the state `x`, on core 0, whose C-stream stands at safe point 0 when `at_`. -/
def meeting (x : Task) (at_ : Bool) : State :=
  let s := base .c
  { (s.modSeq 0 .c fun q => { q with present := true, atSafe := if at_ then some 0 else none }) with
    tasks := [(0, { x with wire := false })], about := { k := 0 } }

/-- A save of a context: at P0, its own slot, a slot that does not run, an area too small for one core and one just large enough, a save under way
and over; a restore of a slot in each of its states; a checkpoint that is held, begins, whose record just fits its area and that is one byte too large; a wait for interval 1; a rendezvous with each
thing that is asked; and the limits at their last cycle and before it. -/
theorem witness_saves_and_checkpoints :
    let slot (s : State) : Slot := fld (s.x 1) 0 8
    let l (s : State) : Ctx := s.ctx (slot s)
    let me (s : State) : Ctx := s.ctx (s.slotOf s.me)
    let p1 (s : State) (cmd : Option CCmd) : Prop := s.isP1 s.me = true ∧ (s.core s.me).cmd = cmd
    let ck (s : State) (cmd : Option CCmd) : Prop := (s.core s.me).task = some 0 ∧ (look 0 s.tasks).isSome = true ∧ (s.core s.me).cmd = cmd
    let meets (s : State) (x : Task) (st : TaskSt) : Prop := look s.about.k s.tasks = some x ∧ x.rendezvous = some (0, 0) ∧ x.wire = false ∧
      s.allStand s.about.k 0 = true ∧ x.st = st
    let y (s : State) (x : Task) : Task := if SaveFor.yield ∈ x.saves then
      { x with saves := x.saves.filter (· != .yield) ++ (if s.needed s.about.k = true then [.yielded] else []) } else x
    let drained (s : State) : Prop := ∀ q ∈ s.coresOf s.about.k, s.drainedMember q = true
    let late (s : State) (x : Task) (n : Nat) : Prop := look s.about.k s.tasks = some x ∧ x.rendezvous = some (0, n) ∧ x.st = .running ∧
      s.allStand s.about.k 0 = false
    (∃ s : State, s.isP1 s.me = false) ∧ (∃ s, p1 s (some (.ctxsave (slot s))) ∧ (l s).st = .saving) ∧
    (∃ s, p1 s (some (.ctxsave (slot s))) ∧ (l s).st = .saved) ∧ (∃ s, p1 s none ∧ slot s = s.slotOf s.me) ∧
    (∃ s, p1 s none ∧ slot s ≠ s.slotOf s.me ∧ (l s).st = .frozen) ∧
    (∃ s, p1 s none ∧ slot s ≠ s.slotOf s.me ∧ (l s).st = .running ∧ (l s).desc.savesize.toNat + 1 = recordBytes * s.coreCount (slot s)) ∧
    (∃ s, p1 s none ∧ slot s ≠ s.slotOf s.me ∧ (l s).st = .running ∧ (l s).desc.savesize.toNat = recordBytes * s.coreCount (slot s)) ∧
    (∃ s, s.isP1 s.me = true ∧ (l s).st = .saved ∧ s.movedNode (slot s) = true) ∧
    (∃ s x v, s.isP1 s.me = true ∧ (l s).st = .saved ∧ s.movedNode (slot s) = false ∧ s.tasks = [(1, x)] ∧ x.ctx = slot s ∧ x.saved = some v ∧
      v.recPa = none ∧ originOk x.origin.toNat x.card.w x.card.h = true ∧ s.inMask (slot s) x.origin.toNat x.card.w x.card.h = true) ∧
    (∃ s, ck s none ∧ (me s).ckFull = true) ∧ (∃ s, ck s none ∧ (me s).ckFull = false ∧ (me s).ckHold = none) ∧
    (∃ s, ck s (some .ckpt) ∧ ∃ e ∈ s.started (s.slotOf s.me), e.1 ≠ 0) ∧
    (∃ s x, ck s (some .ckpt) ∧ (∀ e ∈ s.started (s.slotOf s.me), e.1 = 0) ∧ look 0 s.tasks = some x ∧
      s.ckptBytes 0 x = (me s).desc.cksize.toNat / 2) ∧
    (∃ s x, ck s (some .ckpt) ∧ (∀ e ∈ s.started (s.slotOf s.me), e.1 = 0) ∧ look 0 s.tasks = some x ∧
      s.ckptBytes 0 x = (me s).desc.cksize.toNat / 2 + 1) ∧
    (∃ s : State, bitsNat (s.x 1) 31 0 = (me s).vouched ∧ (s.core s.me).cPerformed = true) ∧
    (∃ s : State, bitsNat (s.x 1) 31 0 = (me s).vouched ∧ (s.core s.me).cPerformed = false) ∧
    (∃ s : State, bitsNat (s.x 1) 31 0 = (me s).vouched + 1 ∧ bitsNat (s.x 1) 51 32 = 0) ∧
    (∃ s : State, bitsNat (s.x 1) 31 0 = (me s).vouched + 1 ∧ bitsNat (s.x 1) 51 32 = 1) ∧
    (∃ s x, meets s x .running ∧ x.wantsCkpt = true ∧ drained s ∧ (y s x).mustSave = false) ∧
    (∃ s x, meets s x .running ∧ x.wantsCkpt = true ∧ drained s ∧ (y s x).mustSave = true) ∧
    (∃ s x, meets s x .running ∧ x.wantsCkpt = true ∧ ∃ q ∈ s.coresOf s.about.k, s.drainedMember q = false) ∧
    (∃ s x, meets s x .running ∧ x.wantsCkpt = false ∧ (y s x).mustSave = true) ∧
    (∃ s x, meets s x .running ∧ x.wantsCkpt = false ∧ SaveFor.yield ∈ x.saves ∧ (y s x).mustSave = false) ∧
    (∃ s x, meets s x .saving ∧ drained s) ∧
    (∃ s x, meets s x .saving ∧ (∀ q ∈ s.coresOf s.about.k, s.drainedBut q = true) ∧
      s.net2 = x.drainAt + 1400 * (s.ctx x.ctx).desc.drainlim.toNat) ∧
    (∃ s x, meets s x .saving ∧ (∀ q ∈ s.coresOf s.about.k, s.drainedBut q = true) ∧
      s.net2 + 1 = x.drainAt + 1400 * (s.ctx x.ctx).desc.drainlim.toNat) ∧
    (∃ s x, late s x 256 ∧ s.stallLimit x.origin.toNat = 256) ∧ ∃ s x, late s x 255 ∧ s.stallLimit x.origin.toNat = 256 :=
  let run (n : Nat) : State := saving1 { st := .running, desc := { savesize := BitVec.ofNat 64 n } } .running
  let cmd (c : CCmd) (s : State) : State := onCore (fun k => { k with cmd := some c }) s
  let sv : Task := { ctx := 1, st := .saved, saved := some {} }
  let saved : State := { saving1 { st := .saved, desc := { colmask := 1 } } .saved with tasks := [(1, sv)] }
  let sess : Session := { st := .opened }
  let size (n : Nat) : State := onCtx (fun k => { k with desc := { k.desc with cksize := BitVec.ofNat 64 n } }) (base .c)
  let x0 : Task := { st := .running }
  let unread : Core → Core := fun k => { k with cReads := [{}] }
  let t (st : TaskSt) (w : List SaveFor) (n : Nat) : Task := { st := st, rendezvous := some (0, 0), saves := w, drainAt := n }
  let go (st : TaskSt) (w : List SaveFor) (n : Nat) : State := meeting (t st w n) true
  let waits (n : Nat) : Task := { st := .running, rendezvous := some (0, n) }
  ⟨⟨atP0 (base .c), by decide +kernel⟩, ⟨cmd (.ctxsave 1) (saving1 { st := .saving } .saving), by decide +kernel⟩,
    ⟨cmd (.ctxsave 1) (saving1 { st := .saved } .saved), by decide +kernel⟩, ⟨base .c, by decide +kernel⟩,
    ⟨saving1 { st := .frozen } .running, by decide +kernel⟩, ⟨run (0x89000 - 1), by decide +kernel⟩, ⟨run 0x89000, by decide +kernel⟩,
    ⟨saving1 { st := .saved, nodeAt := 1, sessions := [(0, sess)] } .saved, by decide +kernel⟩, ⟨saved, sv, {}, by decide +kernel⟩,
    ⟨onCtx (fun k => { k with openIv := 2 }) (base .c), by decide +kernel⟩, ⟨onCtx (fun k => { k with openIv := 1 }) (base .c), by decide +kernel⟩,
    ⟨{ cmd .ckpt (base .c) with tasks := put 1 { st := .running } (base .c).tasks }, by decide +kernel, (1, { st := .running }), by decide +kernel⟩,
    ⟨cmd .ckpt (size 0x112000), x0, by decide +kernel⟩, ⟨cmd .ckpt (size 0x111FFE), x0, by decide +kernel⟩, ⟨base .c, by decide +kernel⟩, ⟨onCore unread (base .c), by decide +kernel⟩,
    ⟨setReg 1 1 (base .c), by decide +kernel⟩, ⟨setReg 1 0x100000001 (base .c), by decide +kernel⟩,
    ⟨go .running [.ckpt 0] 0, t .running [.ckpt 0] 0, by decide +kernel⟩,
    ⟨go .running [.ckpt 0, .ctxsave] 0, t .running [.ckpt 0, .ctxsave] 0, by decide +kernel⟩,
    ⟨onCore unread (go .running [.ckpt 0] 0), t .running [.ckpt 0] 0, by decide +kernel, by decide +kernel, 0, by decide +kernel⟩,
    ⟨go .running [.ctxsave] 0, t .running [.ctxsave] 0, by decide +kernel⟩, ⟨go .running [.yield] 0, t .running [.yield] 0, by decide +kernel⟩,
    ⟨go .saving [.yield] 0, t .saving [.yield] 0, by decide +kernel⟩, ⟨go .saving [.yield] 0, t .saving [.yield] 0, by decide +kernel⟩,
    ⟨go .saving [.yield] 1, t .saving [.yield] 1, by decide +kernel⟩,
    ⟨meeting (waits 256) false, waits 256, by decide +kernel⟩, ⟨meeting (waits 255) false, waits 255, by decide +kernel⟩⟩

/-- The scan rotation of stack 0 is `x`, in cycle `n`. -/
def scanned0 (x : Scan) (n : Nat) (s : State) : State := { s with scans := vset s.scans 0 x, cycle := n, about := { k := 0 } }

/-- A turn of core 0 that begins at the last cycle of the turn before it, idle and busy, and a cycle too early; a drain at its limit and a cycle
before it; a scan at its end, passed and failed, and a cycle before it; a module that is not READY; and a cycle that cannot end, since a push
has room again, an age or a period is due, a stall wire is to be released or a drain has reached its limit, and one that can, with nothing else
under way. -/
theorem witness_scans_and_cycles :
    let r (s : State) := vget s.scans s.about.k {}
    let turn (s : State) : Prop := s.about.k < 4 ∧ (r s).draining = none ∧ (r s).scanning = none ∧ (r s).began + s.scanTurn = s.cycle ∧
      s.nextScan s.about.k = some 0
    let drain (s : State) (x : Task) : Prop := s.about.k < 4 ∧ (r s).draining = some 0 ∧ (s.core 0).task = some 0 ∧ look 0 s.tasks = some x ∧
      x.st = .running
    let scan (s : State) : Prop := s.about.k < 4 ∧ (r s).scanning = some 0
    let rest (s : State) : Prop := s.hub.ready = true ∧ s.cycleOpen = false
    (∃ s, turn s ∧ (s.core 0).task = none) ∧ (∃ s, turn s ∧ (s.core 0).task = some 0 ∧ (look 0 s.tasks).isSome = true) ∧
    (∃ s : State, s.about.k < 4 ∧ s.cycle + 1 = (r s).began + s.scanTurn) ∧
    (∃ s x, drain s x ∧ (r s).waited = 700000) ∧ (∃ s x, drain s x ∧ (r s).waited = 699999) ∧
    (∃ s, scan s ∧ (r s).since + 28000 = s.cycle ∧ s.about.yes = true) ∧
    (∃ s, scan s ∧ (r s).since + 28000 = s.cycle ∧ s.about.yes = false ∧ ∀ e ∈ s.ctxs, ∀ w ∈ e.2.used, w.2.1 ≠ 0) ∧
    (∃ s, scan s ∧ (r s).since + 28000 = s.cycle + 1) ∧ (∃ s : State, s.cycleOpen = true) ∧
    (∃ s : State, s.hub.ready = false) ∧ (∃ s, rest s ∧ s.poolAges < s.cycle / 70000) ∧
    (∃ s, rest s ∧ s.periods < s.cycle / 700000) ∧ (∃ s, rest s ∧ ∃ e ∈ s.tasks, e.2.thaws s.cycle = true) ∧
    (∃ s, rest s ∧ ∃ e ∈ s.tasks, s.drainOver e.1 e.2 = true) ∧
    ∃ s, rest s ∧ s.cycle / 70000 ≤ s.poolAges ∧ s.cycle / 700000 ≤ s.periods ∧
      (∀ e ∈ s.tasks, e.2.thaws s.cycle = false ∧ s.drainOver e.1 e.2 = false) ∧ s.gangOuts = [] ∧
      ∀ slot, (s.ctx slot).st ≠ .rollingBack ∧ (s.ctx slot).handlers = [] ∧ (s.ctx slot).adds = [] :=
  let x : Task := { st := .running }
  let d (n : Nat) : State := scanned0 { draining := some 0, waited := n } 0 { base .c with tasks := [(0, x)] }
  let e (n : Nat) : State := scanned0 { scanning := some 0 } n (base .c)
  ⟨⟨scanned0 {} 54687 State.reset, by decide +kernel⟩, ⟨scanned0 {} 54687 (base .c), by decide +kernel⟩,
    ⟨scanned0 {} 54686 (base .c), by decide +kernel⟩, ⟨d 700000, x, by decide +kernel⟩, ⟨d 699999, x, by decide +kernel⟩,
    ⟨{ e 28000 with about := { k := 0, yes := true } }, by decide +kernel⟩, ⟨e 28000, by decide +kernel⟩, ⟨e 27999, by decide +kernel⟩,
    ⟨onSeq .a fun q => { q with stall := some { why := .token 2 0 } }, by decide +kernel⟩, ⟨State.reset, by decide +kernel⟩,
    ⟨{ base .c with cycle := 70000 }, by decide +kernel⟩, ⟨{ base .c with cycle := 700000, poolAges := 10 }, by decide +kernel⟩,
    ⟨onTask (fun t => { t with wire := true }) { base .c with cycle := 8 }, by decide +kernel⟩,
    ⟨meeting { st := .saving, rendezvous := some (0, 0) } true, by decide +kernel⟩,
    ⟨{ State.reset with hub := { ready := true } }, by decide +kernel, by decide +kernel, by decide +kernel, nofun, rfl,
      fun _ => ⟨nofun, rfl, rfl⟩⟩⟩

/-- Core 0, whose context has the session `x` with node 1, named by x1, and whose C-stream executes `cmd`. -/
def linked (x : Session) (cmd : Option CCmd) : State :=
  setReg 1 1 (onCore (fun k => { k with cmd := cmd }) (onCtx (fun k => { k with sessions := [(1, x)] }) (base .c)))

/-- `n` sessions with other nodes than the first two. -/
def sessionsOf (n : Nat) : List (Nat × Session) := (List.range n).map fun i => (i + 2, { st := .opened })

/-- An OPEN, CLOSE or watermark that has been answered with `a`. -/
def answered (a : Option Answer) : Option LinkTry := some { answer := a }

/-- A gang with this descriptor at the start of core 0's L0 and these answers to its PREPAREs. -/
def gangOf (l : List (Option Bool)) : GangOut :=
  { id := 0, gang := 0, core := 0, ctx := 0, desc := keyL0 0 0, ctr := 0, ctrAddr := 0, pc := 0, wdog := 1
    members := l.map fun _ => (1, 0, 0), prepared := l, committed := l }

/-- lsopen of the own node, of a context of another node, of a session in each state, and of the 64th and 65th session of a context, a LOST one
among them; lsclose and lsync in each state; a gang that cannot be read, one of no member and of 4097, one with no watchdog, and one whose
members have not answered, have acknowledged, and have refused. -/
theorem witness_link_commands :
    let node (s : State) : Node := fld (s.x 1) 0 12
    let x (s : State) : Session := s.session (s.slotOf s.me) (node s)
    let cmd (s : State) := (s.core s.me).cmd
    let opens (s : State) : Prop := cmd s = none ∧ node s ≠ s.hub.nodeid ∧ fld (s.desc s.me).node 0 12 = s.hub.nodeid
    let count (s : State) := (s.ctx (s.slotOf s.me)).liveSessions
    let waits (s : State) (m : Node) := s.coreWaits s.me (s.slotOf s.me) m
    let live (s : State) := s.live (s.slotOf s.me) (s.x 1)
    let l (s : State) := s.named (s.slotOf s.me) (s.x 1)
    let gang (s : State) (g : GangOut) : Prop := cmd s = some (.gang 0) ∧ s.gangOut 0 = some g ∧ s.plogKey (s.slotOf s.me) g.desc = false
    let ends (s u : State) (d n : Nat) : Prop := cmd s = none ∧ s.gangDesc (s.x 1) = .ok (d, n) ∧
      s.object (s.x 2) 8 2 = .key 0x1000000000000 {} u ∧ u.fenceRel 4 = true ∧ u.me = s.me ∧ (u.hubRead d).plogKey (u.slotOf s.me) d = false
    let refused (s : State) (g : GangOut) : Prop := g.members.length = g.prepared.length ∧ g.unsent = [] ∧ s.gangOuts = [g] ∧ s.pool = []
    (∃ s, cmd s = none ∧ node s = s.hub.nodeid) ∧ (∃ s, cmd s = none ∧ node s ≠ s.hub.nodeid ∧ fld (s.desc s.me).node 0 12 ≠ s.hub.nodeid) ∧
    (∃ s, opens s ∧ (x s).st = .opened) ∧ (∃ s, opens s ∧ (x s).st = .opening) ∧
    (∃ s, opens s ∧ (x s).st = .lost ∧ s.net2 + 1 = (x s).settle) ∧
    (∃ s, opens s ∧ (x s).st = .lost ∧ s.net2 = (x s).settle ∧ count s = 64) ∧
    (∃ s, opens s ∧ (x s).st = .closed ∧ count s = 63 ∧ s.liveSessions < 4096) ∧
    (∃ s, cmd s = none ∧ (x s).st = .closed) ∧ (∃ s, cmd s = none ∧ (x s).st = .opening) ∧ (∃ s, cmd s = none ∧ (x s).st = .opened) ∧
    (∃ s, cmd s = none ∧ (x s).st = .lost ∧ (x s).settle = s.net2) ∧
    (∃ s, cmd s = none ∧ s.fenceRel 4 = false) ∧ (∃ s, cmd s = none ∧ s.fenceRel 4 = true ∧ ∃ m ∈ live s, waits s m = true) ∧
    (∃ s, cmd s = none ∧ s.fenceRel 4 = true ∧ (∀ m ∈ live s, waits s m = false) ∧ l s = []) ∧
    (∃ s, cmd s = none ∧ s.fenceRel 4 = true ∧ (∀ m ∈ live s, waits s m = false) ∧ l s = [1]) ∧
    (∃ s t, cmd s = none ∧ s.gangDesc (s.x 1) = .error t) ∧
    (∃ s u d, ends s u d 0) ∧ (∃ s u d, ends s u d 4097) ∧ (∃ s u d, ends s u d 1 ∧ (u.hubRead d).get (d + 8) 4 = 0) ∧
    (∃ s, cmd s = some (.lsopen (node s)) ∧ (x s).op = none ∧ (x s).st = .opening) ∧
    (∃ s, cmd s = some (.lsopen (node s)) ∧ (x s).op = answered (some (.ok 7))) ∧
    (∃ s, cmd s = some (.lsopen (node s)) ∧ (x s).op = answered (some .ownerFull)) ∧
    (∃ s, cmd s = some (.lsclose (node s)) ∧ (x s).st = .closing ∧ (x s).op = none ∧ s.closable (s.slotOf s.me) (node s) = true) ∧
    (∃ s, cmd s = some (.lsclose (node s)) ∧ (x s).st = .closing ∧ (x s).op = answered none) ∧
    (∃ s, cmd s = some (.lsclose (node s)) ∧ (x s).st = .closing ∧ (x s).op = answered (some .ack)) ∧
    (∃ s, cmd s = some (.lsclose (node s)) ∧ (x s).st = .lost ∧ (x s).settle = s.net2) ∧
    (∃ s : State, cmd s = some (.lsync [1]) ∧ (s.session (s.slotOf s.me) 1).st = .opened ∧ (s.session (s.slotOf s.me) 1).op = answered none) ∧
    (∃ s : State, cmd s = some (.lsync [1]) ∧ (s.session (s.slotOf s.me) 1).st = .opened ∧ (s.session (s.slotOf s.me) 1).op = none) ∧
    (∃ s g, gang s g ∧ ∃ p ∈ g.prepared, p = none) ∧ (∃ s g, gang s g ∧ g.prepared ≠ [] ∧ ∀ p ∈ g.prepared, p = some true) ∧
    (∃ s g, gang s g ∧ refused s g ∧ g.prepared = List.replicate 0 (some true) ++ [some false]) ∧
    ∃ s g, gang s g ∧ refused s g ∧ g.prepared = List.replicate 1 (some true) ++ [some false] :=
  let waiting : State := onCore (fun k => { k with cStores := [{ pieces := [(keyL0 0 0, [1])] }] }) (base .c)
  let many (n : Nat) (x : Session) : State := onCtx (fun k => { k with sessions := (1, x) :: sessionsOf n }) (linked x none)
  let o : Outs := { who := .read 0 0 }
  let none' : State := setReg 2 (objAt 0) (base .c)
  let many' (n : Nat) : State := setReg 2 (objAt 0) ((base .c).write (keyL0 0 4) (natBytes n 2))
  let away : State := { base .c with hub := { (base .c).hub with nodeid := 1 } }
  let g (l : List (Option Bool)) : State := { linked {} (some (.gang 0)) with gangOuts := [gangOf l] }
  have ⟨t, h⟩ := error_of (e := (setReg 1 1 (base .c)).gangDesc ((setReg 1 1 (base .c)).x 1)) (by decide +kernel)
  ⟨⟨base .c, by decide +kernel⟩, ⟨away, by decide +kernel⟩, ⟨linked { st := .opened } none, by decide +kernel⟩,
    ⟨linked { st := .opening } none, by decide +kernel⟩, ⟨linked { st := .lost, settle := 1 } none, by decide +kernel⟩,
    ⟨many 63 { st := .lost }, by decide +kernel⟩, ⟨many 63 {}, by decide +kernel⟩, ⟨linked {} none, by decide +kernel⟩,
    ⟨linked { st := .opening } none, by decide +kernel⟩, ⟨linked { st := .opened } none, by decide +kernel⟩,
    ⟨linked { st := .lost } none, by decide +kernel⟩, ⟨waiting, by decide +kernel⟩,
    ⟨linked { st := .opened, outs := [o] } none, by decide +kernel, by decide +kernel, 1, by decide +kernel⟩, ⟨base .c, by decide +kernel⟩,
    ⟨linked { st := .opened } none, by decide +kernel⟩, ⟨setReg 1 1 (base .c), t, by decide +kernel, h⟩,
    ⟨none', none', keyL0 0 0, by decide +kernel, ok_of (by decide +kernel), object_of (by decide +kernel), by decide +kernel⟩,
    ⟨many' 4097, many' 4097, keyL0 0 0, by decide +kernel, ok_of (by decide +kernel), object_of (by decide +kernel), by decide +kernel⟩,
    ⟨many' 1, many' 1, keyL0 0 0, ⟨by decide +kernel, ok_of (by decide +kernel), object_of (by decide +kernel), by decide +kernel⟩,
      by decide +kernel⟩,
    ⟨linked { st := .opening } (some (.lsopen 1)), by decide +kernel⟩,
    ⟨linked { op := answered (some (.ok 7)) } (some (.lsopen 1)), by decide +kernel⟩,
    ⟨linked { op := answered (some .ownerFull) } (some (.lsopen 1)), by decide +kernel⟩,
    ⟨linked { st := .closing } (some (.lsclose 1)), by decide +kernel⟩,
    ⟨linked { st := .closing, op := answered none } (some (.lsclose 1)), by decide +kernel⟩,
    ⟨linked { st := .closing, op := answered (some .ack) } (some (.lsclose 1)), by decide +kernel⟩,
    ⟨linked { st := .lost } (some (.lsclose 1)), by decide +kernel⟩,
    ⟨linked { st := .opened, op := answered none } (some (.lsync [1])), by decide +kernel⟩,
    ⟨linked { st := .opened } (some (.lsync [1])), by decide +kernel⟩,
    ⟨g [none], gangOf [none], by decide +kernel, none, by decide +kernel⟩, ⟨g [some true], gangOf [some true], by decide +kernel⟩,
    ⟨g [some false], gangOf [some false], by decide +kernel⟩, ⟨g [some true, some false], gangOf [some true, some false], by decide +kernel⟩⟩

/-- Context 0 with the session `x` with node 1, core 0 with the remote read `r`, and the event that `a` says. -/
def requester (x : Session) (r : Read) (a : About) (n : Nat) : State :=
  { onCore (fun k => { k with cReads := [r] }) (onCtx (fun k => { k with sessions := [(1, x)] }) (base .c)) with
    cycle := n, about := { a with slot := 0, node := 1 } }

/-- A load of core 0's read 0 that has been sent. -/
def sent (tries : Nat) (busy : Option Nat) : Outs := { isLoad := true, who := .read 0 0, tries := tries, busyAt := busy, rto := 5600 }

/-- An answer to the sent load: its data, a denial, BUSY and the ends of a session, and an answer that matches nothing; an answer to CLOSE and
to LSYNC with its tag and with another, one that says that the session is lost, and one with another nonce; a try at RTO and a cycle
before it, the 15th and the 16th; the limit of BUSY, a heartbeat and SETTLE, at their cycle and before it. -/
theorem witness_requester_events :
    let x (s : State) : Session := s.session s.about.slot s.about.node
    let live (s : State) : Prop := (x s).st = .opened ∨ (x s).st = .closing
    let mine (s : State) := (x s).outs.find? fun (o : Outs) => o.isLoad == s.about.isLoad && o.serial == s.about.serial && o.saved.isNone
    let hears (s : State) (o : Outs) (r : Read) : Prop := s.about.yes = false ∧ live s ∧ (x s).nonce = s.about.nonce ∧ mine s = some o ∧
      o.hold = none ∧ o.who = .read 0 0 ∧ (s.core 0).read 0 = some r
    let tries (s : State) (o : Outs) : Prop := s.about.yes = false ∧ live s ∧ mine s = some o
    let op (s : State) (t : LinkTry) : Prop := s.about.yes = true ∧ (x s).op = some t ∧ t.answer = none
    let own (s : State) (t : LinkTry) : Prop := s.about.yes = true ∧ (x s).nonce = s.about.nonce ∧ (x s).op = some t
    (∃ s : State, s.about.yes = false ∧ ¬ live s) ∧ (∃ s : State, s.about.yes = false ∧ live s ∧ (x s).nonce ≠ s.about.nonce) ∧
    (∃ s : State, s.about.yes = false ∧ live s ∧ mine s = none) ∧
    (∃ s o r, hears s o r ∧ s.about.answer = .ok 7 ∧ r.poison = none ∧ r.dst = .x 31 8 false) ∧
    (∃ s o r, hears s o r ∧ s.about.answer = .denied ∧ ((s.core 0).seq .c).halted = false) ∧
    (∃ s o r, hears s o r ∧ s.about.answer = .busy) ∧ (∃ s o r, hears s o r ∧ s.about.answer = .retired) ∧
    (∃ s o r, hears s o r ∧ s.about.answer = .sessionLost) ∧ (∃ s t, op s t ∧ (x s).st = .opening) ∧
    (∃ s t, own s t ∧ live s ∧ s.about.answer = .sessionLost) ∧
    (∃ s t, own s t ∧ s.about.answer ≠ .sessionLost ∧ t.tag = s.about.serial ∧ (x s).st = .closing) ∧
    (∃ s t, own s t ∧ s.about.answer ≠ .sessionLost ∧ t.tag = s.about.serial ∧ (x s).st = .opened) ∧
    (∃ s t, own s t ∧ s.about.answer ≠ .sessionLost ∧ t.tag ≠ s.about.serial ∧ (x s).st = .opened) ∧
    (∃ s t, own s t ∧ s.about.answer ≠ .sessionLost ∧ t.tag ≠ s.about.serial ∧ (x s).st = .closing) ∧
    (∃ s : State, s.about.yes = true ∧ live s ∧ (x s).nonce ≠ s.about.nonce) ∧
    (∃ s o, tries s o ∧ s.net2 + 2 = o.sentAt + o.rto) ∧ (∃ s o, tries s o ∧ o.sentAt + o.rto = s.net2 ∧ o.tries = 16) ∧
    (∃ s o, tries s o ∧ o.sentAt + o.rto = s.net2 ∧ o.tries = 15) ∧ (∃ s t, op s t ∧ t.at_ + t.rto = s.net2 ∧ t.tries = 15) ∧
    (∃ s t, op s t ∧ t.at_ + t.rto = s.net2 ∧ t.tries = 16 ∧ (x s).st = .opened) ∧
    (∃ s o, tries s o ∧ o.busyAt = some 0 ∧ s.net2 = nsToNet 1000000) ∧ (∃ s o, tries s o ∧ o.busyAt = some 2 ∧ s.net2 = nsToNet 1000000) ∧
    (∃ s o, tries s o ∧ o.busyAt = none) ∧
    (∃ s : State, (x s).outs = [] ∧ (x s).withheld = [] ∧ (s.ctx s.about.slot).indoubt.length ≤ 65535) ∧
    (∃ s : State, live s ∧ (s.ctx s.about.slot).st = .running ∧ (x s).lastSent + nsToNet 1000 = s.net2) ∧
    (∃ s : State, live s ∧ (s.ctx s.about.slot).st = .running ∧ s.net2 + 2 = (x s).lastSent + nsToNet 1000) ∧
    (∃ s : State, (x s).st = .lost ∧ (x s).settle = s.net2) ∧ ∃ s : State, (x s).st = .lost ∧ (x s).settle = s.net2 + 1 :=
  let x (o : Outs) : Session := { st := .opened, outs := [o] }
  let r : Read := { dst := .x 31 8 false, remote := true, node := 1 }
  let a : About := { isLoad := true }
  let o : Outs := sent 1 none
  let hear (w : Answer) : State := requester (x o) r { a with answer := w } 0
  let t (n : Nat) : LinkTry := { tries := n, rto := 5600 }
  let heard (st : SState) (w : Answer) (tag : Nat) : State :=
    requester { st := st, op := some (t 1) } r { yes := true, answer := w, serial := BitVec.ofNat 32 tag } 0
  let lone (st : SState) (n : Nat) : State := requester { st := st, settle := n } r a 0
  ⟨⟨lone .closed 0, by decide +kernel⟩, ⟨requester { x o with nonce := 1 } r a 0, by decide +kernel⟩,
    ⟨requester (x o) r { a with serial := 1 } 0, by decide +kernel⟩, ⟨hear (.ok 7), o, r, by decide +kernel⟩,
    ⟨hear .denied, o, r, by decide +kernel⟩, ⟨hear .busy, o, r, by decide +kernel⟩, ⟨hear .retired, o, r, by decide +kernel⟩,
    ⟨hear .sessionLost, o, r, by decide +kernel⟩,
    ⟨requester { st := .opening, op := some (t 1) } r { yes := true } 0, t 1, by decide +kernel⟩,
    ⟨heard .opened .sessionLost 0, t 1, by decide +kernel⟩, ⟨heard .closing .ack 0, t 1, by decide +kernel⟩,
    ⟨heard .opened .ack 0, t 1, by decide +kernel⟩, ⟨heard .opened .ack 1, t 1, by decide +kernel⟩, ⟨heard .closing .ack 1, t 1, by decide +kernel⟩,
    ⟨requester { st := .opened, nonce := 1 } r { yes := true } 0, by decide +kernel⟩,
    ⟨requester (x o) r a 2799, o, by decide +kernel⟩, ⟨requester (x (sent 16 none)) r a 2800, sent 16 none, by decide +kernel⟩,
    ⟨requester (x (sent 15 none)) r a 2800, sent 15 none, by decide +kernel⟩,
    ⟨requester { st := .opened, op := some (t 15) } r { yes := true } 2800, t 15, by decide +kernel⟩,
    ⟨requester { st := .opened, op := some (t 16) } r { yes := true } 2800, t 16, by decide +kernel⟩,
    ⟨requester (x (sent 1 (some 0))) r a 700000, sent 1 (some 0), by decide +kernel⟩,
    ⟨requester (x (sent 1 (some 2))) r a 700000, sent 1 (some 2), by decide +kernel⟩, ⟨hear .busy, o, by decide +kernel⟩,
    ⟨lone .opened 0, by decide +kernel⟩, ⟨requester (x o) r a 700, by decide +kernel⟩, ⟨requester (x o) r a 699, by decide +kernel⟩,
    ⟨lone .lost 0, by decide +kernel⟩, ⟨lone .lost 1, by decide +kernel⟩⟩

/-- An owner with one export of the tower's first 64 KiB for every requester, with all its flags, which the request `r` reaches; its session
with the requester has the nonce 0. -/
def owner (r : Request) : State :=
  let e : Nat := 0x1000000000000 + 0x10000 * 2 ^ 64 + 0x8000 * 2 ^ 128 + 0x1F * 2 ^ 152
  { (base .c).write 0x40000000 (natBytes e 32) with
    hub := { (base .c).hub with expbase := 0x40000000, expcount := 1 }
    osessions := [(r.who, {})], about := { req := r } }

/-- The same with a gang held for it, and queue 0 enabled. -/
def ganged (op : RemoteOp) (armed : Bool) (n : Nat) : State :=
  { owner { op := op } with
    gangs := [{ msg := { wdog := 1 }, armed := armed, since := 0 }], queues := [(0, { st := .enabled })], cycle := n }

/-- A store of the first byte of the export, with a result cache that holds 65,536 answers to another node. -/
def fullCache (l : List RCache) : State := { owner { op := .store, pa := 0x1000000000000, size := 1 } with rcache := l }

/-- As many answers to node 1 as the cache holds. -/
def manyAnswers : List RCache := List.replicate 65536 { node := 1, slot := 0, serial := 0, digest := 0, answer := .denied }

theorem full_cache (l : List RCache) : ((fullCache l).heard (fullCache l).about.req (fullCache l).about.req.w).rcache = l := by
  have e : ((fullCache l).modOwner (fullCache l).about.req fun x => { x with lastAt := (fullCache l).net2 }).osession (fullCache l).about.req =
      some { lastAt := (fullCache l).net2 } := by simp [State.osession, State.modOwner, fullCache, owner]
  have d : ¬ (1 ≤ ((fullCache l).about.req.w - 0).toNat ∧ ((fullCache l).about.req.w - 0).toNat < 2 ^ 31) := by
    rw [show (fullCache l).about.req.w = 0 from rfl]; decide
  unfold State.heard
  simp only [e]
  rw [if_neg d]
  rfl

theorem full_found : ((fullCache manyAnswers).heard (fullCache manyAnswers).about.req (fullCache manyAnswers).about.req.w).rcache.find?
    (fun e => e.of (fullCache manyAnswers).about.req && e.serial == (fullCache manyAnswers).about.req.serial) = none := by
  rw [full_cache]
  exact List.find?_eq_none.mpr fun e h => by rw [List.eq_of_mem_replicate h]; decide

/-- An owner with as many sessions as it may hold, all of them with node 1. -/
def fullOwner (l : List ((Nat × Nat) × OSession)) : State := { owner {} with osessions := l }

def manySessions : List ((Nat × Nat) × OSession) := List.replicate 16384 ((1, 0), {})

theorem full_owner : (fullOwner manySessions).exportsFor 0 0 ≠ [] ∧ (fullOwner manySessions).osession {} = none ∧
    16384 ≤ (fullOwner manySessions).osessions.length := by
  refine ⟨?_, ?_, ?_⟩
  · rw [show (fullOwner manySessions).exportsFor 0 0 = (owner {}).exportsFor 0 0 from rfl]
    decide +kernel
  · unfold State.osession
    rw [show (fullOwner manySessions).osessions = manySessions from rfl,
      List.find?_eq_none.mpr fun e h => by rw [List.eq_of_mem_replicate h]; decide]
    rfl
  · exact Nat.le_of_eq List.length_replicate.symm

/-- An OPEN without an export, with one, and with every session taken; a session that is open, one with another nonce, and none; a heartbeat
and a watermark that is awaited; watermarks just ahead, at 2^31 − 1, at 0 and behind; a session that expires and one a cycle before; a load and
a store of the last byte of an export and the byte after it, poisoned bytes, and a load of a page that is being filled; a serial that is
remembered, one that is retired, ones at the ends of the window, and one that is new, with the cache full and not; gangs of an enabled queue
and of another, of a queue that holds 16, and of the first number that is no queue of the host; a gang that is held and one that is armed, at
the end of its timer and before it. -/
theorem witness_owner_events :
    let r (s : State) : Request := s.about.req
    let h (s : State) : State := s.heard (r s) (r s).w
    let w (s : State) : BitVec 32 := (((h s).osession (r s)).map (·.w)).getD 0
    let found (s : State) := (h s).rcache.find? fun e => e.of (r s) && e.serial == (r s).serial
    let open_ (s : State) : Prop := s.osession (r s) = some {} ∧ (r s).nonce = 0
    let new (s : State) : Prop := found s = none ∧ ((r s).serial - w s).toNat < 65536 ∧ (h s).rcache.length < 65536
    let allowed (s : State) (g : GangMsg) : Prop := (h s).granted (r s) g = true ∧ (h s).requestMapped (r s) = true
    let small (s : State) : Prop := open_ s ∧ (r s).op.isGang = false ∧ (r s).size ≤ 64
    (∃ s : State, s.exportsFor (r s).node (r s).slot = []) ∧
    (∃ s : State, s.exportsFor (r s).node (r s).slot ≠ [] ∧ s.osession (r s) = none ∧ 16384 ≤ s.osessions.length) ∧
    (∃ s : State, s.exportsFor (r s).node (r s).slot ≠ [] ∧ s.osessions.length < 16384) ∧
    (∃ s, open_ s) ∧ (∃ s : State, s.osession (r s) = none) ∧ (∃ (s : State) (y : OSession), s.osession (r s) = some y ∧ y.nonce ≠ (r s).nonce) ∧
    (∃ s, open_ s ∧ (r s).serial = 0) ∧ (∃ s, open_ s ∧ (r s).serial ≠ 0) ∧ (∃ s, open_ s ∧ (r s).w.toNat = 1) ∧
    (∃ s, open_ s ∧ (r s).w.toNat = 2 ^ 31 - 1) ∧ (∃ s, open_ s ∧ (r s).w.toNat = 0) ∧ (∃ s, open_ s ∧ (r s).w.toNat = 2 ^ 31) ∧
    (∃ s, open_ s ∧ nsToNet 1000000 = s.net2) ∧
    (∃ s, open_ s ∧ s.net2 + 2 = nsToNet 1000000) ∧
    (∃ s, small s ∧ (r s).op = .load ∧ allowed s {} ∧ noHole s (r s).pa.toNat (r s).size = true ∧ poisonIn s (r s).pa.toNat (r s).size = none) ∧
    (∃ s, small s ∧ (r s).op = .load ∧ allowed s {} ∧ noHole s (r s).pa.toNat (r s).size = false ∧
      poisonIn s (r s).pa.toNat (r s).size = none) ∧
    (∃ s, small s ∧ (r s).op = .load ∧ allowed s {} ∧ poisonIn s (r s).pa.toNat (r s).size ≠ none) ∧
    (∃ s, small s ∧ (r s).op = .load ∧ ¬ allowed s {}) ∧
    (∃ s, small s ∧ (r s).op ≠ .load ∧ (found s).isSome = true) ∧
    (∃ s, small s ∧ (r s).op ≠ .load ∧ found s = none ∧ 2 ^ 31 ≤ ((r s).serial - w s).toNat) ∧
    (∃ s, small s ∧ (r s).op ≠ .load ∧ found s = none ∧ ((r s).serial - w s).toNat = 65536) ∧
    (∃ s, small s ∧ (r s).op ≠ .load ∧ found s = none ∧ ((r s).serial - w s).toNat = 2 ^ 31 - 1) ∧
    (∃ s, small s ∧ (r s).op ≠ .load ∧ found s = none ∧ ((r s).serial - w s).toNat < 65536 ∧ 65536 ≤ (h s).rcache.length) ∧
    (∃ s, small s ∧ (r s).op = .store ∧ new s ∧ ¬ allowed s {}) ∧
    (∃ s, small s ∧ (r s).op = .store ∧ new s ∧ allowed s {} ∧ Memory.wf s.mem = true ∧ s.pool = [] ∧ (r s).bad = false) ∧
    (∃ s, small s ∧ (r s).op = .store ∧ new s ∧ allowed s {} ∧ Memory.wf s.mem = true ∧ s.pool = [] ∧ (r s).bad = true) ∧
    (∃ s, small s ∧ (r s).op = .atomic 2 ∧ new s ∧ allowed s {} ∧ poisonIn s (r s).pa.toNat (r s).bytes ≠ none) ∧
    (∃ s, small s ∧ (r s).op = .atomic 2 ∧ new s ∧ allowed s {} ∧ Memory.wf s.mem = true ∧ s.pool = [] ∧
      noHole s (r s).pa.toNat (r s).bytes = true ∧ poisonIn s (r s).pa.toNat (r s).bytes = none) ∧
    (∃ s, open_ s ∧ new s ∧ allowed s {} ∧ (r s).op = .prepare ∧ (s.queue 0).st = .enabled ∧
      (s.gangs.filter fun h => h.msg.queue == 0 && !h.armed).length < 16) ∧
    (∃ s, open_ s ∧ new s ∧ allowed s {} ∧ (r s).op = .prepare ∧ (s.queue 0).st ≠ .enabled) ∧
    (∃ s, open_ s ∧ new s ∧ allowed s {} ∧ (r s).op = .prepare ∧ (s.queue 0).st = .enabled ∧
      (s.gangs.filter fun h => h.msg.queue == 0 && !h.armed).length = 16) ∧
    (∃ s, open_ s ∧ new s ∧ (r s).op = .prepare ∧ s.about.gang.queue.toNat = 131072 ∧ allowed s s.about.gang) ∧
    (∃ s, open_ s ∧ new s ∧ allowed s {} ∧ (r s).op = .commit ∧ (s.gangs.find? fun h => h.named {} && !h.armed).isSome = true) ∧
    (∃ s, open_ s ∧ new s ∧ allowed s {} ∧ (r s).op = .commit ∧ s.gangs.find? (fun h => h.named {} && !h.armed) = none) ∧
    (∃ s, open_ s ∧ new s ∧ allowed s {} ∧ (r s).op = .abort) ∧ (∃ s, open_ s ∧ new s ∧ allowed s {} ∧ (r s).op = .go) ∧
    (∃ (s : State) (f : GangHeld), s.gangs[s.about.k]? = some f ∧ f.armed = false ∧ f.since + 1400 * f.msg.wdog.toNat = s.net2) ∧
    (∃ (s : State) (f : GangHeld), s.gangs[s.about.k]? = some f ∧ f.armed = true ∧ f.since + 1400 * f.msg.wdog.toNat = s.net2) ∧
    ∃ (s : State) (f : GangHeld), s.gangs[s.about.k]? = some f ∧ f.armed = true ∧ s.net2 + 2 = f.since + 1400 * f.msg.wdog.toNat :=
  let at_ (op : RemoteOp) (pa size : Nat) : State := owner { op := op, pa := BitVec.ofNat 52 pa, size := size }
  let last : Nat := 0x100000000FFFF
  let filling (s : State) : State :=
    { s with pool := [(0, { st := .filling, pa := 0x1000000000000 })], hub := { s.hub with plcount := 1 } }
  let f (armed : Bool) : GangHeld := { msg := { wdog := 1 }, armed := armed, since := 0 }
  let sick (s : State) : State := { s with poison := [last / 64] }
  ⟨⟨base .c, by decide +kernel⟩, ⟨fullOwner manySessions, full_owner⟩, ⟨owner {}, by decide +kernel⟩, ⟨owner {}, by decide +kernel⟩,
    ⟨base .c, by decide +kernel⟩, ⟨owner { nonce := 1 }, {}, by decide +kernel⟩, ⟨owner {}, by decide +kernel⟩, ⟨owner { serial := 1 }, by decide +kernel⟩,
    ⟨owner { w := 1 }, by decide +kernel⟩, ⟨owner { w := 2 ^ 31 - 1 }, by decide +kernel⟩, ⟨owner {}, by decide +kernel⟩,
    ⟨owner { w := 2 ^ 31 }, by decide +kernel⟩, ⟨{ owner {} with cycle := 700000 }, by decide +kernel⟩, ⟨{ owner {} with cycle := 699999 }, by decide +kernel⟩,
    ⟨at_ .load last 1, by decide +kernel⟩, ⟨filling (at_ .load last 1), by decide +kernel⟩, ⟨sick (at_ .load last 1), by decide +kernel⟩, ⟨at_ .load last 2, by decide +kernel⟩,
    ⟨{ at_ .store last 1 with rcache := [{ node := 0, slot := 0, serial := 0, digest := 0, answer := .denied }] }, by decide +kernel⟩,
    ⟨owner { op := .store, serial := 2 ^ 31, size := 1 }, by decide +kernel⟩, ⟨owner { op := .store, serial := 65536, size := 1 }, by decide +kernel⟩,
    ⟨owner { op := .store, serial := 2 ^ 31 - 1, size := 1 }, by decide +kernel⟩,
    ⟨fullCache manyAnswers, by decide +kernel, by decide +kernel, full_found, by decide +kernel,
      Nat.le_of_eq ((congrArg List.length (full_cache manyAnswers)).trans List.length_replicate).symm⟩,
    ⟨at_ .store last 2, by decide +kernel⟩, ⟨at_ .store last 1, by decide +kernel⟩,
    ⟨owner { op := .store, pa := BitVec.ofNat 52 last, size := 1, bad := true }, by decide +kernel⟩,
    ⟨sick (at_ (.atomic 2) (last - 7) 16), by decide +kernel⟩, ⟨at_ (.atomic 2) (last - 7) 16, by decide +kernel⟩,
    ⟨ganged .prepare false 0, by decide +kernel⟩,
    ⟨{ ganged .prepare false 0 with queues := [] }, by decide +kernel⟩,
    ⟨{ ganged .prepare false 0 with gangs := List.replicate 16 (f false) }, by decide +kernel⟩,
    ⟨{ ganged .prepare false 0 with about := { req := { op := .prepare }, gang := { queue := 131072 } } }, by decide +kernel⟩,
    ⟨ganged .commit false 0, by decide +kernel⟩,
    ⟨ganged .commit true 0, by decide +kernel⟩, ⟨ganged .abort false 0, by decide +kernel⟩, ⟨ganged .go true 0, by decide +kernel⟩,
    ⟨ganged .go false 700, f false, by decide +kernel⟩, ⟨ganged .go true 700, f true, by decide +kernel⟩,
    ⟨ganged .go true 699, f true, by decide +kernel⟩⟩

/-- The host's mailbox runs command `n` with the argument `a` in its first 8 bytes. -/
def mailbox (n a : Nat) : State :=
  let s := base .c
  { s with hub := { s.hub with mbox := { args := BitVec.ofNat 1920 a, cmd := BitVec.ofNat 64 n, running := true } } }

/-- Key slots 8 and 63 and the two beside them; an image in host memory, with its bytes as they stand, and below it; limits of 1199, 1200 and
2400 W; a reset; a mailbox that is free and one with another command; a command of the board controller, before READY and after it, with the
mailbox free and not; and the last cycle of a period and the first after it. -/
theorem witness_mailbox_and_budgets :
    let a (s : State) (o : Nat) : Nat := bytesNat (((natBytes s.hub.mbox.args.toNat 240).drop o).take 8)
    let takes (s : State) (n v : Nat) : Prop := s.about.yes = false ∧ s.hub.mbox.running = true ∧ s.hub.mbox.cmd.toNat = n ∧ a s 0 = v
    let board (s : State) (ready running : Bool) : Prop := s.about.yes = true ∧ s.hub.mbox.running = running ∧ s.hub.ready = ready
    (∃ s, takes s 1 8) ∧ (∃ s, takes s 1 63) ∧ (∃ s, takes s 1 7) ∧ (∃ s, takes s 1 64) ∧ (∃ s, takes s 2 63) ∧ (∃ s, takes s 2 64) ∧
    (∃ s, takes s 3 0x8000000000000 ∧ a s 0 + a s 8 ≤ 2 ^ 52 ∧ ∀ j, j < a s 8 → s.poolHole (a s 0 + j) = false) ∧
    (∃ s, takes s 3 0x7FFFFFFFFFFFF) ∧ (∃ s, takes s 4 1199) ∧ (∃ s, takes s 4 1200) ∧ (∃ s, takes s 4 2400) ∧ (∃ s, takes s 5 0) ∧
    (∃ s : State, s.about.yes = false ∧ s.hub.mbox.running = false) ∧ (∃ s : State, s.about.yes = false ∧ s.hub.mbox.cmd.toNat ≠ 1) ∧
    (∃ s, board s false false) ∧ (∃ s, board s true false) ∧ (∃ s, board s true true) ∧
    (∃ s : State, s.cycle = 699999 ∧ s.cycle / 700000 ≤ s.periods) ∧ (∃ s : State, s.cycle = 700000 ∧ s.periods < s.cycle / 700000) :=
  let given (ready running : Bool) : State :=
    { base .c with about := { yes := true }, hub := { (base .c).hub with ready := ready, mbox := { running := running } } }
  ⟨⟨mailbox 1 8, by decide +kernel⟩, ⟨mailbox 1 63, by decide +kernel⟩, ⟨mailbox 1 7, by decide +kernel⟩, ⟨mailbox 1 64, by decide +kernel⟩,
    ⟨mailbox 2 63, by decide +kernel⟩, ⟨mailbox 2 64, by decide +kernel⟩, ⟨mailbox 3 (0x8000000000000 + 64 * 2 ^ 64), by decide +kernel⟩,
    ⟨mailbox 3 0x7FFFFFFFFFFFF, by decide +kernel⟩, ⟨mailbox 4 1199, by decide +kernel⟩, ⟨mailbox 4 1200, by decide +kernel⟩,
    ⟨mailbox 4 2400, by decide +kernel⟩, ⟨mailbox 5 0, by decide +kernel⟩, ⟨base .c, by decide⟩, ⟨mailbox 5 0, by decide⟩,
    ⟨given false false, by decide⟩, ⟨given true false, by decide⟩, ⟨given true true, by decide⟩, ⟨{ base .c with cycle := 699999 }, by decide⟩,
    ⟨{ base .c with cycle := 700000 }, by decide⟩⟩

/-- The machine, READY or not, with an event about `a`. -/
def hubAt (ready : Bool) (a : About) : State := { base .c with hub := { (base .c).hub with ready := ready }, about := a }

/-- READY and not; an uncontained error and a corrected flit, and a mailbox command of the host that the error ends; the last die at 104 °C, at
105 °C for the first time and again, READY and not, and a die that does not exist; a port that is contained and one that is not. -/
theorem witness_module_events :
    let t (s : State) : Nat := Nat.min s.about.k 255
    (∃ s : State, s.hub.ready = true) ∧ (∃ s : State, s.hub.ready = false) ∧ (∃ s : State, s.about.yes = false ∧ s.hub.mbox.running = false) ∧
    (∃ s : State, s.about.yes = false ∧ s.hub.mbox.running = true ∧ s.hub.mbox.cmd = 3) ∧ (∃ s : State, s.about.yes = true) ∧
    (∃ s : State, t s = 104 ∧ s.about.n < 4) ∧
    (∃ s : State, t s = 105 ∧ s.about.n = 3 ∧ (vget s.hub.temps 3 0).toNat = 104 ∧ s.hub.ready = true) ∧
    (∃ s : State, t s = 105 ∧ s.about.n = 3 ∧ (vget s.hub.temps 3 0).toNat = 104 ∧ s.hub.ready = false) ∧
    (∃ s : State, t s = 106 ∧ s.about.n = 3 ∧ (vget s.hub.temps 3 0).toNat = 105) ∧ (∃ s : State, t s = 105 ∧ s.about.n = 4) ∧
    (∃ s : State, (vget s.hub.ports s.about.n {}).contained = true) ∧ ∃ s : State, (vget s.hub.ports s.about.n {}).contained = false :=
  let hot (ready : Bool) (was now : Nat) : State :=
    { base .c with hub := { ready := ready, temps := vset (base .c).hub.temps 3 (BitVec.ofNat 8 was) }, about := { k := now, n := 3 } }
  ⟨⟨hubAt true {}, rfl⟩, ⟨hubAt false {}, rfl⟩, ⟨hubAt true {}, rfl, rfl⟩, ⟨mailbox 3 0, by decide⟩,
    ⟨hubAt true { yes := true }, rfl⟩, ⟨hubAt true { k := 104, n := 3 }, by decide⟩, ⟨hot true 104 105, by decide⟩, ⟨hot false 104 105, by decide⟩,
    ⟨hot true 105 106, by decide⟩,
    ⟨hubAt true { k := 105, n := 4 }, by decide⟩, ⟨{ base .c with hub := { ports := vset (base .c).hub.ports 0 { contained := true } } }, by decide⟩,
    ⟨base .c, by decide⟩⟩

/-- The host's range of 64 bytes from 0x1000 on. -/
def hostRange (a : About) : State :=
  let s := hubAt true a
  { s with hub := { s.hub with hdmBase := 0x1000, hdmSize := 64 } }

/-- The host writes the 8 bytes of `v` to the register at `o`. -/
def regWrite (ready : Bool) (o v : Nat) : State := hubAt ready { addr := BitVec.ofNat 64 o, bytes := natBytes v 8 }

/-- The last bytes of the host's range and those just beyond them, and bytes that are indeterminate; the configuration space; the
last bytes of BAR0, of the management page and those just beyond it; a kick before and after one of a core; a register of each kind; SCANPER,
RTO and the mailbox at and beside their limits; and BAR0's first and last offsets that are not served before READY, with those beside them. -/
theorem witness_host_port :
    let o (s : State) : Nat := s.about.addr.toNat
    let v (s : State) : X64 := BitVec.ofNat 64 (bytesNat s.about.bytes)
    let eight (s : State) : Prop := s.about.bytes.length = 8
    let reads (s : State) (bar : Bool) : Prop := s.about.rid ≠ 1 ∧ s.about.rid ≠ 2 ∧ s.about.yes = bar
    let mem (s : State) : Prop := s.about.rid ≠ 1 ∧ s.about.rid ≠ 2 ∧ s.about.rid ≠ 3
    (∃ s : State, s.hub.ready = true ∧ s.hub.hdmBase ≤ o s ∧ o s + s.about.k = s.hub.hdmBase + s.hub.hdmSize ∧ s.hub.hdmSize ≤ 0x14000000000) ∧
    (∃ s : State, s.hub.ready = true ∧ s.hdm s.about.k = none) ∧ (∃ s : State, s.hub.ready = false) ∧
    (∃ s : State, s.about.rid = 1) ∧ (∃ s : State, s.about.rid = 2) ∧
    (∃ s : State, reads s true ∧ s.hub.ready = true ∧ o s + s.about.k = 0x100000000) ∧
    (∃ s : State, reads s true ∧ s.hub.ready = true ∧ o s < 0x100000000 ∧ o s + s.about.k = 0x100000001) ∧
    (∃ s : State, reads s true ∧ s.hub.ready = false ∧ o s + s.about.k = 0x1000) ∧
    (∃ s : State, reads s true ∧ s.hub.ready = false ∧ o s + s.about.k = 0x1001) ∧
    (∃ s : State, reads s true ∧ s.hub.ready = false ∧ 0x10000 ≤ o s ∧ o s + s.about.k = 0x12000) ∧
    (∃ s : State, reads s false ∧ s.hdm s.about.k = none) ∧
    (∃ (s : State) (pa : Nat), reads s false ∧ s.hdm s.about.k = some pa ∧ noHole s pa s.about.k = true ∧ (poisonIn s pa s.about.k).isSome = true) ∧
    (∃ (s : State) (pa : Nat), reads s false ∧ s.hdm s.about.k = some pa ∧ noHole s pa s.about.k = false) ∧
    (∃ s : State, s.about.rid = 3) ∧ (∃ s : State, mem s ∧ s.hdm s.about.bytes.length = none) ∧
    (∃ (s : State) (pa : Nat), mem s ∧ s.hdm s.about.bytes.length = some pa ∧ s.pool = [] ∧ s.about.yes = true) ∧
    (∃ (s : State) (pa : Nat), mem s ∧ s.hdm s.about.bytes.length = some pa ∧ s.pool = [] ∧ s.about.yes = false) ∧
    (∃ s, eight s ∧ s.hub.ready = true ∧ o s = 0x40000000 + 0x1000 * 131071 ∧ s.kickTurn 0 = true) ∧
    (∃ s, eight s ∧ s.hub.ready = true ∧ o s = 0x40000000 ∧ s.kickTurn 0 = false) ∧
    (∃ s, eight s ∧ o s = 0x040) ∧ (∃ s, eight s ∧ o s = 0x008) ∧ (∃ s, eight s ∧ s.hub.ready = false ∧ o s = 0xFFFFFFF8) ∧
    (∃ s, eight s ∧ s.hub.ready = true ∧ o s = 0x1028 ∧ bitsNat (v s) 6 0 = 11) ∧
    (∃ s, eight s ∧ s.hub.ready = true ∧ o s = 0x1028 ∧ bitsNat (v s) 6 0 = 101) ∧
    (∃ s, eight s ∧ s.hub.ready = true ∧ o s = 0x1070 ∧ bitsNat (v s) 19 0 = 1000000) ∧
    (∃ s, eight s ∧ s.hub.ready = true ∧ o s = 0x1070 ∧ bitsNat (v s) 19 0 = 999) ∧
    (∃ s, eight s ∧ s.hub.ready = true ∧ o s = 0x1068 ∧ s.sessionOpen = true) ∧
    (∃ s, eight s ∧ s.hub.ready = true ∧ o s = 0x1068 ∧ s.sessionOpen = false) ∧
    (∃ s, eight s ∧ s.hub.ready = true ∧ o s = 0x1038 ∧ s.poolEmpty = true) ∧
    (∃ s, eight s ∧ s.hub.ready = true ∧ o s = 0x1040 ∧ s.poolEmpty = false) ∧
    (∃ s, eight s ∧ o s = 0x800 ∧ s.hub.mbox.running = true) ∧
    (∃ s, eight s ∧ o s = 0x800 ∧ s.hub.mbox.running = false ∧ (v s).toNat = 3 ∧ s.hub.ready = false) ∧
    (∃ s, eight s ∧ o s = 0x800 ∧ s.hub.mbox.running = false ∧ (v s).toNat = 5 ∧ s.hub.ready = false) ∧
    (∃ s, eight s ∧ o s = 0x800 ∧ s.hub.mbox.running = false ∧ (v s).toNat = 6) ∧
    (∃ s : State, s.hub.ready = false ∧ o s = 0x1000 ∧ s.about.yes = false) ∧
    (∃ s : State, s.hub.ready = false ∧ o s = 0xFFFFFFFF ∧ s.about.yes = true) ∧
    (∃ s : State, s.hub.ready = false ∧ o s = 0x11FFF ∧ s.about.yes = false) ∧ ∃ s : State, s.hub.ready = false ∧ o s = 0x100000000 :=
  let pool : State := { hostRange { addr := 0x1000, k := 8 } with blurred := [(0, 0, 64)] }
  let bar (ready : Bool) (o n : Nat) : State := hubAt ready { addr := BitVec.ofNat 64 o, k := n, yes := true }
  let busy : State := { regWrite true 0x800 1 with hub := (mailbox 1 8).hub }
  let open_ : State := { regWrite true 0x1068 1 with osessions := [((0, 0), {})] }
  ⟨⟨hostRange { addr := 0x1038, k := 8 }, by decide +kernel⟩, ⟨hostRange { addr := 0x1038, k := 9 }, by decide +kernel⟩,
    ⟨hubAt false {}, rfl⟩, ⟨hubAt true { rid := 1 }, rfl⟩, ⟨hubAt true { rid := 2 }, rfl⟩, ⟨bar true 0xFFFFFFF8 8, by decide +kernel⟩,
    ⟨bar true 0xFFFFFFF9 8, by decide +kernel⟩, ⟨bar false 0xFF8 8, by decide +kernel⟩, ⟨bar false 0xFF9 8, by decide +kernel⟩,
    ⟨bar false 0x11FF8 8, by decide +kernel⟩, ⟨hostRange { addr := 0x1040, k := 1 }, by decide +kernel⟩,
    ⟨{ hostRange { addr := 0x1038, k := 8 } with poison := [0] }, 0x38, by decide +kernel⟩,
    ⟨pool, 0, by decide +kernel⟩, ⟨hubAt true { rid := 3 }, rfl⟩, ⟨hostRange { addr := 0x1040, bytes := [1] }, by decide +kernel⟩,
    ⟨hostRange { addr := 0x1000, bytes := [1], yes := true }, 0, by decide +kernel⟩,
    ⟨hostRange { addr := 0x1000, bytes := [1] }, 0, by decide +kernel⟩,
    ⟨regWrite true (0x40000000 + 0x1000 * 131071) 1, by decide +kernel⟩,
    ⟨{ regWrite true 0x40000000 1 with kickAt := (0, 1) }, by decide +kernel⟩, ⟨regWrite false 0x040 3, by decide +kernel⟩,
    ⟨regWrite true 0x008 3, by decide +kernel⟩, ⟨regWrite false 0xFFFFFFF8 3, by decide +kernel⟩,
    ⟨regWrite true 0x1028 11, by decide +kernel⟩, ⟨regWrite true 0x1028 101, by decide +kernel⟩, ⟨regWrite true 0x1070 1000000, by decide +kernel⟩,
    ⟨regWrite true 0x1070 999, by decide +kernel⟩, ⟨open_, by decide +kernel⟩, ⟨regWrite true 0x1068 1, by decide +kernel⟩,
    ⟨regWrite true 0x1038 0, by decide +kernel⟩, ⟨{ regWrite true 0x1040 0 with pool := [(0, { st := .filling })] }, by decide +kernel⟩,
    ⟨busy, by decide +kernel⟩, ⟨regWrite false 0x800 3, by decide +kernel⟩, ⟨regWrite false 0x800 5, by decide +kernel⟩,
    ⟨regWrite true 0x800 6, by decide +kernel⟩, ⟨hubAt false { addr := 0x1000 }, by decide +kernel⟩,
    ⟨hubAt false { addr := 0xFFFFFFFF, yes := true }, by decide +kernel⟩, ⟨hubAt false { addr := 0x11FFF }, by decide +kernel⟩,
    ⟨hubAt false { addr := 0x100000000 }, by decide +kernel⟩⟩

/-- A security processor that runs and one that does not, and the measurements 0, 1, 4 and 5. -/
theorem witness_spdm_answers : (∃ s : State, s.hub.answersSpdm = true ∧ s.about.k = 0) ∧ (∃ s : State, s.hub.answersSpdm = false) ∧
    (∃ s : State, s.hub.answersSpdm = true ∧ s.about.k = 1) ∧ (∃ s : State, s.hub.answersSpdm = true ∧ s.about.k = 4) ∧
    ∃ s : State, s.hub.answersSpdm = true ∧ s.about.k = 5 :=
  let up (k : Nat) : State := { State.reset with hub := { phase := 8 }, about := { k := k } }
  ⟨⟨up 0, by decide⟩, ⟨State.reset, by decide⟩, ⟨up 1, by decide⟩, ⟨up 4, by decide⟩, ⟨up 5, by decide⟩⟩

/-- Group 1 of layer T1 of column 0, which the event is about, with the banks `b`. -/
def group1 (b : BankGroup) (a : About) : State :=
  { base .c with banks := [(1, b)], about := { a with core := 0, level := 1, n := 1 } }

/-- A group whose buffer drains; its last row without an error, with one in each codeword and with two in one, with no failed bank and with one,
whose symbol the spare holds or not; a first and a second failed bank; a rebuild at a frame boundary and a cycle after it; a lane with no error,
with two within 1 ms, and one that fails its test, whose spare is free or not; a layer that a context holds and one that none holds. -/
theorem witness_upkeep :
    let b (s : State) : BankGroup := s.bank (groupKey 0 1 1)
    let about (s : State) : Prop := s.aboutGroup = some (0, 1, 1)
    let gone (s : State) := (((s.walkTo (groupKey 0 1 1) s.about.w0.toNat (rowsOf 1)).bank (groupKey 0 1 1)).erased s.about.k)
    let bad (s : State) (x : Nat) : Nat :=
      (s.about.nats.eraseDups.filter fun n => n % 4 == x && decide (n / 4 < 18) && !(gone s).contains (n / 4)).length
    let row (s : State) : Prop := about s ∧ s.about.k + 1 = rowsOf 1 ∧ layerIn s.layeravail (stackOf 0) 1 = true ∧ rowLine 0 1 1 s.about.k ∉ s.wbuf
    let one (s : State) : Prop := (b s).failed = [2] ∧ (b s).spareFor = some 2
    let has (s : State) (r : Nat) : Prop :=
      r < (b s).walked ∨ r ∈ (b s).written ∨ ((b s).rebuilding.isSome = true ∧ r < Nat.min s.about.w0.toNat (rowsOf 1))
    let lane (s : State) : Nat := s.about.core.toNat * 128 + s.about.level.toNat * 32 + s.about.n
    let steers (s : State) : Prop := s.about.level.toNat < 4 ∧ s.about.n < 32 ∧ s.cycle % 8 = 0
    let retires (s : State) : Prop := s.about.n < 4 ∧ 1 ≤ s.about.level.toNat ∧ s.about.level.toNat ≤ 4 ∧
      layerIn s.retiring s.about.n s.about.level.toNat = true
    (∃ s, about s) ∧ (∃ s, about s ∧ (b s).rebuilding = some 2 ∧ s.cycle % 8 = 0) ∧
    (∃ s, about s ∧ (b s).rebuilding = some 2 ∧ s.cycle % 8 = 1) ∧
    (∃ s, row s ∧ (b s).failed = [] ∧ ∀ x, x < 4 → bad s x = 0) ∧
    (∃ s, row s ∧ gone s = [] ∧ ∀ x, x < 4 → bad s x = 1) ∧
    (∃ s, row s ∧ gone s = [] ∧ bad s 3 = 2) ∧
    (∃ s, row s ∧ one s ∧ has s s.about.k ∧ bad s 0 = 1) ∧ (∃ s, row s ∧ one s ∧ ¬ has s s.about.k ∧ bad s 0 = 1) ∧
    (∃ s, row s ∧ one s ∧ ¬ has s s.about.k ∧ ∀ x, x < 4 → bad s x = 0) ∧
    (∃ s, about s ∧ s.about.k = 17 ∧ (b s).failed = [] ∧ (b s).replaced = []) ∧ (∃ s, about s ∧ s.about.k = 17 ∧ one s) ∧
    (∃ s, steers s ∧ s.about.yes = false ∧ s.laneFails (lane s) = false) ∧
    (∃ s, steers s ∧ s.laneFails (lane s) = true ∧ lane s ∉ s.spares) ∧
    (∃ s, steers s ∧ s.about.yes = true ∧ lane s ∈ s.spares) ∧
    (∃ s, retires s ∧ s.layerFree s.about.n s.about.level.toNat = false) ∧ ∃ s, retires s ∧ s.layerFree s.about.n s.about.level.toNat = true :=
  let lane : About := { core := 1023, level := 3, n := 31 }
  let bad := group1 { failed := [2], spareFor := some 2, rebuilding := some 2 }
  let last (s : State) : State := { s with about := { s.about with k := 3071 } }
  let going (l : BitVec 8) : State :=
    { onCtx (fun k => { k with desc := { k.desc with colmask := 1, layers := l } }) (base .c) with retiring := 1, about := { level := 1 } }
  ⟨⟨group1 {} {}, by decide +kernel⟩, ⟨bad {}, by decide +kernel⟩, ⟨{ bad {} with cycle := 9 }, by decide +kernel⟩,
    ⟨last (group1 {} { nats := [72] }), by decide +kernel⟩, ⟨last (group1 {} { nats := [0, 5, 10, 71] }), by decide +kernel⟩,
    ⟨last (group1 {} { nats := [3, 71] }), by decide +kernel⟩, ⟨last (bad { nats := [8], w0 := 3072 }), by decide +kernel⟩,
    ⟨last (bad { nats := [4, 8], w0 := 3071 }), by decide +kernel⟩, ⟨last (bad { nats := [8] }), by decide +kernel⟩,
    ⟨group1 {} { k := 17 }, by decide +kernel⟩, ⟨bad { k := 17 }, by decide +kernel⟩, ⟨{ base .c with about := lane }, by decide +kernel⟩,
    ⟨{ base .c with about := lane, laneErrs := [((1023 * 128 + 127) * 33, 0), ((1023 * 128 + 127) * 33, 1)] }, by decide +kernel⟩,
    ⟨{ base .c with about := { lane with yes := true }, spares := [1023 * 128 + 127] }, by decide +kernel⟩,
    ⟨going 2, by decide +kernel⟩, ⟨going 1, by decide +kernel⟩⟩

/-- An instruction with its last operands, a word that decodes, memories that read the same, and a state whose next step the agenda gives. -/
theorem witness_encodings_and_steps :
    (∃ (i : Instr) (st : Stream), i = .fadd ⟨63, 63, 63, 7, 1, ⟨3, 3⟩⟩ ∧ i.wf = true ∧ i.inStream st = true) ∧
    (∃ (w : IWord) (st : Stream) (i : Instr), decode st w = some i) ∧
    (∃ s t : State, Memory.wf s.mem = true ∧ Memory.wf t.mem = true ∧ s.mem ≠ [] ∧ ∀ a, rdByte t.mem a = rdByte s.mem a) ∧
    ∃ s t : State, Memory.wf s.mem = true ∧ ¬ (s.hub.ready = true ∧ s.hub.failed = true) ∧ step s = .next t :=
  ⟨⟨_, .a, rfl, by decide, by decide⟩, ⟨0xFC000001, .s, _, rfl⟩, ⟨withBytes 0 1 5, withBytes 0 1 5, by decide, by decide, by decide, fun _ => rfl⟩,
    ⟨{ State.reset with agenda := [.event .gscAdvance {}] }, _, by decide, by decide, rfl⟩⟩
/-! ### Single steps, with results that the spec writes out or that follow from its rules by hand -/

/-- What `p` says of the state after stream `st` of core 0 executes `i` in the state that `f` makes. -/
def after (i : Instr) (st : Stream) (f : State → State) (p : State → Bool) : Bool :=
  match step (f (State.reset.placeWord (encode i) st)) with
  | .next t => p t
  | _ => false

/-- What `p` says of the state after event `i`, about `a`, in the state `s`. -/
def occurs (i : Instr) (a : About) (s : State) (p : State → Bool) : Bool :=
  match step { s with agenda := [.event i a], hub := { s.hub with ready := true } } with
  | .next t => p t
  | _ => false

/-- Registers x2 and x3 of core 0. -/
def withX (a b : X64) (s : State) : State := s.modCore 0 fun k => { k with x := vset (vset k.x 2 a) 3 b }

/-- Instruction `i` of the C-stream, with x2 = `a` and x3 = `b`, leaves `v` in x1. -/
def gives (i : Instr) (a b v : X64) : Bool := after i .c (withX a b) fun t => (t.core 0).getX 1 == v

/-- Instruction `i` traps with this cause at its own address. -/
def traps (i : Instr) (st : Stream) (f : State → State) (cause : BitVec 8) : Bool :=
  after i st f fun t => (t.core 0).tcause == cause && (t.core 0).tpc == 0x400080 && (t.core 0).tstream.toNat == st.num

/-- Table 6.3: results are taken modulo 2^64. -/
theorem test_add_wraps : gives (.add 1 2 3) (-1) 1 0 = true := by decide +kernel
theorem test_sub_borrows : gives (.sub 1 2 3) 0 1 0xFFFFFFFFFFFFFFFF = true := by decide +kernel
/-- R177: a shift or rotate count is b[5:0]. -/
theorem test_shift_counts : gives (.shl 1 2 3) 1 65 2 = true ∧ gives (.sar 1 2 3) 0x8000000000000000 63 0xFFFFFFFFFFFFFFFF = true ∧
    gives (.rotl 1 2 3) 0x8000000000000001 1 3 = true := by decide +kernel
theorem test_counts_of_zero : gives (.clz 1 2) 0 0 64 = true ∧ gives (.ctz 1 2) 0 0 64 = true := by decide +kernel
theorem test_products : gives (.mulh 1 2 3) (-1) (-1) 0 = true ∧ gives (.mulhn 1 2 3) (-1) (-1) 0xFFFFFFFFFFFFFFFE = true := by decide +kernel
theorem test_minimum_views : gives (.min 1 2 3) (-1) 1 (-1) = true ∧ gives (.minn 1 2 3) (-1) 1 1 = true := by decide +kernel
/-- R178: the fixed outcomes of a division, which its completion writes (Table 6.2). -/
theorem test_division_corners :
    let quotient (i : Instr) (a b v : X64) : Bool := after i .c (withX a b) fun t => (t.core 0).div == some (1, v)
    quotient (.div 1 2 3) 5 0 (-1) = true ∧ quotient (.remn 1 2 3) 5 0 5 = true ∧
      quotient (.div 1 2 3) 0x8000000000000000 (-1) 0x8000000000000000 = true ∧
      quotient (.rem 1 2 3) 0x8000000000000000 (-1) 0 = true := by decide +kernel
/-- R175: writes to x0 are discarded. -/
theorem test_x0_discards : after (.addi 0 0 5) .c (fun s => s) (fun t => (t.core 0).getX 0 == 0) = true := by decide +kernel
theorem test_immediate_extends : gives (.addi 1 2 0xFFFF) 0 0 (-1) = true ∧ gives (.lih 1 3 0x8000) 0 0 0x8000000000000000 = true := by
  decide +kernel
/-- R180: addresses are taken modulo 2^56. -/
theorem test_address_wraps : gives (.adda 1 2 3) 0xFFFFFFFFFFFFFF 1 0 = true := by decide +kernel
/-- R181: bits above 63 read as 0, or as a[63]. -/
theorem test_bit_fields_beyond_63 : gives (.bfx 1 2 60 8) (-1) 0 0xF = true ∧ gives (.bfxs 1 2 60 8) 0x8000000000000000 0 (-8) = true ∧
    gives (.bfi 1 2 60 8) 0xFF 0 0xF000000000000000 = true := by decide +kernel
/-- R155, R185: −1 is below 1 as s64 and above it as n64. -/
theorem test_compare_views :
    let holds (cc : BitVec 5) (c : Cond) : Bool := after (.cmp cc 2 3 1) .c (withX (-1) 1) fun t => (t.steer 0 .c 1).cond == c
    holds 2 .true = true ∧ holds 6 .false = true := by decide +kernel
/-- R184: the target is PC + 4 · off22; R148: bits [1:0] of a target are zero. -/
theorem test_prep : after (.prep 1 0x3FFFFF) .c (fun s => s)
    (fun t => (t.steer 0 .c 1).target == 0x40007C && (t.steer 0 .c 1).st == .fetching) = true := by decide +kernel
theorem test_prepx_misaligned : traps (.prepx 1 2) .c (withX 2 0) 0x0A = true := by decide +kernel
/-- Table 6.6. -/
theorem test_jrd : after (.jrd 1 1) .c (fun s => s.modSteer 0 .c 1 fun _ => { target := 0x100, st := .ready, cond := .true })
    (fun t => (t.core 0).getX 1 == 0x6000000000000100) = true := by decide +kernel
/-- R187: an EMPTY target comes before an UNSET condition. -/
theorem test_transfer_traps : traps (.xferT 1) .c (fun s => s) 0x02 = true ∧
    traps (.xferT 1) .c (fun s => s.modSteer 0 .c 1 fun _ => { target := 0x100, st := .ready }) 0x03 = true := by decide +kernel
theorem test_transfer_pends : after (.xferT 1) .c (fun s => s.modSteer 0 .c 1 fun _ => { target := 0x400000, st := .ready, cond := .true })
    (fun t => (t.seq 0 .c).pc == 0x400084 && ((t.seq 0 .c).pending.map (·.1)) == some 0x400000) = true := by decide +kernel
/-- R197: a level that is inactive, one with two rounds left, and one with one. -/
theorem test_lend : traps (.lend 1) .c (fun s => s) 0x01 = true ∧
    after (.lend 1) .c (fun s => s.modSeq 0 .c fun q => { q with lp := vset q.lp 1 (some (.count 0x400040 0x400080 2)) })
      (fun t => (t.seq 0 .c).pc == 0x400040 && vget (t.seq 0 .c).lp 1 none == some (.count 0x400040 0x400080 1)) = true ∧
    after (.lend 1) .c (fun s => s.modSeq 0 .c fun q => { q with lp := vset q.lp 1 (some (.count 0x400040 0x400080 1)) })
      (fun t => (t.seq 0 .c).pc == 0x400084 && vget (t.seq 0 .c).lp 1 none == none) = true := by decide +kernel
/-- R198: the payload of a token, and the number of tokens left. -/
theorem test_token_queues : after (.tksend 2 2) .c (withX 7 0) (fun t => vget (t.core 0).toks 2 [] == [7]) = true ∧
    after (.tkrecv 1 3) .c (fun s => s.modCore 0 fun k => k.setTq 3 0 [0, 0, 0]) (fun t => (t.core 0).getX 1 == 2) = true := by decide +kernel
/-- R200: sign extension from bit 7, and the 16 bytes of a pair. -/
theorem test_load_returns :
    let s (d : ReadDst) (v : Nat) : State := onCore (fun k => { k with cReads := [{ dst := d, value := some v }] }) (base .c)
    occurs .readDataReturn {} (s (.x 1 1 true) 0x80) (fun t => (t.core 0).getX 1 == -128) = true ∧
      occurs .readDataReturn {} (s (.xPair 2) (2 ^ 64 + 5)) (fun t => (t.core 0).getX 2 == 5 && (t.core 0).getX 3 == 1) = true := by
  decide +kernel
theorem test_store_visible : occurs .storeVisible {} (onCore (fun k => { k with cStores := [{ pieces := [(keyL0 0 8, [1, 2])] }] }) (base .c))
    (fun t => rdNat t.mem (keyL0 0 7) 4 == 0x00020100 && (t.core 0).cStores.isEmpty) = true := by decide +kernel
theorem test_misaligned_load : traps (.ldxPlace 1 2 0 6 0) .c (withX 4 0) 0x0A = true := by decide +kernel
/-- R202: the old value and the new one of atadd and atcas. -/
theorem test_atomic_operations : ({ fn := 0, b := 1, cmp := 0 } : Atom).apply 4 0xFFFFFFFF = 0 ∧
    ({ fn := 2, b := 9, cmp := 7 } : Atom).apply 8 7 = 9 ∧ ({ fn := 2, b := 9, cmp := 7 } : Atom).apply 8 6 = 6 := by decide +kernel
/-- R207: trap raises DEBUG at itself; halt needs P1; eret needs a handler task. -/
theorem test_system_traps : traps (.trap 7) .c (fun s => s) 0x16 = true ∧ traps .halt .c atP0 0x10 = true ∧
    traps .eret .c (fun s => s) 0x10 = true := by decide +kernel
theorem test_illegal_word : (match step (State.reset.placeWord 0 .c) with | .next t => (t.core 0).tcause == 0x01 | _ => false) = true := by
  decide +kernel
/-- R217: the offset is stepped modulo 2^19, and the level stays. -/
theorem test_ainc_wraps : after (.ainc 3 1 ⟨0, 0⟩) .l (fun s => s.modCore 0 fun k => { k with aL := vset k.aL 3 0x2007FFC0 })
    (fun t => vget (t.core 0).aL 3 0 == 0x20000000) = true := by decide +kernel
/-- R366: an offset that is no multiple of 16 raises MISALIGN. R360: a barrier that fires shows the other phase and reloads; R363: a counter stays at 2^64 − 1. -/
theorem test_barrier_fires : after (.bari 2 3) .c (withX 8 0) (fun t => (t.core 0).tcause == 0x0A) = true ∧
    (match exec (.barm 1 2) (withObject (barrierOf 1 1 0) (-1) 0) with
     | .next t => (t.barrier 0x1000000000000).phase == 1 && (t.barrier 0x1000000000000).pend == 5 && (t.barrier 0x1000000000000).arr == 0
     | _ => false) = true := by decide +kernel
theorem test_counter_overflow : (match exec (.sqadd 1 2) (withObject (2 ^ 64 - 1) 1 0) with
    | .next t => rdNat t.mem 0x1000000000000 8 == 2 ^ 64 - 1 && (t.core 0).tcause == 0x15
    | _ => false) = true := by decide +kernel

/-- Rows v1 and v2 and VT of core 0. -/
def withRows (vt : BitVec 32) (a b : Row) (s : State) : State :=
  s.modCore 0 fun k => { k with vt := vt, rows := vset (vset k.rows 1 a) 2 b }

/-- Lane 0 of width `w` of the row that an A-stream instruction writes. -/
def laneOut (w : Nat) (t : State) : Nat := match (t.core 0).aPend with
  | [p] => (match p.wr with | .row _ v | .transient _ v => lane v w 0)
  | _ => lane (vget (t.core 0).rows 3 0) w 0

/-- Instruction `i`, of rows v1 and v2 into v3, leaves `v` in lane 0. -/
def laneGives (i : Instr) (vt : BitVec 32) (a b : Row) (w v : Nat) : Bool := after i .a (withRows vt a b) fun t => laneOut w t == v

/-- Table 8.8, on s16: −2^15 is its own absolute value, a sum wraps or is cut to the range. -/
theorem test_lane_sums : laneGives (.vadd ⟨3, 1, 2, 0, 0, ⟨0, 0⟩⟩) 4 0x7FFF 1 16 0x8000 = true ∧
    laneGives (.vadds ⟨3, 1, 2, 0, 0, ⟨0, 0⟩⟩) 4 0x7FFF 1 16 0x7FFF = true ∧ laneGives (.vabs ⟨3, 1, 0, 0, ⟨0, 0⟩⟩) 4 0x8000 0 16 0x8000 = true := by
  decide +kernel
theorem test_lane_products : laneGives (.vmulh ⟨3, 1, 2, 0, 0, ⟨0, 0⟩⟩) 4 0xFFFF 1 16 0xFFFF = true ∧
    laneGives (.vmulh ⟨3, 1, 2, 0, 0, ⟨0, 0⟩⟩) 5 0xFFFF 1 16 0 = true ∧
    laneGives (.vmulq ⟨3, 1, 2, 0, 0, ⟨0, 0⟩⟩) 4 0x8000 0x8000 16 0x7FFF = true := by decide +kernel
/-- R248: a count beyond the width counts as the width. -/
theorem test_lane_shifts : laneGives (.vsar ⟨3, 1, 2, 0, 0, ⟨0, 0⟩⟩) 4 0x8000 20 16 0xFFFF = true ∧
    laneGives (.vshl ⟨3, 1, 2, 0, 0, ⟨0, 0⟩⟩) 4 1 16 16 0 = true := by decide +kernel
/-- R250, R251: 1 + 2 = 3, ∞ − ∞ is NaN, and −0 is below +0. -/
theorem test_float_lanes : laneGives (.fadd ⟨3, 1, 2, 0, 0, ⟨0, 0⟩⟩) 0x11 0x3F800000 0x40000000 32 0x40400000 = true ∧
    laneGives (.fsub ⟨3, 1, 2, 0, 0, ⟨0, 0⟩⟩) 0x11 0x7F800000 0x7F800000 32 0x7FC00000 = true ∧
    laneGives (.fmin ⟨3, 1, 2, 0, 0, ⟨0, 0⟩⟩) 0x11 0x80000000 0 32 0x80000000 = true := by decide +kernel
/-- R55: a conversion to s16 clips, and a NaN gives 0. -/
theorem test_conversions : (toIntFmt 0x04 (laneVal 0x11 0x4E6E6B28) 0 0 0).1 = 32767 ∧ (toIntFmt 0x04 (laneVal 0x11 0x7FC00000) 0 0 0).1 = 0 := by
  decide +kernel
theorem test_vtype : after (.vtype 5 0 ⟨0, 0⟩) .a (fun s => s) (fun t => (t.core 0).fmt == 5) = true := by decide +kernel
/-- R244: a register number outside 0 to 63 raises REP_RANGE before any repetition. -/
theorem test_rep_range : (match step (laneProgram [encode (.rep 4 0 1 0), encode (.vadd ⟨1, 61, 3, 0, 0, ⟨0, 0⟩⟩), 0xFC000000]) with
    | .next t => (t.core 0).tcause == 0x06 && !(t.core 0).reps.active
    | _ => false) = true := by decide +kernel

/-- A copy of 8 bytes within L0, whose barrier then counts them (R278). -/
theorem test_copy : occurs .copyComplete {} (withItem (runs 0 [(0, 0x100), (4, 0x100), (0x28, 8), (0x30, 8)])
      |>.write (keyL0 0 0x100) (natBytes (barrierOf 8 0 0) 16))
    (fun t => rdNat t.mem (keyL0 0 8) 8 == 0x0807060504030201 && (t.barrier (keyL0 0 0x100)).pend == 0 && t.items.isEmpty) = true := by decide +kernel
/-- Table 9.12 and R288: exp(0) = 1 and sigmoid(0) = 1/2, taken to s16 with OSH 8; √2 · 2^14 = 23170.475…; log2(8) = 3. -/
theorem test_firefly : firefly 1 0x11 0x04 8 0 = 256 ∧ firefly 7 0x11 0x04 8 0 = 128 ∧ firefly 5 0x11 0x04 14 0x40000000 = 23170 ∧
    firefly 2 0x11 0x0F 0 0x41000000 = 0x4040 := by decide +kernel
/-- R291: a literal of one byte, and the byte copied three times; the sum of the bytes is 20. -/
theorem test_scarab : scarabDecode [] (natBytes 0x31535447 4 ++ natBytes 4 4 ++ natBytes 4 4 ++ natBytes 20 4 ++ [0x00, 5, 0x80, 0]) =
    ([5, 5, 5, 5], true) := by decide +kernel
/-- The check value of CRC-32C over the digits 1 to 9 (R429). -/
theorem test_crc32c : crc32c [0x31, 0x32, 0x33, 0x34, 0x35, 0x36, 0x37, 0x38, 0x39] = 0xE3069283 := by decide +kernel
/-- R469: at 105 °C the module stops. -/
theorem test_hot_die : occurs .dieTemperatureChange { k := 105, n := 3 } State.reset (fun t => t.hub.fatal && !t.hub.ready) = true := by
  decide +kernel
/-- R468: a limit below 1200 W is a bad argument. -/
theorem test_power_limit : occurs .setlim {} (mailbox 4 1199) (fun t => t.hub.modlim == 2400 && t.hub.mbox.status == 1) = true ∧
    occurs .setlim {} (mailbox 4 1200) (fun t => t.hub.modlim == 1200 && t.hub.mbox.status == 0) = true := by decide +kernel

end Sys2Proof.Tests
end

section
/-! Integer, immediate, address, bit-field and steer-register instructions of the C-stream (R177 to R186). First the completion of an
instruction and the values of the model's word operations, bit by bit or as integers; then the statements, assembled from them. -/

namespace Sys2Proof.Proofs
open Sys2Proof Sys2Proof.Machine

/-! ### How an instruction completes -/

/-- An instruction that the model ends with `u` as its effect completes with that effect, however `u` is written. -/
theorem does_ok {i : Instr} {s t u : State} (hi : exec i s = .next (s.finish (.ok u))) (h : u = t) : Does i s t :=
  h ▸ hi

theorem does_setX {i : Instr} {s : State} {d : BitVec 5} {u v : X64} (hi : exec i s = s.setAdv d u) (h : u = v) :
    Does i s (s.setX d v) :=
  does_ok hi (congrArg (s.setX d) h)

/-- R176: a division issues, and its value waits in the divider of the core. -/
theorem does_divide {i : Instr} {s : State} {d : BitVec 5} {u v : X64} (hi : exec i s = s.divide d u) (h : u = v) :
    Does i s (s.modCore s.me fun k => { k with div := some (d, v) }) :=
  h ▸ hi

/-! ### Shift counts and addresses -/

/-- R177: a shift counts by bits [5:0] of its second operand. -/
theorem mod_64_eq_fld (b : X64) : b.toNat % 64 = (fld b 0 6).toNat := by
  rw [BitVec.extractLsb'_toNat, Nat.shiftRight_zero]

theorem toNat_va56 (v : X64) : (va56 v).toNat = v.toNat % 2 ^ 56 := by
  unfold va56
  have hm : (BitVec.ofNat 64 (2 ^ 56 - 1)).toNat = 2 ^ 56 - 1 := rfl
  rw [BitVec.toNat_and, hm, Nat.and_two_pow_sub_one_eq_mod]

/-- R180: the address of a sum is the sum modulo 2^56, a sum beyond 64 bits included. -/
theorem va56_of_mod {v : X64} {n : Nat} (h : v.toNat = n % 2 ^ 64) : va56 v = BitVec.ofNat 64 (n % 2 ^ 56) := by
  apply BitVec.eq_of_toNat_eq
  rw [toNat_va56, h, BitVec.toNat_ofNat]
  omega

theorem va56_add (a b : X64) : va56 (a + b) = BitVec.ofNat 64 ((a.toNat + b.toNat) % 2 ^ 56) :=
  va56_of_mod (BitVec.toNat_add ..)

theorem va56_add_shiftLeft (a b : X64) (n : Nat) :
    va56 (a + (b <<< n)) = BitVec.ofNat 64 ((a.toNat + b.toNat * 2 ^ n) % 2 ^ 56) :=
  va56_of_mod (by rw [BitVec.toNat_add, BitVec.toNat_shiftLeft, Nat.shiftLeft_eq, Nat.add_mod_mod])

/-! ### Choices by a comparison -/

/-- R177: min and max choose by the order of the operands as s64. -/
theorem ite_slt (a b u v : X64) : (if a.slt b then u else v) = if a.toInt < b.toInt then u else v :=
  ite_congr (propext BitVec.slt_iff_toInt_lt) (fun _ => rfl) fun _ => rfl

/-- R177: minn and maxn choose by the order of the operands as n64. -/
theorem ite_ult (a b u v : X64) : (if a.ult b then u else v) = if a.toNat < b.toNat then u else v :=
  ite_congr (propext BitVec.ult_iff_toNat_lt) (fun _ => rfl) fun _ => rfl

/-! ### Counts of bits -/

theorem getLsbD_log2 {a : X64} (h : a ≠ 0) : a.getLsbD a.toNat.log2 = true :=
  Nat.testBit_log2 fun e => h (BitVec.eq_of_toNat_eq e)

theorem log2_lt_64 (a : X64) : a.toNat.log2 < 64 := by
  by_cases h : a = 0
  · subst h; decide
  · exact BitVec.lt_of_getLsbD (getLsbD_log2 h)

theorem getLsbD_of_log2_lt {a : X64} {i : Nat} (h : a.toNat.log2 < i) : a.getLsbD i = false :=
  Nat.testBit_lt_two_pow (Nat.lt_of_lt_of_le Nat.lt_log2_self (Nat.pow_le_pow_right (by decide) h))

/-- R177: the count of clz, by the bits of its operand. -/
theorem clz64_spec (a : X64) : ∃ n : Nat, clz64 a = BitVec.ofNat 64 n ∧ n ≤ 64 ∧ (a = 0 → n = 64) ∧
    (a ≠ 0 → n < 64 ∧ a.getLsbD (63 - n) = true) ∧ ∀ i, 64 - n ≤ i → a.getLsbD i = false := by
  refine ⟨_, rfl, ?_⟩
  have hl := log2_lt_64 a
  by_cases h : a = 0
  · subst h; simp
  · have e : 63 - (63 - a.toNat.log2) = a.toNat.log2 := by omega
    rw [if_neg h, e]
    exact ⟨by omega, fun z => absurd z h, fun _ => ⟨by omega, getLsbD_log2 h⟩, fun i hi => getLsbD_of_log2_lt (by omega)⟩

/-- A number and its negative share no set bit but the lowest one of the number. -/
theorem getLsbD_and_neg (a : X64) (i : Nat) :
    (a &&& -a).getLsbD i = true ↔ a.getLsbD i = true ∧ ∀ j, j < i → a.getLsbD j = false := by
  rw [BitVec.getLsbD_and, BitVec.getLsbD_neg]
  by_cases h : a.getLsbD i = true
  · have hi := BitVec.lt_of_getLsbD h
    simp [-BitVec.getLsbD_eq_getElem, h, hi]
  · simp [h]

theorem and_neg_ne_zero {a : X64} (h : a ≠ 0) : a &&& -a ≠ 0 := by
  have hb : (a &&& -a).getLsbD a.ctz.toNat = true :=
    (getLsbD_and_neg ..).2 ⟨BitVec.getLsbD_true_ctz_of_ne_zero h, fun _ => BitVec.getLsbD_false_of_lt_ctz⟩
  intro e
  rw [e] at hb
  simp at hb

/-- R177: the count of ctz, by the bits of its operand. -/
theorem ctz64_spec (a : X64) : ∃ n : Nat, ctz64 a = BitVec.ofNat 64 n ∧ n ≤ 64 ∧ (a = 0 → n = 64) ∧
    (a ≠ 0 → n < 64 ∧ a.getLsbD n = true) ∧ ∀ i, i < n → a.getLsbD i = false := by
  refine ⟨_, rfl, ?_⟩
  by_cases h : a = 0
  · subst h; simp
  · have hl := log2_lt_64 (a &&& -a)
    obtain ⟨hset, hbelow⟩ := (getLsbD_and_neg ..).1 (getLsbD_log2 (and_neg_ne_zero h))
    rw [if_neg h]
    exact ⟨by omega, fun z => absurd z h, fun _ => ⟨hl, hset⟩, hbelow⟩

/-- The model's recursive count is the number of set bits among the low `n`. -/
theorem popcount_eq_countP (a n : Nat) : popcount a n = (List.range n).countP fun i => a.testBit i := by
  induction n generalizing a with
  | zero => rfl
  | succ n ih =>
    have hd : (fun i => a.testBit i) ∘ Nat.succ = fun i => (a / 2).testBit i := by
      funext i
      exact Nat.testBit_succ ..
    rw [popcount, ih, List.range_succ_eq_map, List.countP_cons, List.countP_map, hd, Nat.testBit_zero, Nat.add_comm]
    rcases Nat.mod_two_eq_zero_or_one a with h | h <;> simp [h]

/-! ### Division (R178) -/

theorem divS_of_ne_zero {a b : X64} (h : b ≠ 0) : divS a b = BitVec.ofInt 64 (a.toInt.tdiv b.toInt) := by
  rw [divS, if_neg h]
  apply BitVec.eq_of_toInt_eq
  rw [BitVec.toInt_sdiv, BitVec.toInt_ofInt]

theorem remS_of_ne_zero {a b : X64} (h : b ≠ 0) :
    remS a b = BitVec.ofInt 64 (a.toInt - b.toInt * a.toInt.tdiv b.toInt) := by
  rw [remS, if_neg h, ← Int.tmod_def, ← BitVec.toInt_srem, BitVec.ofInt_toInt]

theorem divN_of_ne_zero {a b : X64} (h : b ≠ 0) : divN a b = BitVec.ofNat 64 (a.toNat / b.toNat) := by
  rw [divN, if_neg h, ← BitVec.toNat_udiv, BitVec.ofNat_toNat, BitVec.setWidth_eq]

theorem remN_of_ne_zero {a b : X64} (h : b ≠ 0) :
    remN a b = BitVec.ofNat 64 (a.toNat - b.toNat * (a.toNat / b.toNat)) := by
  have hm : a.toNat - b.toNat * (a.toNat / b.toNat) = (a % b).toNat := by
    rw [BitVec.toNat_umod, Nat.mod_eq_sub]
  rw [remN, if_neg h, hm, BitVec.ofNat_toNat, BitVec.setWidth_eq]

/-- R176: the division in progress ends by writing its register, and frees the divider. -/
theorem divideComplete_spec {s : State} {d : BitVec 5} {v : X64} (h : (s.core s.me).div = some (d, v)) :
    ∃ t, Gives .divideComplete s t ∧ (t.core s.me).div = none ∧
      (∀ r, (t.core s.me).getX r = if r = d ∧ r ≠ 0 then v else s.x r) ∧ ∀ n, n ≠ s.me → t.core n = s.core n := by
  have hexec : exec .divideComplete s =
      .next (s.modCore s.me fun k => { k.setX d v with div := none }).pumpAll := by
    change execDivideComplete s = _
    rw [execDivideComplete, h]
  have hcore := (pumpAll_recordOnly (s.modCore s.me fun k => { k.setX d v with div := none })).core
  refine ⟨_, hexec, ?_, fun r => ?_, fun n hn => ?_⟩
  · rw [hcore, core_modCore_same]
  · rw [hcore, core_modCore_same]
    exact getX_setX ..
  · rw [hcore, core_modCore_ne _ _ hn]

/-! ### Integer registers -/

/-- Settles O2: every instruction writes the value its row of Table 6.3 names, and a division's value waits until it completes. -/
theorem integerRegisters : Obligations.IntegerRegisters := by
  unfold Obligations.IntegerRegisters
  refine ⟨fun s d ra rb => ?_, fun s d ra => ?_, fun s d ra rb => ?_, fun s d v h => divideComplete_spec h⟩
  · have hsh := mod_64_eq_fld (s.x rb)
    exact ⟨rfl, rfl, rfl, rfl, rfl,
      does_setX rfl (congrArg (s.x ra <<< ·) hsh), does_setX rfl (congrArg (s.x ra >>> ·) hsh),
      does_setX rfl (congrArg (s.x ra).sshiftRight hsh), does_setX rfl (congrArg (s.x ra).rotateLeft hsh),
      does_setX rfl (ite_slt ..), does_setX rfl (ite_slt ..), does_setX rfl (ite_ult ..), does_setX rfl (ite_ult ..),
      rfl, rfl, rfl⟩
  · obtain ⟨m, hm, hclz⟩ := clz64_spec (s.x ra)
    obtain ⟨n, hn, hctz⟩ := ctz64_spec (s.x ra)
    have field {w : Nat} (h : w ≤ 64) : (s.x ra).setWidth w = fld (s.x ra) 0 w := BitVec.setWidth_eq_extractLsb' h
    exact ⟨⟨m, does_setX rfl hm, hclz⟩, ⟨n, does_setX rfl hn, hctz⟩,
      does_setX rfl (congrArg (BitVec.ofNat 64) (popcount_eq_countP ..)),
      does_setX rfl (congrArg (BitVec.signExtend 64) (field (by decide))),
      does_setX rfl (congrArg (BitVec.signExtend 64) (field (by decide))),
      does_setX rfl (congrArg (BitVec.signExtend 64) (field (by decide))),
      does_setX rfl (congrArg (BitVec.setWidth 64) (field (by decide))),
      does_setX rfl (congrArg (BitVec.setWidth 64) (field (by decide))),
      does_setX rfl (congrArg (BitVec.setWidth 64) (field (by decide)))⟩
  · intro a b issues
    refine ⟨fun hz => ?_, fun hb => ?_, fun hmin hneg => ?_⟩
    · exact ⟨does_divide rfl (if_pos hz), does_divide rfl (if_pos hz), does_divide rfl (if_pos hz), does_divide rfl (if_pos hz)⟩
    · exact ⟨does_divide rfl (divS_of_ne_zero hb), does_divide rfl (divN_of_ne_zero hb),
        does_divide rfl (remS_of_ne_zero hb), does_divide rfl (remN_of_ne_zero hb)⟩
    · have hq : divS a b = BitVec.intMin 64 := by rw [hmin, hneg]; decide
      have hr : remS a b = 0 := by rw [hmin, hneg]; decide
      exact ⟨does_divide rfl hq, does_divide rfl hr⟩

/-! ### Immediates and bit fields, bit by bit -/

/-- Bits [p + w − 1:p] of a mask of `w` bits moved up by `p`. -/
theorem getLsbD_mask (p w : Nat) {i : Nat} (hi : i < 64) :
    (BitVec.ofNat 64 (2 ^ w - 1) <<< p).getLsbD i = decide (p ≤ i ∧ i < p + w) := by
  have hlow : decide (i - p < 64) = true := decide_eq_true (by omega)
  rw [BitVec.getLsbD_shiftLeft, BitVec.getLsbD_ofNat, Nat.testBit_two_pow_sub_one, hlow, decide_eq_true hi,
    Bool.true_and, Bool.true_and, ← decide_not, ← Bool.decide_and]
  exact decide_eq_decide.2 (by omega)

theorem getLsbD_bfx64 (a : X64) (p w : Nat) {i : Nat} (hi : i < 64) :
    (bfx64 a p w).getLsbD i = (decide (i < w) && a.getLsbD (p + i)) := by
  unfold bfx64
  split
  next hw => simp [hw]
  next =>
    rw [BitVec.getLsbD_and, BitVec.getLsbD_ushiftRight, BitVec.getLsbD_ofNat, Nat.testBit_two_pow_sub_one,
      decide_eq_true hi, Bool.true_and, Bool.and_comm]

/-- A bit of an arithmetic right shift: bits above 63 read as bit 63. -/
theorem getLsbD_sshiftRight_min (a : X64) (p : Nat) {i : Nat} (hi : i < 64) :
    (a.sshiftRight p).getLsbD i = a.getLsbD (min (p + i) 63) := by
  rw [BitVec.getLsbD_sshiftRight, decide_eq_false (by omega), Bool.not_false, Bool.true_and]
  split
  next h => rw [Nat.min_eq_left (by omega)]
  next h => rw [Nat.min_eq_right (by omega), BitVec.msb_eq_getLsbD_last]

/-- R181: bit `i` of bfxs is bit `i` of the field, and from the field's top bit on that bit; past bit 63 the field reads a[63]. -/
theorem getLsbD_bfxs64 (a : X64) (p : Nat) {w i : Nat} (hw : w < 64) (hi : i < 64) :
    (bfxs64 a p w).getLsbD i = (decide (0 < w) && a.getLsbD (min (p + min i (w - 1)) 63)) := by
  unfold bfxs64
  split
  next hz => simp [hz]
  next hz =>
    have hpos : 0 < w := Nat.pos_of_ne_zero hz
    have htop : min (64 - w + i) 63 < 64 := by omega
    have hpast : ¬ min (64 - w + i) 63 < 64 - w := by omega
    have hfield : min (64 - w + i) 63 - (64 - w) = min i (w - 1) := by omega
    rw [getLsbD_sshiftRight_min _ _ hi, BitVec.getLsbD_shiftLeft, decide_eq_true htop, decide_eq_false hpast, hfield,
      getLsbD_sshiftRight_min _ _ (by omega), decide_eq_true hpos]
    rfl

theorem getLsbD_bfi64 (d a : X64) (p w : Nat) {i : Nat} (hi : i < 64) :
    (bfi64 d a p w).getLsbD i = if p ≤ i ∧ i < p + w then a.getLsbD (i - p) else d.getLsbD i := by
  unfold bfi64
  rw [BitVec.getLsbD_or, BitVec.getLsbD_and, BitVec.getLsbD_and, BitVec.getLsbD_not, getLsbD_mask p w hi,
    BitVec.getLsbD_shiftLeft]
  by_cases h : p ≤ i ∧ i < p + w
  · have hp : ¬ i < p := by omega
    simp [h, hi, hp]
  · simp [h, hi]

/-- R179: lih is the insertion of 16 bits at the halfword's place. -/
theorem lih64_eq_bfi64 (d : X64) (q : Nat) (imm : BitVec 16) : lih64 d q imm = bfi64 d (imm.setWidth 64) (16 * q) 16 := by
  have hlow : imm.setWidth 64 &&& BitVec.ofNat 64 (2 ^ 16 - 1) = imm.setWidth 64 := by
    apply BitVec.eq_of_toNat_eq
    have hm : (BitVec.ofNat 64 (2 ^ 16 - 1)).toNat = 2 ^ 16 - 1 := rfl
    have hi : (imm.setWidth 64).toNat = imm.toNat := BitVec.toNat_setWidth_of_le (by decide)
    rw [BitVec.toNat_and, hm, hi, Nat.and_two_pow_sub_one_of_lt_two_pow imm.isLt]
  rw [bfi64, ← BitVec.shiftLeft_and_distrib, hlow]
  rfl

theorem getLsbD_lih64 (d : X64) (q : Nat) (imm : BitVec 16) {i : Nat} (hi : i < 64) :
    (lih64 d q imm).getLsbD i = if 16 * q ≤ i ∧ i < 16 * q + 16 then imm.getLsbD (i - 16 * q) else d.getLsbD i := by
  have himm : (imm.setWidth 64).getLsbD (i - 16 * q) = imm.getLsbD (i - 16 * q) := by
    rw [BitVec.getLsbD_setWidth, decide_eq_true (by omega), Bool.true_and]
  rw [lih64_eq_bfi64, getLsbD_bfi64 _ _ _ _ hi, himm]

/-- R179: the halfword that lih writes reads back. -/
theorem fld_lih64 (d : X64) (q : BitVec 2) (imm : BitVec 16) : fld (lih64 d q.toNat imm) (16 * q.toNat) 16 = imm := by
  apply BitVec.eq_of_getLsbD_eq
  intro i hi
  have hq := q.isLt
  have hsub : 16 * q.toNat + i - 16 * q.toNat = i := by omega
  rw [BitVec.getLsbD_extractLsb', decide_eq_true hi, Bool.true_and, getLsbD_lih64 _ _ _ (by omega), if_pos (by omega), hsub]

theorem getLsbD_lih64_outside (d : X64) (q : Nat) (imm : BitVec 16) {i : Nat} (h : i < 16 * q ∨ 16 * q + 16 ≤ i) :
    (lih64 d q imm).getLsbD i = d.getLsbD i := by
  by_cases hi : i < 64
  · rw [getLsbD_lih64 _ _ _ hi, if_neg (by omega)]
  · rw [BitVec.getLsbD_of_ge _ _ (by omega), BitVec.getLsbD_of_ge _ _ (by omega)]

/-- Settles O3: addresses are cut to 56 bits, the immediates extended, and each bit of a field instruction's result is the one named. -/
theorem immediatesAndFields : Obligations.ImmediatesAndFields := by
  unfold Obligations.ImmediatesAndFields
  refine ⟨fun s d ra rb sh pos imm imm21 q => ?_, fun s d ra pos width => ?_⟩
  · have haddr := va56_add (s.x ra) (s.x rb)
    have hscaled := va56_add_shiftLeft (s.x ra) (s.x rb) sh.toNat
    exact ⟨does_setX rfl haddr, does_setX rfl hscaled, rfl, rfl, rfl, rfl, rfl, rfl, rfl, rfl,
      lih64 (s.x d) q.toNat imm, rfl, fld_lih64 .., fun _ => getLsbD_lih64_outside _ _ _⟩
  · exact ⟨⟨_, rfl, fun _ => getLsbD_bfx64 _ _ _⟩, ⟨_, rfl, fun _ => getLsbD_bfxs64 _ _ width.isLt⟩,
      ⟨_, rfl, fun _ => getLsbD_bfi64 _ _ _ _⟩⟩

/-! ### Conditions -/

/-- The conditions of Table 5.3 in the order of their codes. -/
def condTable (a b : X64) : List Bool :=
  [a == b, a != b, decide (a.toInt < b.toInt), decide (a.toInt ≤ b.toInt), decide (b.toInt < a.toInt),
   decide (b.toInt ≤ a.toInt), decide (a.toNat < b.toNat), decide (a.toNat ≤ b.toNat), decide (b.toNat < a.toNat),
   decide (b.toNat ≤ a.toNat), a &&& b == 0, a &&& b != 0]

theorem condHolds_eq_getD (cc : BitVec 5) (a b : X64) : condHolds cc a b = (condTable a b).getD cc.toNat false := by
  unfold condHolds
  match cc.toNat with
  | 0 | 1 | 2 | 3 | 4 | 5 | 6 | 7 | 8 | 9 | 10 | 11 => rfl
  | _ + 12 => rfl

theorem condHolds_of_condTable {cc : BitVec 5} {a b : X64} {h : Bool} (ht : (condTable a b)[cc.toNat]? = some h) :
    condHolds cc a b = h := by
  rw [condHolds_eq_getD, List.getD_eq_getElem?_getD, ht, Option.getD_some]

/-- R185: jand holds when both conditions hold. -/
theorem condBin_and (u v : Cond) : condBin and u v =
    if u = .unset ∨ v = .unset then .unset else if u = .true ∧ v = .true then .true else .false := by
  cases u <;> cases v <;> rfl

/-- R185: jor holds when one of the conditions holds. -/
theorem condBin_or (u v : Cond) : condBin or u v =
    if u = .unset ∨ v = .unset then .unset else if u = .true ∨ v = .true then .true else .false := by
  cases u <;> cases v <;> rfl

theorem does_setCond {i : Instr} {s : State} {j : Nat} {b h : Bool}
    (hi : exec i s = .next (s.finish (.ok (s.modJ j (·.setCond b))))) (e : b = h) :
    Does i s (s.modJ j fun r => { r with cond := if h then .true else .false }) :=
  e ▸ hi

theorem does_writeCond {i : Instr} {s : State} {j : Nat} {b c : Cond}
    (hi : exec i s = .next (s.finish (.ok (s.modJ j fun r => { r with cond := b })))) (e : b = c) :
    Does i s (s.modJ j fun r => { r with cond := c }) :=
  e ▸ hi

/-! ### Targets -/

/-- R184: a register is made FETCHING at a target that is a multiple of 4. -/
theorem does_prepTo {i : Instr} {s : State} {j : Nat} {t : VAddr} (hi : exec i s = .next (s.finish (s.prepTo j t)))
    (h : t.toNat % 4 = 0) : Does i s (s.modJ j fun r => { r with target := t, st := .fetching, buf := {} }) := by
  rw [State.prepTo, if_neg fun hne => hne h] at hi
  exact hi

/-- R184: any other target raises MISALIGN, with none of the effect. -/
theorem traps_prepTo {i : Instr} {s : State} {j : Nat} {t : VAddr} (hi : exec i s = .next (s.finish (s.prepTo j t)))
    (h : t.toNat % 4 ≠ 0) : Traps i s { cause := cMISALIGN, addr := t.setWidth 64 } := by
  rw [State.prepTo, if_pos h] at hi
  exact hi

theorem exec_prep (j : BitVec 4) (off : BitVec 22) (s : State) :
    exec (.prep j off) s = .next (s.finish (s.prepTo j.toNat (s.pc + 4 * off.signExtend 56))) := by
  rw [BitVec.mul_comm]
  rfl

theorem exec_jmov (j ja : BitVec 4) (s : State) : exec (.jmov j ja) s = .next (s.finish (.ok (if j = ja then s
    else s.modJ j.toNat fun r => if (s.myJ ja.toNat).st = .empty then {}
      else { r.prepare (s.myJ ja.toNat).target with cond := (s.myJ ja.toNat).cond }))) := rfl

/-- Table 6.5: jmov of a register to itself changes nothing. -/
theorem does_jmov_self {s : State} {j ja : BitVec 4} (h : j = ja) : Does (.jmov j ja) s s :=
  does_ok (exec_jmov ..) (if_pos h)

/-- Table 6.5: jmov of an EMPTY register clears its destination. -/
theorem does_jmov_empty {s : State} {j ja : BitVec 4} (h : j ≠ ja) (he : (s.myJ ja.toNat).st = .empty) :
    Does (.jmov j ja) s (s.modJ j.toNat fun _ => {}) :=
  does_ok (exec_jmov ..) (by simp only [if_neg h, if_pos he])

/-- Table 6.5: jmov of any other register copies target and condition, and fetches anew. -/
theorem does_jmov_nonempty {s : State} {j ja : BitVec 4} (h : j ≠ ja) (he : (s.myJ ja.toNat).st ≠ .empty) :
    Does (.jmov j ja) s (s.modJ j.toNat fun _ =>
      { target := (s.myJ ja.toNat).target, st := .fetching, cond := (s.myJ ja.toNat).cond, buf := {} }) :=
  does_ok (exec_jmov ..) (by simp only [if_neg h, if_neg he, Steer.prepare])

/-- The four fields of a word put together as Table 6.6 lays them out. -/
theorem fld_steer_layout (c t : BitVec 2) (z : BitVec 4) (g : VAddr) :
    let w : X64 := c ++ t ++ z ++ g
    fld w 0 56 = g ∧ fld w 56 4 = z ∧ fld w 60 2 = t ∧ fld w 62 2 = c := by
  open BitVec in
  exact ⟨extractLsb'_append_eq_right,
    (extractLsb'_append_eq_of_le (by decide)).trans extractLsb'_append_eq_right,
    (extractLsb'_append_eq_of_le (by decide)).trans
      ((extractLsb'_append_eq_of_le (by decide)).trans extractLsb'_append_eq_right),
    (extractLsb'_append_eq_of_le (by decide)).trans
      ((extractLsb'_append_eq_of_le (by decide)).trans extractLsb'_append_eq_left)⟩

/-- Settles O5: the table of conditions, the two joins, and a rule for each way a target half is written or read. -/
theorem steerRegisters : Obligations.SteerRegisters := by
  unfold Obligations.SteerRegisters
  refine ⟨fun s cc ra rb j ja jb imm h => ?_, fun s j ja ra d off => ?_⟩
  · exact ⟨fun ht => does_setCond rfl (condHolds_of_condTable ht), fun ht => does_setCond rfl (condHolds_of_condTable ht),
      does_writeCond rfl (condBin_and ..), does_writeCond rfl (condBin_or ..)⟩
  · have hprep := exec_prep j off s
    exact ⟨does_prepTo hprep, traps_prepTo hprep, does_prepTo rfl, traps_prepTo rfl,
      does_jmov_self, does_jmov_empty, does_jmov_nonempty, rfl, (s.myJ j.toNat).word, rfl, fld_steer_layout ..⟩

end Sys2Proof.Proofs
end

section
/-! ainc, waita and mark of the data streams (R134, R217, R226, R227). First what a second update of a core does, and that the pop and
the push of an instruction name different queues; then how an instruction with token fields ends, the word that waita reads, and the
marks; then the statement, assembled from them. -/

namespace Sys2Proof.Proofs
open Sys2Proof Sys2Proof.Machine Sys2Proof.Laws

/-! ### Two updates in turn -/

theorem put_put {α : Type} (k : Nat) (u v : α) (l : List (Nat × α)) : put k v (put k u l) = put k v l := by
  induction l with
  | nil => simp [put]
  | cons e t ih =>
    obtain ⟨i, w⟩ := e
    by_cases hlt : k < i
    · simp [put, hlt]
    · by_cases heq : k = i
      · simp [put, heq]
      · simp [put, hlt, heq, ih]

theorem modCore_modCore (s : State) (c : Nat) (f g : Core → Core) :
    (s.modCore c f).modCore c g = s.modCore c fun k => g (f k) := by
  unfold State.modCore
  rw [core_setCore_same]
  simp only [State.setCore, put_put]

theorem vset_comm {α : Type} {n i j : Nat} (v : Vector α n) (x y : α) (h : i ≠ j) :
    vset (vset v i x) j y = vset (vset v j y) i x := by
  unfold vset
  apply Vector.ext
  intro m hm
  simp only [Vector.getElem_setIfInBounds]
  by_cases hi : i = m
  · have hj : j ≠ m := fun e => h (hi.trans e.symm)
    simp only [if_pos hi, if_neg hj]
  · simp only [if_neg hi]

/-! ### The queues of one instruction -/

theorem tokOther_lt (st : Stream) (i : BitVec 2) : tokOther st i < 4 := by
  have hst := Stream.num_lt st
  unfold tokOther
  split <;> omega

/-- A token field names a queue of another stream (Table 5.8). -/
theorem tokOther_ne_num (st : Stream) {i : BitVec 2} (h : i ≠ 0) : tokOther st i ≠ st.num := by
  have hi : i.toNat ≠ 0 := fun e => h (BitVec.eq_of_toNat_eq e)
  unfold tokOther
  split <;> omega

theorem tqPush_tqPop (k : Core) {a b c d : Nat} (v : X64) (h : 4 * a + b ≠ 4 * c + d) :
    (k.tqPush a b v).tqPop c d = (k.tqPop c d).tqPush a b v := by
  simp only [Core.tqPop, Core.tqPush, Core.setTq, Core.tq, vget_vset_ne _ _ _ _ _ h, vget_vset_ne _ _ _ _ _ h.symm,
    vset_comm _ _ _ h]

/-- The pop of an instruction takes from a queue to its stream, its push adds to one from it: their order makes no difference. -/
theorem tokPush_tokPop (k : Core) (st : Stream) (tok : Tok) (mark : Nat) :
    (k.tokPush st tok.push mark).tokPop st tok = (k.tokPop st tok).tokPush st tok.push mark := by
  unfold Core.tokPop Core.tokPush
  by_cases hpop : tok.pop = 0
  · simp only [if_pos hpop]
  · by_cases hpush : tok.push = 0
    · simp only [if_pos hpush]
    · have hsrc := tokOther_ne_num st hpop
      have hdst := tokOther_lt st tok.push
      have hst := Stream.num_lt st
      simp only [if_neg hpop, if_neg hpush]
      exact tqPush_tqPop k _ (by omega)

theorem tokPop_accNo (k : Core) (st : Stream) (tok : Tok) : (k.tokPop st tok).accNo = k.accNo := by
  unfold Core.tokPop
  split <;> rfl

/-! ### How an instruction with token fields ends -/

section
variable {i : Instr} {s t : State} {tok : Tok} {late : Bool} {body : Option X64 → Res} {w : Why}
  (hi : exec i s = .next (s.finish (s.tokRun tok late body))) (hw : s.tokWait tok late = none)
include hi hw

/-- R23: when its queues let it issue and its body completes, it completes and moves its tokens. -/
theorem doesTok_of_tokRun (hb : body (s.payload tok) = .ok t) : DoesTok i tok late s t := by
  unfold DoesTok
  rw [hi, State.tokRun, hw]
  simp only [hb]
  rfl

/-- R24: a stall of its body moves no token. -/
theorem stalls_of_tokRun (hb : body (s.payload tok) = .wait t w) : Stalls i s t w := by
  unfold Stalls
  rw [hi, State.tokRun, hw]
  simp only [hb]
  rfl

end

/-! ### ainc (R217) -/

theorem does_ainc {s : State} {a : BitVec 4} {imm : BitVec 12} {tok : Tok} (hw : s.tokWait tok false = none) :
    ∃ p' : PlaceAddr, fld p' 19 13 = fld (s.aOf a (s.payload tok)) 19 13 ∧
      fld p' 0 19 = fld (s.aOf a (s.payload tok)) 0 19 + imm.signExtend 19 * 64 ∧
      DoesTok (.ainc a imm tok) tok false s (s.modCore s.me fun k => k.setA s.st a p') := by
  refine ⟨_, ?_, ?_, doesTok_of_tokRun (i := .ainc a imm tok) rfl hw rfl⟩
  · exact BitVec.extractLsb'_append_eq_left
  · exact BitVec.extractLsb'_append_eq_right

/-! ### waita (R226) -/

/-- The word a waita waits for has been found: it completes, or its push waits for room and its pop is not done yet. -/
def waitaEnd (tok : Tok) (s : State) : Res := match s.tokEnd tok.push with
  | .ok t => .ok (t.modCore t.me fun k => k.tokPop t.st tok)
  | r => r

/-- A data stream is not the A-stream, whose executions alone age the transient windows. -/
theorem ne_a {st : Stream} (h : st = .l ∨ st = .s) : st ≠ .a := by
  rcases h with rfl | rfl <;> decide

theorem waitaEnd_of_room {s : State} {tok : Tok} (hst : s.st ≠ .a) (h : (s.core s.me).tokRoom s.st tok.push = true) :
    waitaEnd tok s = .ok (s.tokMove tok false) := by
  have hend : s.tokEnd tok.push = .ok (s.modCore s.me fun k => k.tokPush s.st tok.push k.accNo) := if_pos h
  rw [waitaEnd, hend]
  change Res.ok ((s.modCore s.me _).modCore s.me fun k => k.tokPop s.st tok) = _
  simp only [modCore_modCore, tokPush_tokPop, State.tokMove, if_neg hst, tokPop_accNo, Bool.false_eq_true, if_false]

theorem waitaEnd_of_full {s : State} {tok : Tok} (h : (s.core s.me).tokRoom s.st tok.push = false) :
    waitaEnd tok s = .wait (s.modSeq s.me s.st fun q => { q with met := true }) (.token s.st.num (tokOther s.st tok.push)) := by
  have hend : s.tokEnd tok.push = _ := if_neg (ne_true_of_eq_false h)
  rw [waitaEnd, hend]

/-- The condition of R226: at least the payload, or, without one, not 0. -/
def reached (payload : Option X64) (v : Nat) : Bool := match payload with
  | some e => decide (e.toNat ≤ v)
  | none => decide (v ≠ 0)

theorem reached_iff (payload : Option X64) (v : Nat) : reached payload v = true ↔ match payload with
    | some e => e.toNat ≤ v
    | none => v ≠ 0 := by
  cases payload <;> simp [reached]

/-- The stall of a waita whose word has not reached its value. -/
def waitaWhy (s : State) (a : BitVec 4) (limit : BitVec 12) : Why :=
  let p := (s.core s.me).aReg s.st a
  .wait (256 * limit.toNat) (placeRec p (offOf p)) (BitVec.ofNat 64 (256 * limit.toNat))

/-- A read that no store of the cycle and no indeterminate byte touches finds the bytes of memory (R10, R79). -/
theorem seen_eq_rdBytes {s : State} {key n : Nat} (hole : ∀ a, key ≤ a → a < key + n → s.poolHole a = false)
    (old : ∀ b ∈ s.l0Then, ¬ (key ≤ b.1 ∧ b.1 < key + n)) : s.seen key n = rdBytes s.mem key n := by
  have hlook {a : Nat} (ha : key ≤ a ∧ a < key + n) : look a s.l0Then = none := by
    generalize s.l0Then = l at old
    induction l with
    | nil => rfl
    | cons e t ih =>
      rw [look, if_neg fun he : e.1 = a => old e (List.mem_cons_self ..) (he ▸ ha)]
      exact ih fun b hb => old b (List.mem_cons_of_mem _ hb)
  apply List.ext_getElem
  · simp [State.seen]
  · intro i hi hi'
    have hn : i < n := by simpa using hi'
    have hget := rdBytes_getD s.mem key n i hn
    have hhole : s.poolHole (key + i) = false := hole _ (by omega) (by omega)
    have hnone : look (key + i) s.l0Then = none := hlook (by omega)
    rw [List.getD_eq_getElem?_getD, List.getElem?_eq_getElem hi', Option.getD_some] at hget
    simp only [State.seen, List.getElem_map, List.getElem_range, hhole, Bool.false_eq_true, if_false, hnone, Option.getD_none,
      hget]

/-- A waita that has found its word completes when its push has room. -/
theorem doesTok_of_waitaEnd {i : Instr} {s u : State} {tok : Tok} (hi : exec i s = .next (s.finish (waitaEnd tok u)))
    (hst : u.st ≠ .a) (h : (u.core u.me).tokRoom u.st tok.push = true) : DoesTok i tok false s u := by
  unfold DoesTok
  rw [hi, waitaEnd_of_room hst h]
  rfl

/-- Log entry 105: a waita that has found its word waits to push, its pop undone. -/
theorem stalls_of_waitaEnd {i : Instr} {s u : State} {tok : Tok} (hi : exec i s = .next (s.finish (waitaEnd tok u)))
    (h : (u.core u.me).tokRoom u.st tok.push = false) :
    Stalls i s (u.modSeq u.me u.st fun q => { q with met := true }) (.token u.st.num (tokOther u.st tok.push)) := by
  unfold Stalls
  rw [hi, waitaEnd_of_full h]
  rfl

section
variable {s : State} {a : BitVec 4} {limit : BitVec 12} {tok : Tok} (hw : s.tokWait tok true = none)
include hw

/-- A waita whose word was there before only waits to push. -/
theorem exec_waita_of_met (hmet : (s.seq s.me s.st).met = true) :
    exec (.waita a limit tok) s = .next (s.finish (waitaEnd tok s)) := by
  change execWaita a limit tok s = _
  simp only [execWaita, hw, hmet, if_true]
  rfl

variable {key : Nat} (hmet : (s.seq s.me s.st).met = false) (hl : s.st = .l → s.lHold = none)
  (hp : s.place s.me ((s.core s.me).aReg s.st a) (offOf ((s.core s.me).aReg s.st a)) 8 8 = .ok key)
include hmet hl hp

/-- Log entry 119: it waits behind what its column has sent to the word's. -/
theorem stalls_waita_of_not_clear (hc : s.clearTo s.me key = false) : Stalls (.waita a limit tok) s s (waitaWhy s a limit) := by
  change execWaita a limit tok s = _
  simp only [execWaita, hw, hmet, ite_eq_right_iff.2 hl, hp, hc]
  rfl

variable (hc : s.clearTo s.me key = true)
include hc

/-- R232: a waita whose word lies in a poisoned line traps. -/
theorem traps_waita_of_poison {l : Nat} (hbad : poisonIn s key 8 = some l) :
    Traps (.waita a limit tok) s (poisonTrap s.me l true) := by
  change execWaita a limit tok s = _
  simp only [execWaita, hw, hmet, ite_eq_right_iff.2 hl, hp, hc, hbad]
  rfl

variable (hgood : poisonIn s key 8 = none) (hole : ∀ b, key ≤ b → b < key + 8 → s.poolHole b = false)
  (old : ∀ b ∈ s.l0Then, ¬ (key ≤ b.1 ∧ b.1 < key + 8))
include hgood hole old

/-- The waita reads the word of memory, and ends by whether it has reached its value. -/
theorem exec_waita_of_read :
    exec (.waita a limit tok) s = .next (s.finish (if reached (s.payload tok) (rdNat s.mem key 8)
      then waitaEnd tok (s.touch key false) else .wait (s.touch key false) (waitaWhy s a limit))) := by
  have hread : bytesNat (s.seen key 8) = rdNat s.mem key 8 := by rw [seen_eq_rdBytes hole old, rdNat_eq]
  change execWaita a limit tok s = _
  simp only [execWaita, hw, hmet, ite_eq_right_iff.2 hl, hp, hc, hgood, hread]
  rfl

end

/-! ### Marks (R134, R227) -/

/-- R134: the count of a number has come to the bound of a stream's marks. -/
def MarkAtBound (st : Stream) (n : Int) : Prop := (st = .l ∧ n ≤ -15) ∨ (st ≠ .l ∧ 15 ≤ n)

section
variable {s : State} {m : BitVec 4} {tok : Tok} (hw : s.tokWait tok false = none)
include hw

theorem stalls_mark (hn : MarkAtBound s.st (vget (s.core s.me).marks m.toNat 0)) :
    Stalls (.mark m tok) s s (.mark m.toNat) :=
  stalls_of_tokRun rfl hw (if_pos hn)

theorem doesTok_mark (hn : ¬ MarkAtBound s.st (vget (s.core s.me).marks m.toNat 0)) :
    DoesTok (.mark m tok) tok false s
      (s.modCore s.me fun k => if s.st = .l then k.markL m.toNat else k.markSide m.toNat) :=
  doesTok_of_tokRun (i := .mark m tok) rfl hw (if_neg hn)

theorem doesTok_mark_of_l (hst : s.st = .l) (hn : -15 < vget (s.core s.me).marks m.toNat 0) :
    DoesTok (.mark m tok) tok false s (s.modCore s.me fun k => k.markL m.toNat) := by
  have h := doesTok_mark hw (m := m) (by simp [MarkAtBound, hst, hn])
  simpa only [if_pos hst] using h

theorem doesTok_mark_of_s (hst : s.st = .s) (hn : vget (s.core s.me).marks m.toNat 0 < 15) :
    DoesTok (.mark m tok) tok false s (s.modCore s.me fun k => k.markSide m.toNat) := by
  have hl : s.st ≠ .l := by simp [hst]
  have h := doesTok_mark hw (m := m) (by simp [MarkAtBound, hst, hn])
  simpa only [if_neg hl] using h

end

@[simp] theorem markL_marks (k : Core) (m : Nat) : (k.markL m).marks = vset k.marks m (vget k.marks m 0 - 1) := by
  unfold Core.markL
  dsimp only
  split <;> rfl

/-- An L-side mark without a partner is left open. -/
theorem markL_markOpen_of_nil {k : Core} {m : Nat} (h : vget k.markS m [] = []) : (k.markL m).markOpen = k.markOpen ++ [m] := by
  simp only [Core.markL, h]

/-- An L-side mark takes the oldest S-side mark of its number as its partner, for whose stores later loads wait. -/
theorem markL_markWait_of_cons {k : Core} {m b : Nat} {l : List Nat} (h : vget k.markS m [] = b :: l) :
    (k.markL m).markWait = k.markWait ++ [(m, b)] := by
  simp only [Core.markL, h]

@[simp] theorem markSide_marks (k : Core) (m : Nat) : (k.markSide m).marks = vset k.marks m (vget k.marks m 0 + 1) := by
  unfold Core.markSide
  dsimp only
  split <;> rfl

/-- An S-side mark closes the oldest open L-side mark of its number. -/
theorem markSide_markOpen_of_mem {k : Core} {m : Nat} (h : m ∈ k.markOpen) : (k.markSide m).markOpen = k.markOpen.erase m := by
  have hopen : k.markOpen.contains m = true := List.contains_iff_mem.2 h
  simp only [Core.markSide, hopen, if_true]

/-! ### The statement -/

/-- Settles O26: ainc steps its register, waita ends by the word it reads, and a mark moves its count by one within its bounds. -/
theorem addressWaitMarks : Obligations.AddressWaitMarks := by
  unfold Obligations.AddressWaitMarks
  refine ⟨fun s a imm limit tok key => ⟨does_ainc, fun hw hst => ⟨fun hmet => ?_, fun hmet hl hp => ?_⟩⟩, fun s m tok hw => ?_⟩
  · have hexec := exec_waita_of_met (a := a) (limit := limit) hw hmet
    exact ⟨doesTok_of_waitaEnd hexec (ne_a hst), stalls_of_waitaEnd hexec⟩
  · refine ⟨stalls_waita_of_not_clear hw hmet hl hp, fun l hc => traps_waita_of_poison hw hmet hl hp hc, fun hc hgood hole old => ?_⟩
    have hexec := exec_waita_of_read (limit := limit) hw hmet hl hp hc hgood hole old
    have hiff := reached_iff (s.payload tok) (rdNat s.mem key 8)
    refine ⟨fun due => ?_, fun due => ?_, fun due => ?_⟩
    · rw [if_pos (hiff.2 due)] at hexec
      exact doesTok_of_waitaEnd hexec (ne_a hst)
    · rw [if_pos (hiff.2 due)] at hexec
      exact stalls_of_waitaEnd hexec
    · rw [if_neg fun h => due (hiff.1 h)] at hexec
      exact hexec
  · refine ⟨fun hst hn => ⟨_, doesTok_mark_of_l hw hst hn, ?_⟩, fun hst hn => ⟨_, doesTok_mark_of_s hw hst hn, ?_⟩,
      fun hst hn => stalls_mark hw (.inl ⟨hst, hn⟩), fun hst hn => stalls_mark hw (.inr ⟨by simp [hst], hn⟩)⟩
    · rw [core_modCore_same, markL_marks]
      exact ⟨vget_vset_same _ _ _ _ m.isLt, fun j _ hj => vget_vset_ne _ _ _ _ _ hj, markL_markOpen_of_nil,
        fun b l => markL_markWait_of_cons⟩
    · rw [core_modCore_same, markSide_marks]
      exact ⟨vget_vset_same _ _ _ _ m.isLt, fun j _ hj => vget_vset_ne _ _ _ _ _ hj, markSide_markOpen_of_mem⟩

end Sys2Proof.Proofs
end
